-- ==== Sys2Proof/Word.lean ====
section
/-! DEFINITION. The word types of the Uphara 3216: bytes, 16-bit halves, 32-bit words, and the numberings of ovens, lines and recipe slots. -/

namespace Sys2Proof

/-- One byte of a record or of a telegram. -/
abbrev Byte := BitVec 8

/-- A 16-bit field: a tag, a ring index, a raw temperature (two's complement). -/
abbrev Half := BitVec 16

/-- A 32-bit word or address. -/
abbrev Word := BitVec 32

/-- A roster slot, 0-15 (00, Identifiers). -/
abbrev Slot := Fin 16

/-- An oven line, 0-3 (00, Identifiers). -/
abbrev LineNo := Fin 4

/-- A recipe slot, 0-63 (00, Identifiers). -/
abbrev RecipeNo := Fin 64

end Sys2Proof
end

