-- ==== Sys2Proof/Syntax.lean ====
section
/-! DEFINITION. The commands of the block: one constructor of `Instr` per row of spec/opcode_table.json, with the row's operands. -/

namespace Sys2Proof

/-- One 12-bit-time character as the receiver sampled it (R27, R28): three samples of every bit, bit 0 the start bit,
bits 1-9 the nine data bits least significant first, bit 10 the parity bit, bit 11 the stop bit; 1 is the marking level. -/
structure RawChar where
  s0 : BitVec 12
  s1 : BitVec 12
  s2 : BitVec 12
  deriving DecidableEq, Repr

/-- What memory answers (R51, R67): OK with the words of a read (none for a write), or ERROR. -/
inductive MemAnswer where
  | ok (data : List Word)
  | error
  deriving DecidableEq, Repr

/-- A request in the shape of R51 and 03 §3.1: a direction, a byte address, a burst length in words and, for a write, one
data word and four byte enables for each word. -/
structure MemRequest where
  write   : Bool
  addr    : Word
  len     : Nat
  data    : List Word
  enables : List (BitVec 4)
  deriving DecidableEq, Repr

/-- A processor request: a request with a tag 0-7 (03 §3.1). -/
structure ProcRequest where
  req : MemRequest
  tag : BitVec 3
  deriving DecidableEq, Repr

/-- The commands: each row of the table is one whole step of the part. The eighteen software commands carry their tag and
their parameters as the command record holds them (11 §11.3), so that out-of-range parameters can be judged. -/
inductive Instr where
  | partReset
  | resetRelease (psel1 psel0 : Bool)
  | hrstAssert
  | hrstRelease
  | profileReadAnswer (a : MemAnswer)
  | processorRequest (r : ProcRequest)
  | arbiterGrant
  | commandProducerIndexWrite (v : Word)
  | completionConsumerIndexWrite (v : Word)
  | serviceConsumerIndexWrite (v : Word)
  | journalConsumerIndexWrite (v : Word)
  | eventAcknowledgeWrite (v : Word)
  | siteClockLoadWrite (v : Word)
  | processorAnswer (a : MemAnswer)
  | postedWriteAnswer (a : MemAnswer)
  | commandFetchAnswer (a : MemAnswer)
  | publishReadAnswer (a : MemAnswer)
  | fillReadAnswer (l : LineNo) (a : MemAnswer)
  | verifyReadAnswer (a : MemAnswer)
  | imageBlockReadAnswer (a : MemAnswer)
  | commission (tag : Half) (slot line drop : Byte) (serial : Word) (refLow refHigh : Half)
  | restore (tag : Half) (slot line drop : Byte) (serial : Word) (refLow refHigh rawLow rawHigh : Half) (minutes : Word)
  | recalibrate (tag : Half) (slot : Byte) (refLow refHigh : Half)
  | retire (tag : Half) (slot : Byte)
  | release (tag : Half) (slot : Byte)
  | lineTest (tag : Half) (line : Byte)
  | publish (tag : Half) (recipe : Byte)
  | withdraw (tag : Half) (recipe : Byte)
  | cook (tag : Half) (oven recipe : Byte)
  | abort (tag : Half) (oven : Byte)
  | clean (tag : Half) (oven program : Byte)
  | cancelClean (tag : Half) (oven : Byte)
  | ackCall (tag : Half) (source cause : Byte)
  | closeCall (tag : Half) (source cause : Byte)
  | stageClose (tag : Half) (length check : Word)
  | rollout (tag : Half) (mask : Half) (downgrade : Byte)
  | rolloutHalt (tag : Half)
  | openProfile (tag : Half)
  | completionPost
  | servicePosting
  | journalRecordWrite
  | mirrorRewrite
  | eventSummaryWrite
  | siteClockMinuteExpiry
  | schedulerChoice (l : LineNo)
  | transmitEnd (l : LineNo)
  | replyReceived (l : LineNo) (chars : List RawChar)
  | replyWindowExpiry (l : LineNo)
  | quietEnd (l : LineNo)
  | turnaroundEnd (l : LineNo)
  | pollDue (i : Slot)
  | pollOverdue (i : Slot)
  | silenceTimerExpiry (i : Slot)
  | lineTestStart (l : LineNo)
  | lineTestLoopbackEnd (l : LineNo) (chars : List RawChar)
  | lineTestWindowExpiry (l : LineNo) (chars : List RawChar)
  | identResendExpiry (i : Slot)
  | calibrationLimitExpiry (i : Slot)
  | hygieneMinuteExpiry
  | requeueTimerExpiry (i : Slot)
  | switchLimitExpiry (i : Slot)
  | replyStartBitAccepted (l : LineNo)
  | quietStartBitAccepted (l : LineNo)
  | characterGapLimitExpiry (l : LineNo)
  deriving DecidableEq, Repr

end Sys2Proof
end

