-- ==== Sys2Proof/WellFormed.lean ====
section
/-! DEFINITION. When the operands of a command are something the part's ports can carry. -/

namespace Sys2Proof

/-- 03 §3.1: the address is a multiple of 4, the burst has 1-8 words, a write has one data word and one set of byte enables
for each word, and a read carries neither. -/
def MemRequest.wf (r : MemRequest) : Bool :=
  r.addr.toNat % 4 == 0 && decide (1 ≤ r.len) && decide (r.len ≤ 8) &&
    (if r.write then r.data.length == r.len && r.enables.length == r.len else r.data.isEmpty && r.enables.isEmpty)

/-- R51: an answer carries at most the eight words of a burst. -/
def MemAnswer.wf : MemAnswer → Bool
  | .ok data => decide (data.length ≤ 8)
  | .error => true

/-- R29: a reply has at least one character, and the longest telegram has 77. -/
def wfReply (chars : List RawChar) : Bool := decide (1 ≤ chars.length) && decide (chars.length ≤ 77)

/-- R47: the test telegram has 69 characters, so no more are heard. -/
def wfLoop (chars : List RawChar) : Bool := decide (chars.length ≤ 69)

/-- The operands of a command are of the shape its port carries. Parameters of software commands are not judged here: a
parameter out of range is answered RANGE by the command's own rule. -/
def Instr.wf : Instr → Bool
  | .partReset => true
  | .resetRelease _ _ => true
  | .hrstAssert => true
  | .hrstRelease => true
  | .profileReadAnswer a => a.wf
  | .processorRequest r => r.req.wf
  | .arbiterGrant => true
  | .commandProducerIndexWrite _ => true
  | .completionConsumerIndexWrite _ => true
  | .serviceConsumerIndexWrite _ => true
  | .journalConsumerIndexWrite _ => true
  | .eventAcknowledgeWrite _ => true
  | .siteClockLoadWrite _ => true
  | .processorAnswer a => a.wf
  | .postedWriteAnswer a => a.wf
  | .commandFetchAnswer a => a.wf
  | .publishReadAnswer a => a.wf
  | .fillReadAnswer _ a => a.wf
  | .verifyReadAnswer a => a.wf
  | .imageBlockReadAnswer a => a.wf
  | .commission _ _ _ _ _ _ _ => true
  | .restore _ _ _ _ _ _ _ _ _ _ => true
  | .recalibrate _ _ _ _ => true
  | .retire _ _ => true
  | .release _ _ => true
  | .lineTest _ _ => true
  | .publish _ _ => true
  | .withdraw _ _ => true
  | .cook _ _ _ => true
  | .abort _ _ => true
  | .clean _ _ _ => true
  | .cancelClean _ _ => true
  | .ackCall _ _ _ => true
  | .closeCall _ _ _ => true
  | .stageClose _ _ _ => true
  | .rollout _ _ _ => true
  | .rolloutHalt _ => true
  | .openProfile _ => true
  | .completionPost => true
  | .servicePosting => true
  | .journalRecordWrite => true
  | .mirrorRewrite => true
  | .eventSummaryWrite => true
  | .siteClockMinuteExpiry => true
  | .schedulerChoice _ => true
  | .transmitEnd _ => true
  | .replyReceived _ chars => wfReply chars
  | .replyWindowExpiry _ => true
  | .quietEnd _ => true
  | .turnaroundEnd _ => true
  | .pollDue _ => true
  | .pollOverdue _ => true
  | .silenceTimerExpiry _ => true
  | .lineTestStart _ => true
  | .lineTestLoopbackEnd _ chars => wfLoop chars
  | .lineTestWindowExpiry _ chars => wfLoop chars
  | .identResendExpiry _ => true
  | .calibrationLimitExpiry _ => true
  | .hygieneMinuteExpiry => true
  | .requeueTimerExpiry _ => true
  | .switchLimitExpiry _ => true
  | .replyStartBitAccepted _ => true
  | .quietStartBitAccepted _ => true
  | .characterGapLimitExpiry _ => true

end Sys2Proof
end

