-- ==== Sys2Proof/Decode.lean ====
section
/-! DEFINITION. The command that a word spells by the bits of spec/opcode_table.json: no row of this block's table gives
bits, so none does (log 34). The command records that software writes into the command ring are decoded in
Machine/Operands.lean. -/

namespace Sys2Proof

/-- Every row of the table has an empty "fields" and no "fixed", so no word spells a command. -/
def decodeTableWord (_nbits _w : Nat) : Option Instr := none

end Sys2Proof
end

