-- ==== Sys2Proof/Config.lean ====
section
/-! DEFINITION. The fixed sizes of the part and the free values: constants without a body, of which no proof can know a
value. -/

namespace Sys2Proof.Config

/-- R49: the in-flight table holds up to 8 entries. -/
def inflightMax : Nat := 8
/-- R51: up to 8 issued requests may await their answers. -/
def issuedMax : Nat := 8
/-- R62: the posted-write queue holds up to 16 entries. -/
def postedMax : Nat := 16
/-- R40: the urgent FIFO of a line holds up to 16 telegrams. -/
def urgentMax : Nat := 16
/-- R131: the open-call table holds up to 32 calls. -/
def callsMax : Nat := 32
/-- R174: the journal waiting queue holds up to 8 records. -/
def journalMax : Nat := 8
/-- R87: a cache directory holds up to 8 entries. -/
def dirMax : Nat := 8
/-- R66: a starvation counter stops at 16. -/
def starvedMax : Nat := 16
/-- R65: the posted count at which the arbiter enters DRAIN. -/
def drainEnter : Nat := 12
/-- R65: the posted count at which the arbiter returns to NORMAL. -/
def drainLeave : Nat := 7
/-- 11 §11.3: a tenth of a second, in which the profile gives the poll period, in microseconds of the reference clock. -/
def tenth : Nat := 100000
/-- 11 §11.3: the profile magic value. -/
def profileMagic : Word := 0x32165046
/-- 11 §11.3: the image magic value. -/
def imageMagic : Word := 0x4D493216

/-- Free value (log 12): whether, at the n-th event at which both could take the same oven, the cleaning offers reach the
roster before the rollout picks (R4 and R156 leave the order open). -/
opaque offersFirst : Nat → Bool

/-- Free value (log 13): which of its several damages the first faulty character of a line test is reported with (R47). -/
opaque damageReported : Byte → Nat → Nat

/-- Free value (log 26): what R13 would give for a calibration record whose raw span is zero. -/
opaque correctedOfZeroSpan : Int → Int

/-- Free value (log 26): what R14 would give for a record whose reference span is zero, or for no record. -/
opaque thresholdOfZeroSpan : Int → Int

/-- Free value (log 16): at the n-th draw, whether the verdict of an abandoned fill that has not read the whole recipe is good;
otherwise it is mismatch (R78 gives no verdict of such a fill). -/
opaque partialFillGood : Nat → Bool

/-- Free values (log 38): the detail codes of RECIPE_CORRUPT that say mismatch and read error (R82); chapter 11 lists no code
for them. -/
opaque mismatchCode : Word
opaque readErrorCode : Word

end Sys2Proof.Config
end

