-- ==== Sys2Proof/Machine/State.lean ====
section
/-! DEFINITION. The state of the Uphara 3216: plain data, one record per block of 00 "Block overview", the part-reset values,
and the reasons a step can stop. -/

namespace Sys2Proof.Machine

/-- R185, R189, R190: RESET asserted, start-up, RUNNING or PASS_ONLY. -/
inductive Mode where
  | inReset | startUp | running | passOnly
  deriving DecidableEq, Repr

/-- A timer: stopped, or running since the reference-clock time it was last started at. -/
abbrev Timer := Option Nat

/-! ## Names of 11 §11.2 -/

inductive CState where
  | vacant | assigning | identifying | calibrating | calFailed | inService | suspended | revalidating
  deriving DecidableEq, Repr

inductive Activity where
  | idle | filling | cooking | cleaning | updating
  deriving DecidableEq, Repr

inductive Origin where
  | controller | panel | auto | adopted
  deriving DecidableEq, Repr

inductive Level where
  | clean | due | overdue
  deriving DecidableEq, Repr

inductive StopCause where
  | silent | fault | update | identity
  deriving DecidableEq, Repr

inductive AbortMark where
  | unset | outstanding | acknowledged
  deriving DecidableEq, Repr

inductive Severity where
  | advisory | urgent | stop
  deriving DecidableEq, Repr

inductive Cause where
  | ovenFault | silent | calibration | identity | hygieneFail | updateFail | recipeCorrupt | memoryFault
  deriving DecidableEq, Repr

inductive Source where
  | oven (i : Slot)
  | recipe (r : RecipeNo)
  | site
  deriving DecidableEq, Repr

inductive Event where
  | completion | service | journal | hygiene | ovenLate | guard | clash | fault | ringError | rollout | profileBad
  deriving DecidableEq, Repr

inductive Reason where
  | suspended | busy | hygiene | recipeAbsent | recipeQuarantined | model | level | line
  deriving DecidableEq, Repr

inductive Stage where
  | queued | reading | streaming | evictWait | granting
  deriving DecidableEq, Repr

inductive ResultCode where
  | done | busy | state | range | disabled | noOven | collision | model | identity | calFail | denied | line | fault
  | rejected | halted
  deriving DecidableEq, Repr

inductive CookOutcome where
  | done | aborted | fault | unknown
  deriving DecidableEq, Repr

inductive CleanOutcome where
  | passed | failed | aborted | fault | declined | unknown
  deriving DecidableEq, Repr

inductive Phase where
  | soak | wash | rinse | disinfect | dry
  deriving DecidableEq, Repr

inductive NakReason where
  | notReady | noSpace | imageBad | busy
  deriving DecidableEq, Repr

inductive UpdState where
  | unset | queued | sending | switching | confirmed | failed | skipped
  deriving DecidableEq, Repr

inductive UpdReason where
  | blockNak | blockLine | readError | switchNak | serial | activity | level | switchLimit | suspended
  deriving DecidableEq, Repr

inductive UpdOutcome where
  | confirmed | failed | stopped
  deriving DecidableEq, Repr

inductive ImageState where
  | empty | filling | broken | verifying | verified | rejected | inRollout
  deriving DecidableEq, Repr

inductive RejectReason where
  | unset | readError | magic | cls | level | length | checkField | check
  deriving DecidableEq, Repr

inductive RolloutState where
  | unset | active | halting | ended
  deriving DecidableEq, Repr

inductive WindowClass where
  | unused | profile | control | report | recipeLive | recipeDraft | recipeStore | image
  deriving DecidableEq, Repr

inductive Rate where
  | r62500 | r125000 | r250000
  deriving DecidableEq, Repr

/-! ## The loaded profile (R189) -/

structure Window where
  cls  : WindowClass
  base : Word
  size : Nat
  deriving DecidableEq, Repr

/-- A ring descriptor (R167): size 0 is a disabled ring. -/
structure Ring where
  base : Word
  size : Nat
  deriving DecidableEq, Repr

structure Profile where
  windows     : List Window
  command     : Ring
  completion  : Ring
  service     : Ring
  journal     : Ring
  mirror      : Word
  summary     : Word
  watched     : List Word
  mask        : BitVec 11
  lines       : Vector (Option Rate) 4
  replyWindow : Nat
  pollPeriod  : Nat
  silenceLimit : Nat
  switchLimit : Nat
  calLimit    : Nat
  tolZero     : Nat
  tolSpan     : Nat
  tDue        : Nat
  tOver       : Nat
  holdTemp    : Nat
  holdSecs    : Nat
  maxCleaning : Nat
  requeue     : Nat
  classes     : Half
  updates     : Bool
  autoClean   : Bool
  deriving DecidableEq, Repr

/-- Before start-up has loaded a profile: the window table is empty (R52, R69), the rings have size 0, nothing is enabled
(DESIGN CHOICE of zeros for the values no rule gives at part reset, log 6). -/
def Profile.unloaded : Profile :=
  { windows := [], command := ⟨0, 0⟩, completion := ⟨0, 0⟩, service := ⟨0, 0⟩, journal := ⟨0, 0⟩, mirror := 0, summary := 0,
    watched := [], mask := 0, lines := Vector.replicate 4 none, replyWindow := 0, pollPeriod := 0, silenceLimit := 0,
    switchLimit := 0, calLimit := 0, tolZero := 0, tolSpan := 0, tDue := 0, tOver := 0, holdTemp := 0, holdSecs := 0,
    maxCleaning := 0, requeue := 0, classes := 0, updates := false, autoClean := false }

/-! ## Telegrams and lines (02) -/

/-- The telegrams the part sends, with the fields of 11 §11.5 (R32). -/
inductive Telegram where
  | poll (ack : Option Bool)
  | assign (serial : Word) (drop : Byte)
  | confirm (serial : Word) (drop : Byte)
  | unassign
  | identReq
  | probeCheck
  | fillBlock (recipe : RecipeNo) (version : Byte) (index : Nat) (last : Bool) (victim : Option RecipeNo) (data : List Byte)
  | evict (recipe : RecipeNo)
  | flush
  | grant (token : Byte) (recipe : RecipeNo) (version : Byte)
  | start (token : Byte) (recipe : RecipeNo) (version : Byte)
  | deny (reason : Reason)
  | abort
  | cleanGo (program : Byte) (threshold : Half) (holdSecs : Half)
  | imageBlock (index : Nat) (data : List Byte)
  | switch (level : Half) (check : Word)
  deriving DecidableEq, Repr

inductive Owner where
  | lineUnit | roster | cache | hygiene | update
  deriving DecidableEq, Repr

/-- An entry of the urgent FIFO (R40). `about` is the roster entry whose commissioning an ASSIGN or CONFIRM serves (those
telegrams have no target slot); `void` marks an IDENT_REQ whose outcome is to be disregarded (R24). -/
structure Queued where
  tel       : Telegram
  owner     : Owner
  target    : Option Slot
  about     : Option Slot
  addr      : Byte
  replyAddr : Byte
  void      : Bool
  deriving DecidableEq, Repr

/-- The current transaction (R35). `gone` is set when the target entry becomes VACANT meanwhile (R37). -/
structure Transaction where
  q       : Queued
  attempt : Nat
  damage  : Bool
  gone    : Bool
  deriving DecidableEq, Repr

inductive StreamKind where
  | fill | image
  deriving DecidableEq, Repr

/-- A bulk stream (R41). `data` is the image block at hand; fill data lie in the line's fill buffer. `drop` marks a stream
that its owner has abandoned while its block transaction runs (R102, R162, R164). -/
structure Stream where
  kind  : StreamKind
  slot  : Slot
  next  : Nat
  ready : Bool
  data  : List Byte
  drop  : Bool
  deriving DecidableEq, Repr

/-- One entry of a line's poll schedule (R42). `begun` is the time at which the entry's last poll began its first attempt, on the
clock of `State.now`; for an entry that has just joined it lies one poll period back, which may be before 0. -/
structure PollEntry where
  slot    : Slot
  begun   : Int
  due     : Bool
  overdue : Bool
  deriving DecidableEq, Repr

/-- The fill that holds a line's fill buffer (R98-R102). `failed` marks an abandoned fill one of whose reads has been answered
ERROR (R78). -/
structure Fill where
  slot      : Slot
  recipe    : RecipeNo
  base      : Word
  version   : Byte
  used      : Nat
  check     : Word
  issued    : Nat
  data      : List Byte
  streaming : Bool
  victim    : Option RecipeNo
  stale     : Bool
  abandoned : Bool
  failed    : Bool
  deriving DecidableEq, Repr

/-- One place in a line's fill queue (R98); `waiting` marks a fill told to wait for a commit. -/
structure FillWait where
  slot    : Slot
  waiting : Bool
  deriving DecidableEq, Repr

inductive LineState where
  | off | free | transmit | listen | receive | quiet | turnaround | test
  deriving DecidableEq, Repr

inductive TestState where
  | unset | pending | running
  deriving DecidableEq, Repr

structure Line where
  state     : LineState
  rate      : Rate
  trans     : Option Transaction
  urgent    : List Queued
  waiting   : List Queued
  streams   : List Stream
  schedule  : List PollEntry
  rr        : Slot
  fill      : Option Fill
  fillQueue : List FillWait
  test      : TestState
  window    : Timer
  quiet     : Timer
  deriving DecidableEq, Repr

/-- R25: a line at part reset; the rate is a DESIGN CHOICE (log 6). -/
def Line.reset : Line :=
  { state := .off, rate := .r62500, trans := none, urgent := [], waiting := [], streams := [], schedule := [], rr := 0,
    fill := none, fillQueue := [], test := .unset, window := none, quiet := none }

/-! ## The roster entry (01 §1.1) -/

structure Identity where
  serial : Word
  model  : Byte
  level  : Half
  deriving DecidableEq, Repr

structure Cal where
  refLow  : Half
  refHigh : Half
  rawLow  : Half
  rawHigh : Half
  deriving DecidableEq, Repr

structure Readings where
  cabinet  : Half
  core     : Half
  reported : Activity
  deriving DecidableEq, Repr

structure CookRec where
  recipe  : RecipeNo
  version : Byte
  origin  : Origin
  token   : Byte
  start   : Word
  step    : Byte
  tag     : Option Half
  deriving DecidableEq, Repr

structure GrantRec where
  token     : Byte
  recipe    : RecipeNo
  version   : Byte
  origin    : Origin
  tag       : Option Half
  confirmed : Bool
  deriving DecidableEq, Repr

structure PendingStart where
  recipe     : RecipeNo
  origin     : Origin
  tag        : Option Half
  fillNeeded : Bool
  stage      : Stage
  deriving DecidableEq, Repr

inductive Eviction where
  | unset | outstanding | due
  deriving DecidableEq, Repr

structure DirEntry where
  recipe     : RecipeNo
  version    : Byte
  stale      : Bool
  evictAtEnd : Bool
  eviction   : Eviction
  deriving DecidableEq, Repr

structure OfferRec where
  program   : Byte
  origin    : Origin
  queued    : Word
  threshold : Half
  deriving DecidableEq, Repr

/-- The cleaning in progress (06 §6.1); `phases` holds phase n in bit n. -/
structure CleanRec where
  program   : Byte
  origin    : Origin
  queued    : Word
  start     : Word
  threshold : Half
  phases    : BitVec 5
  maximum   : Option Int
  seconds   : Half
  deriving DecidableEq, Repr

/-- The update record (08 §8.4), with the block being read for the oven (R157): bytes taken and reads still to be
answered. -/
structure UpdRec where
  state        : UpdState
  nextBlock    : Nat
  switchQueued : Bool
  stopMark     : Bool
  limit        : Timer
  identAsked   : Bool
  failedIdents : Nat
  prevLevel    : Half
  picked       : Word
  reason       : Option UpdReason
  blockData    : List Byte
  readsLeft    : Nat
  deriving DecidableEq, Repr

/-- R153; next block, previous level, picked time and reason are a DESIGN CHOICE of 0 and none (log 6). -/
def UpdRec.reset : UpdRec :=
  { state := .unset, nextBlock := 0, switchQueued := false, stopMark := false, limit := none, identAsked := false,
    failedIdents := 0, prevLevel := 0, picked := 0, reason := none, blockData := [], readsLeft := 0 }

inductive JobKind where
  | commission | restore | recalibrate
  deriving DecidableEq, Repr

/-- What the roster keeps with the commissioning command in progress on an entry (R6, R7, R15, R16). -/
structure Job where
  kind    : JobKind
  tag     : Half
  named   : Word
  kept    : Word
  cal     : Cal
  minutes : Half
  deriving DecidableEq, Repr

structure Entry where
  state       : CState
  activity    : Activity
  offerOut    : Bool
  place       : Option (LineNo × Byte)
  identity    : Option Identity
  cal         : Option Cal
  probe       : Bool
  readings    : Option Readings
  late        : Bool
  failures    : Nat
  lastReply   : Option Word
  silence     : Timer
  causes      : BitVec 4
  toggle      : Option Bool
  cook        : Option CookRec
  grant       : Option GrantRec
  token       : Byte
  count       : Nat
  level       : Level
  requeue     : Timer
  offer       : Option OfferRec
  cleaning    : Option CleanRec
  upd         : UpdRec
  pairing     : Bool
  abortMark   : AbortMark
  dir         : List DirEntry
  start       : Option PendingStart
  flushDue    : Bool
  job         : Option Job
  calLimit    : Timer
  identResend : Timer
  deriving DecidableEq, Repr

/-- R1, R45, R87, R112, R153: a roster entry at part reset. -/
def Entry.reset : Entry :=
  { state := .vacant, activity := .idle, offerOut := false, place := none, identity := none, cal := none, probe := false,
    readings := none, late := false, failures := 0, lastReply := none, silence := none, causes := 0, toggle := none,
    cook := none, grant := none, token := 0, count := 0, level := .clean, requeue := none, offer := none, cleaning := none,
    upd := UpdRec.reset, pairing := false, abortMark := .unset, dir := [], start := none, flushDue := false, job := none,
    calLimit := none, identResend := none }

/-! ## The path unit (03) -/

inductive EntryState where
  | waiting | held | requesting | issued | answered
  deriving DecidableEq, Repr

/-- An entry of the in-flight table (R50). `good` and `data` are meaningful once it is ANSWERED. -/
structure InFlight where
  req   : ProcRequest
  state : EntryState
  good  : Bool
  data  : List Word
  deriving DecidableEq, Repr

/-- A response at the processor port (03 §3.1). -/
structure Response where
  tag  : BitVec 3
  good : Bool
  data : List Word
  deriving DecidableEq, Repr

/-- R134: the record a posted write carries. -/
inductive RecordKind where
  | mirror | completion | service | journal | summary
  deriving DecidableEq, Repr

structure PostedWrite where
  addr : Word
  data : List Word
  kind : RecordKind
  deriving DecidableEq, Repr

/-- R51: whom an issued request belongs to (with the clients of R63 and the start-up reads of R187). -/
inductive IssueOwner where
  | profile
  | processor
  | posted (kind : RecordKind)
  | command
  | publish
  | fill (l : LineNo)
  | verify
  | block (i : Slot)
  deriving DecidableEq, Repr

/-- One issued request awaiting its answer; `disregard` marks an answer its owner no longer wants (R70, R67). -/
structure Issued where
  owner     : IssueOwner
  req       : MemRequest
  disregard : Bool
  deriving DecidableEq, Repr

inductive ArbMode where
  | normal | drain
  deriving DecidableEq, Repr

/-- A capture record (R68). -/
structure Capture where
  latched : Bool
  addr    : Word
  overrun : Bool
  deriving DecidableEq, Repr

def Capture.reset : Capture := { latched := false, addr := 0, overrun := false }

structure PathUnit where
  portOpen    : Bool
  profileOpen : Bool
  inflight    : List InFlight
  issued      : List Issued
  posted      : List PostedWrite
  arbMode     : ArbMode
  bulkCount   : Nat
  procCount   : Nat
  bulkNext    : Fin 7
  capFetch    : Capture
  capReport   : Capture
  capRecipe   : Capture
  capImage    : Capture
  capGuard    : Capture
  responses   : List Response
  deriving DecidableEq, Repr

def PathUnit.reset : PathUnit :=
  { portOpen := false, profileOpen := false, inflight := [], issued := [], posted := [], arbMode := .normal, bulkCount := 0,
    procCount := 0, bulkNext := 0, capFetch := .reset, capReport := .reset, capRecipe := .reset, capImage := .reset,
    capGuard := .reset, responses := [] }

/-! ## The recipe unit (04) and the cache unit (05) -/

inductive RecipeState where
  | empty | published | quarantined
  deriving DecidableEq, Repr

inductive PublishState where
  | idle | reading | commitWait
  deriving DecidableEq, Repr

/-- R89: what a start is checked against. -/
structure Gate where
  classes  : Half
  minLevel : Half
  deriving DecidableEq, Repr

/-- The values the engine computed, kept for the commit (R79, R80). -/
structure Staged where
  check : Word
  used  : Nat
  gate  : Gate
  deriving DecidableEq, Repr

structure RecipeSlot where
  state   : RecipeState
  bank    : Fin 2
  version : Byte
  check   : Word
  used    : Nat
  written : Bool
  publish : PublishState
  readers : Nat
  pins    : Nat
  staged  : Option Staged
  deriving DecidableEq, Repr

/-- R73. -/
def RecipeSlot.reset : RecipeSlot :=
  { state := .empty, bank := 0, version := 0, check := 0, used := 0, written := false, publish := .idle, readers := 0,
    pins := 0, staged := none }

/-- The header fields the engine goes on with (R71, R76). -/
structure RecipeHeader where
  steps : Nat
  probe : Bool
  gate  : Gate
  deriving DecidableEq, Repr

/-- The publish engine at the head of the publish list (R76). -/
structure Engine where
  recipe : RecipeNo
  base   : Word
  issued : Nat
  taken  : Nat
  header : Option RecipeHeader
  reg    : Word
  deriving DecidableEq, Repr

structure RecipeUnit where
  slots       : Vector RecipeSlot 64
  publishList : List RecipeNo
  engine      : Option Engine
  deriving DecidableEq, Repr

def RecipeUnit.reset : RecipeUnit := { slots := Vector.replicate 64 RecipeSlot.reset, publishList := [], engine := none }

/-- R111: a pending-ABORT record. -/
structure PendingAbort where
  tag      : Half
  slot     : Slot
  token    : Byte
  orphaned : Bool
  deriving DecidableEq, Repr

structure CacheUnit where
  gates  : Vector (Option Gate) 64
  aborts : List PendingAbort
  deriving DecidableEq, Repr

def CacheUnit.reset : CacheUnit := { gates := Vector.replicate 64 none, aborts := [] }

/-! ## The hygiene unit (06) and the service unit (07) -/

structure CleanWait where
  slot     : Slot
  program  : Byte
  origin   : Origin
  queued   : Word
  idleWait : Bool
  deriving DecidableEq, Repr

structure HygieneUnit where
  queue  : List CleanWait
  minute : Timer
  deriving DecidableEq, Repr

def HygieneUnit.reset : HygieneUnit := { queue := [], minute := none }

inductive CallState where
  | unposted | posted | acknowledged
  deriving DecidableEq, Repr

structure Call where
  source       : Source
  cause        : Cause
  severity     : Severity
  state        : CallState
  raiseNo      : Word
  raised       : Word
  lastRaised   : Word
  repeats      : Nat
  escalated    : Bool
  postedBefore : Bool
  details      : List Word
  deriving DecidableEq, Repr

structure ServiceUnit where
  calls     : List Call
  nextRaise : Word
  dropped   : Bool
  deriving DecidableEq, Repr

def ServiceUnit.reset : ServiceUnit := { calls := [], nextRaise := 1, dropped := false }

/-! ## The update unit (08) -/

structure ImageHead where
  level : Half
  cls   : Byte
  deriving DecidableEq, Repr

structure ImageRec where
  state    : ImageState
  expected : Nat
  acc      : Word
  staged   : Option (Nat × Word)
  head     : Option ImageHead
  reason   : RejectReason
  deriving DecidableEq, Repr

def ImageRec.reset : ImageRec :=
  { state := .empty, expected := 0, acc := 0, staged := none, head := none, reason := .unset }

/-- A verification in progress (R151): reads issued, bytes answered, the check register and the header bytes. -/
structure Verify where
  issued : Nat
  bytes  : Nat
  reg    : Word
  header : List Byte
  deriving DecidableEq, Repr

structure RolloutRec where
  state     : RolloutState
  level     : Half
  cls       : Byte
  length    : Nat
  check     : Word
  downgrade : Bool
  target    : Half
  done      : Half
  failed    : Half
  skipped   : Half
  orphaned  : Bool
  deriving DecidableEq, Repr

def RolloutRec.reset : RolloutRec :=
  { state := .unset, level := 0, cls := 0, length := 0, check := 0, downgrade := false, target := 0, done := 0, failed := 0,
    skipped := 0, orphaned := false }

/-- A block read the update unit has asked for and the client has not yet had issued (R157). -/
structure BlockRead where
  slot : Slot
  addr : Word
  deriving DecidableEq, Repr

structure UpdateUnit where
  image      : ImageRec
  verify     : Option Verify
  rollout    : RolloutRec
  blockReads : List BlockRead
  deriving DecidableEq, Repr

def UpdateUnit.reset : UpdateUnit := { image := .reset, verify := none, rollout := .reset, blockReads := [] }

/-! ## The command unit and the report writer (09) -/

inductive LongObj where
  | oven (i : Slot)
  | recipe (r : RecipeNo)
  | line (l : LineNo)
  | image
  deriving DecidableEq, Repr

/-- R172: a long-command record. -/
structure Long where
  kind     : Byte
  tag      : Half
  obj      : LongObj
  orphaned : Bool
  deriving DecidableEq, Repr

/-- R173: a completion record. -/
structure Completion where
  tag    : Half
  kind   : Byte
  result : ResultCode
  d1     : Word
  d2     : Word
  d3     : Word
  deriving DecidableEq, Repr

inductive FetchState where
  | unset | waiting | issued
  deriving DecidableEq, Repr

structure CommandUnit where
  c           : Half
  p           : Half
  owed        : Nat
  stopped     : Bool
  fetch       : FetchState
  longs       : List Long
  completions : List Completion
  deriving DecidableEq, Repr

def CommandUnit.reset : CommandUnit :=
  { c := 0, p := 0, owed := 0, stopped := false, fetch := .unset, longs := [], completions := [] }

structure JCook where
  slot    : Slot
  origin  : Origin
  tag     : Option Half
  recipe  : RecipeNo
  version : Byte
  token   : Byte
  start   : Word
  stop    : Word
  outcome : CookOutcome
  steps   : Byte
  deriving DecidableEq, Repr

structure JClean where
  slot    : Slot
  origin  : Origin
  program : Byte
  queued  : Word
  start   : Option Word
  stop    : Word
  outcome : CleanOutcome
  phases  : BitVec 5
  maximum : Option Int
  seconds : Half
  count   : Nat
  deriving DecidableEq, Repr

structure JUpdate where
  slot     : Slot
  outcome  : UpdOutcome
  level    : Half
  check    : Word
  prev     : Half
  reported : Option Half
  picked   : Word
  stop     : Word
  blocks   : Nat
  reason   : Option UpdReason
  deriving DecidableEq, Repr

structure JCommission where
  slot   : Slot
  mark   : JobKind
  tag    : Half
  line   : LineNo
  drop   : Byte
  ident  : Identity
  cal    : Cal
  errors : Option (Int × Int)
  count  : Nat
  time   : Word
  deriving DecidableEq, Repr

/-- R175: the four kinds of journal record. -/
inductive JBody where
  | cook (r : JCook)
  | clean (r : JClean)
  | update (r : JUpdate)
  | commission (r : JCommission)
  deriving DecidableEq, Repr

structure JournalRec where
  body : JBody
  gap  : Bool
  deriving DecidableEq, Repr

/-- R178: what the rewrite list holds. -/
inductive RewriteItem where
  | oven (i : Slot)
  | site
  | summary
  deriving DecidableEq, Repr

structure ReportWriter where
  complProd     : Half
  complCons     : Half
  svcProd       : Half
  svcCons       : Half
  jrnProd       : Half
  jrnCons       : Half
  journal       : List JournalRec
  gapPending    : Bool
  ovenCounts    : Vector Word 16
  siteCount     : Word
  rewriteList   : List RewriteItem
  pendingSet    : BitVec 11
  overrunSet    : BitVec 11
  signalled     : BitVec 11
  summaryRaised : Bool
  clock         : Word
  clockTimer    : Timer
  deriving DecidableEq, Repr

def ReportWriter.reset : ReportWriter :=
  { complProd := 0, complCons := 0, svcProd := 0, svcCons := 0, jrnProd := 0, jrnCons := 0, journal := [],
    gapPending := false, ovenCounts := Vector.replicate 16 0, siteCount := 0, rewriteList := [], pendingSet := 0,
    overrunSet := 0, signalled := 0, summaryRaised := false, clock := 0, clockTimer := none }

/-- The whole part, with the queue of commands that are waiting, first in, first out. `oldIssued` holds the requests issued
before a part reset whose answers memory has still to return (R69); `startUnderHrst` says that start-up ended under an HRST that
has not been released since, and that its summary word is not yet in the posted-write queue (R186, R189). -/
structure State where
  pending     : List Instr
  now         : Nat
  freeCount   : Nat
  oldIssued   : List Issued
  mode        : Mode
  hrst        : Bool
  profileAddr : Word
  startBytes  : List Byte
  startIssued : Nat
  profile     : Profile
  faultCode   : Byte
  faultOffset : Half
  startWrites : Bool
  startUnderHrst : Bool
  path        : PathUnit
  lines       : Vector Line 4
  roster      : Vector Entry 16
  recipe      : RecipeUnit
  cache       : CacheUnit
  hygiene     : HygieneUnit
  service     : ServiceUnit
  update      : UpdateUnit
  command     : CommandUnit
  report      : ReportWriter
  deriving DecidableEq, Repr

/-- R185: the part right after the assertion of RESET, every block at its part-reset values (R1, R25, R69, R73, R112, R131,
R147, R153, R167, R179), RESET still asserted, nothing waiting. -/
def State.reset : State :=
  { pending := [], now := 0, freeCount := 0, oldIssued := [], mode := .inReset, hrst := false, profileAddr := 0x1000,
    startBytes := [], startIssued := 0, profile := .unloaded, faultCode := 0, faultOffset := 0, startWrites := false,
    startUnderHrst := false, path := .reset, lines := Vector.replicate 4 .reset, roster := Vector.replicate 16 .reset,
    recipe := .reset, cache := .reset,
    hygiene := .reset, service := .reset, update := .reset, command := .reset, report := .reset }

/-- The manual describes no stop of the part. -/
inductive Fault where
  /-- Raised by the answer rows when memory's answer has not the word count of the read it answers (R51, log 8). Safe: the
  model stops where no rule says what a memory that breaks the port's protocol causes. -/
  | answerShape
  deriving DecidableEq, Repr

inductive Refusal where
  /-- Raised by exec's arm of a command that has no meaning yet, and by nothing else. Safe. -/
  | notModelled (mnemonic : String)
  /-- Raised by PROCESSOR_REQUEST for a request that is not of the shape of 03 §3.1 (log 8). Safe: the processor port cannot
  carry such a request. -/
  | requestShape
  deriving DecidableEq, Repr

/-- What a meaning answers. -/
abbrev Result := Host.Outcome State Fault Refusal

end Sys2Proof.Machine
end

