-- ==== Sys2Proof/Machine/Operands.lean ====
section
/-! DEFINITION. Encodings of chapter 11, check words, line characters, replies and notices, corrected temperatures: everything
that reads or writes the bits of a record or a telegram. -/

namespace Sys2Proof.Machine

/-! ## Bytes (11: little-endian) -/

def le16 (h : Half) : List Byte := [h.setWidth 8, (h >>> 8).setWidth 8]

def le32 (w : Word) : List Byte := [w.setWidth 8, (w >>> 8).setWidth 8, (w >>> 16).setWidth 8, (w >>> 24).setWidth 8]

def halfOf (b0 b1 : Byte) : Half := b1 ++ b0

def wordOf (b0 b1 b2 b3 : Byte) : Word := (b3 ++ b2) ++ (b1 ++ b0)

/-- The words of a record whose bytes are given (a last part of a word is dropped; records are whole words). -/
def wordsOf : List Byte → List Word
  | b0 :: b1 :: b2 :: b3 :: t => wordOf b0 b1 b2 b3 :: wordsOf t
  | _ => []

def bytesOf (ws : List Word) : List Byte := ws.flatMap le32

def byteAt (l : List Byte) (n : Nat) : Byte := l.getD n 0

def halfAt (l : List Byte) (n : Nat) : Half := halfOf (byteAt l n) (byteAt l (n + 1))

def wordAt (l : List Byte) (n : Nat) : Word := wordOf (byteAt l n) (byteAt l (n + 1)) (byteAt l (n + 2)) (byteAt l (n + 3))

def bit (b : Bool) : Byte := if b then 1 else 0

/-- A byte with the marks of a list in its bits 0, 1, … -/
def marks (l : List Bool) : Byte := l.foldr (fun b r => (r <<< 1) ||| bit b) 0

/-- `n` bytes that carry no field (R193). -/
def zeros (n : Nat) : List Byte := List.replicate n 0

/-! ## Check words (R192) -/

def crc32Shift : Nat → Word → Word
  | 0, r => r
  | n + 1, r => crc32Shift n (if r.getLsbD 0 then (r >>> 1) ^^^ 0xEDB88320 else r >>> 1)

def crc32Byte (r : Word) (b : Byte) : Word := crc32Shift 8 (r ^^^ b.setWidth 32)

/-- The register after some bytes, before the final inversion. -/
def crc32Run (r : Word) (l : List Byte) : Word := l.foldl crc32Byte r

def crc32Start : Word := 0xFFFFFFFF

/-- R192, 32-bit check. -/
def crc32 (l : List Byte) : Word := ~~~(crc32Run crc32Start l)

def crc16Shift : Nat → Half → Half
  | 0, r => r
  | n + 1, r => crc16Shift n (if r.getLsbD 15 then (r <<< 1) ^^^ 0x1021 else r <<< 1)

def crc16Byte (r : Half) (b : Byte) : Half := crc16Shift 8 (r ^^^ (b.setWidth 16 <<< 8))

/-- R192, 16-bit check. -/
def crc16 (l : List Byte) : Half := l.foldl crc16Byte 0xFFFF

/-- R149: bytes that lie at offset `off` and after, with those of the image check field (16-19) taken as 0. -/
def maskImageBytes (off : Nat) (l : List Byte) : List Byte :=
  l.zipIdx.map (fun p => if 16 ≤ off + p.2 ∧ off + p.2 < 20 then 0 else p.1)

/-- R149: the image check continued from the check of the bytes before `off`. -/
def imageCheckFrom (acc : Word) (off : Nat) (l : List Byte) : Word := ~~~(crc32Run (~~~acc) (maskImageBytes off l))

/-! ## Codes (11 §11.2) -/

def CState.code : CState → Byte
  | .vacant => 0 | .assigning => 1 | .identifying => 2 | .calibrating => 3 | .calFailed => 4 | .inService => 5
  | .suspended => 6 | .revalidating => 7

def Activity.code : Activity → Byte
  | .idle => 0 | .filling => 1 | .cooking => 2 | .cleaning => 3 | .updating => 4

def StopCause.bitNo : StopCause → Nat
  | .silent => 0 | .fault => 1 | .update => 2 | .identity => 3

def Origin.code : Origin → Byte
  | .controller => 1 | .panel => 2 | .auto => 3 | .adopted => 4

def Level.code : Level → Byte
  | .clean => 0 | .due => 1 | .overdue => 2

def UpdState.code : UpdState → Byte
  | .unset => 0 | .queued => 1 | .sending => 2 | .switching => 3 | .confirmed => 4 | .failed => 5 | .skipped => 6

def ImageState.code : ImageState → Byte
  | .empty => 0 | .filling => 1 | .broken => 2 | .verifying => 3 | .verified => 4 | .rejected => 5 | .inRollout => 6

def RolloutState.code : RolloutState → Byte
  | .unset => 0 | .active => 1 | .halting => 2 | .ended => 3

def Source.code : Source → Byte
  | .oven i => BitVec.ofNat 8 i.val
  | .recipe r => BitVec.ofNat 8 (0x40 + r.val)
  | .site => 0xFF

def Cause.code : Cause → Byte
  | .ovenFault => 1 | .silent => 2 | .calibration => 3 | .identity => 4 | .hygieneFail => 5 | .updateFail => 6
  | .recipeCorrupt => 7 | .memoryFault => 8

def Severity.code : Severity → Byte
  | .advisory => 1 | .urgent => 2 | .stop => 3

def Reason.code : Reason → Byte
  | .suspended => 1 | .busy => 2 | .hygiene => 3 | .recipeAbsent => 4 | .recipeQuarantined => 5 | .model => 6 | .level => 7
  | .line => 8

def Stage.code : Stage → Byte
  | .queued => 1 | .reading => 2 | .streaming => 3 | .evictWait => 4 | .granting => 5

def ResultCode.code : ResultCode → Byte
  | .done => 0 | .busy => 1 | .state => 2 | .range => 3 | .disabled => 4 | .noOven => 5 | .collision => 6 | .model => 7
  | .identity => 8 | .calFail => 9 | .denied => 10 | .line => 11 | .fault => 12 | .rejected => 13 | .halted => 14

def CookOutcome.code : CookOutcome → Byte
  | .done => 1 | .aborted => 2 | .fault => 3 | .unknown => 4

def CleanOutcome.code : CleanOutcome → Byte
  | .passed => 1 | .failed => 2 | .aborted => 3 | .fault => 4 | .declined => 5 | .unknown => 6

def Phase.code : Phase → Nat
  | .soak => 0 | .wash => 1 | .rinse => 2 | .disinfect => 3 | .dry => 4

def UpdOutcome.code : UpdOutcome → Byte
  | .confirmed => 1 | .failed => 2 | .stopped => 3

def UpdReason.code : UpdReason → Byte
  | .blockNak => 1 | .blockLine => 2 | .readError => 3 | .switchNak => 4 | .serial => 5 | .activity => 6 | .level => 7
  | .switchLimit => 8 | .suspended => 9

def RejectReason.code : RejectReason → Byte
  | .unset => 0 | .readError => 1 | .magic => 2 | .cls => 3 | .level => 4 | .length => 5 | .checkField => 6 | .check => 7

def NakReason.code : NakReason → Byte
  | .notReady => 1 | .noSpace => 2 | .imageBad => 3 | .busy => 4

def Event.bitNo : Event → Nat
  | .completion => 0 | .service => 1 | .journal => 2 | .hygiene => 3 | .ovenLate => 4 | .guard => 5 | .clash => 6
  | .fault => 7 | .ringError => 8 | .rollout => 9 | .profileBad => 10

def JobKind.code : JobKind → Byte
  | .commission => 1 | .recalibrate => 2 | .restore => 3

/-- 11 §11.2: the window class of a code; none for a code outside the list. -/
def windowClassOf (b : Byte) : Option WindowClass :=
  match b.toNat with
  | 0 => some .unused | 1 => some .profile | 2 => some .control | 3 => some .report | 4 => some .recipeLive
  | 5 => some .recipeDraft | 6 => some .recipeStore | 7 => some .image | _ => none

/-- R141, R142: the source of an encoding; none outside it. -/
def sourceOf (b : Byte) : Option Source :=
  if h : b.toNat < 16 then some (.oven ⟨b.toNat, h⟩)
  else if h : 0x40 ≤ b.toNat ∧ b.toNat < 0x80 then some (.recipe ⟨b.toNat - 0x40, by omega⟩)
  else if b = 0xFF then some .site
  else none

def causeOf (b : Byte) : Option Cause :=
  match b.toNat with
  | 1 => some .ovenFault | 2 => some .silent | 3 => some .calibration | 4 => some .identity | 5 => some .hygieneFail
  | 6 => some .updateFail | 7 => some .recipeCorrupt | 8 => some .memoryFault | _ => none

def slotOf (b : Byte) : Option Slot := if h : b.toNat < 16 then some ⟨b.toNat, h⟩ else none

def lineOf (b : Byte) : Option LineNo := if h : b.toNat < 4 then some ⟨b.toNat, h⟩ else none

def recipeOf (b : Byte) : Option RecipeNo := if h : b.toNat < 64 then some ⟨b.toNat, h⟩ else none

def slotByte (i : Slot) : Byte := BitVec.ofNat 8 i.val

def recipeByte (r : RecipeNo) : Byte := BitVec.ofNat 8 r.val

/-- R193: a byte that names a recipe slot holds 0xFF where none is named. -/
def recipeByte? : Option RecipeNo → Byte
  | some r => recipeByte r
  | none => 0xFF

/-- R193: a detail shown absent. -/
def absentWord : Word := 0x80000000

def detail? : Option Word → Word
  | some w => w
  | none => absentWord

def intWord (i : Int) : Word := BitVec.ofInt 32 i

/-- R193: a signed value in a narrower field is held to the field's range. -/
def sat16 (i : Int) : Half := BitVec.ofInt 16 (max (-32768) (min 32767 i))

def natHalf (n : Nat) : Half := BitVec.ofNat 16 n

def natWord (n : Nat) : Word := BitVec.ofNat 32 n

/-! ## Corrected temperatures (R13, R14) -/

/-- N / D to the nearest whole number, halves away from zero, for D > 0. -/
def roundDiv (n d : Int) : Int :=
  if 0 ≤ n then (2 * n + d) / (2 * d) else -((2 * (-n) + d) / (2 * d))

def clampTemp (t : Int) : Int := max (-400) (min 4000 t)

def Cal.refSpan (c : Cal) : Int := c.refHigh.toInt - c.refLow.toInt

def Cal.rawSpan (c : Cal) : Int := c.rawHigh.toInt - c.rawLow.toInt

/-- R13. A record whose raw span is not positive is never stored (R11, R16); a zero span gives a free value (log 26). -/
def Cal.corrected (c : Cal) (raw : Int) : Int :=
  if c.rawSpan = 0 then Config.correctedOfZeroSpan raw
  else
    let sign : Int := if 0 < c.rawSpan then 1 else -1
    clampTemp (roundDiv (sign * (c.refLow.toInt * c.rawSpan + (raw - c.rawLow.toInt) * c.refSpan)) (sign * c.rawSpan))

/-- R14, rounded upward; held to the telegram field's range (R193, log 25). -/
def Cal.threshold (c : Cal) (t : Int) : Half :=
  if c.refSpan = 0 then sat16 (Config.thresholdOfZeroSpan t)
  else
    let sign : Int := if 0 < c.refSpan then 1 else -1
    sat16 (-((-(sign * (c.rawLow.toInt * c.refSpan + (t - c.refLow.toInt) * c.rawSpan))) / (sign * c.refSpan)))

/-! ## Characters on a line (R27, R28) -/

def oddOnes {n : Nat} (v : BitVec n) : Bool := (List.range n).foldl (fun p i => p ^^ v.getLsbD i) false

/-- R27: start bit 0, nine data bits, a parity bit that makes the ones even, stop bit 1. -/
def frameChar (c : BitVec 9) : BitVec 12 :=
  (((1#1 ++ BitVec.ofBool (oddOnes c)) ++ c) ++ 0#1 : BitVec 12)

/-- A character as the receiver takes it, with its damage. -/
structure RxChar where
  data    : BitVec 9
  noise   : Bool
  parity  : Bool
  framing : Bool
  deriving DecidableEq, Repr

def RxChar.damaged (c : RxChar) : Bool := c.noise || c.parity || c.framing

/-- R28: the majority of the three samples of each bit. -/
def majority (r : RawChar) : BitVec 12 := (r.s0 &&& r.s1) ||| (r.s0 &&& r.s2) ||| (r.s1 &&& r.s2)

/-- R28: a false start is no character. -/
def sampleChar (r : RawChar) : Option RxChar :=
  let m := majority r
  if m.getLsbD 0 then none
  else some { data := m.extractLsb' 1 9, noise := r.s0 != r.s1 || r.s1 != r.s2, parity := oddOnes (m.extractLsb' 1 10),
              framing := !m.getLsbD 11 }

def sampleChars (l : List RawChar) : List RxChar := l.filterMap sampleChar

/-- A character on the wire with every sample in agreement. -/
def cleanChar (c : BitVec 9) : RawChar := ⟨frameChar c, frameChar c, frameChar c⟩

/-! ## Telegrams the part sends (R29, R32, 11 §11.5) -/

def Telegram.code : Telegram → Byte
  | .poll _ => 0x01
  | .assign _ _ => 0x02
  | .confirm _ _ => 0x03
  | .unassign => 0x04
  | .identReq => 0x05
  | .probeCheck => 0x06
  | .fillBlock _ _ _ _ _ _ => 0x07
  | .evict _ => 0x08
  | .flush => 0x09
  | .grant _ _ _ => 0x0A
  | .start _ _ _ => 0x0B
  | .deny _ => 0x0C
  | .abort => 0x0D
  | .cleanGo _ _ _ => 0x0E
  | .imageBlock _ _ => 0x0F
  | .switch _ _ => 0x10

def Telegram.payload : Telegram → List Byte
  | .poll none => [2]
  | .poll (some b) => [bit b]
  | .assign serial drop => le32 serial ++ [drop]
  | .confirm serial drop => le32 serial ++ [drop]
  | .unassign => []
  | .identReq => []
  | .probeCheck => []
  | .fillBlock r v i last victim data => [recipeByte r, v, BitVec.ofNat 8 i, bit last, recipeByte? victim] ++ data
  | .evict r => [recipeByte r]
  | .flush => []
  | .grant t r v => [t, recipeByte r, v]
  | .start t r v => [t, recipeByte r, v]
  | .deny r => [r.code]
  | .abort => []
  | .cleanGo p t h => [p] ++ le16 t ++ le16 h
  | .imageBlock i data => le16 (natHalf i) ++ data
  | .switch level check => le16 level ++ le32 check

/-- 02 §2.3, R27: the address character with its mark, kind, length, payload and check word. -/
def charsOf (addr kind : Byte) (payload : List Byte) : List (BitVec 9) :=
  let body := kind :: BitVec.ofNat 8 payload.length :: payload
  (0x100#9 ||| addr.setWidth 9) :: (body ++ le16 (crc16 body)).map (fun b => b.setWidth 9)

def Queued.chars (q : Queued) : List (BitVec 9) := charsOf q.addr q.tel.code q.tel.payload

/-- R47: the line test's telegram. -/
def testChars : List (BitVec 9) := charsOf 0 0x1F ((List.range 64).map (fun i => BitVec.ofNat 8 i ^^^ 0x5A))

/-! ## Replies and notices (R30-R34, 11 §11.5) -/

inductive CleanEnd where
  | complete | aborted | fault
  deriving DecidableEq, Repr

inductive Notice where
  | startRequest (recipe : RecipeNo)
  | cleanRequest (program : Byte)
  | step (token : Byte) (recipe : RecipeNo) (version step : Byte)
  | cookEnd (token : Byte) (recipe : RecipeNo) (version : Byte) (outcome : CookOutcome) (steps : Byte)
  | cleanPhase (phase : Phase) (rawMax secs : Half)
  | cleanEnd (outcome : CleanEnd)
  | fault (cls : Severity) (codes : List Half)
  | calBusy
  | probeResult (rawLow rawHigh : Half)
  deriving DecidableEq, Repr

/-- 11 §11.5: the notice kinds. -/
def Notice.code : Notice → Byte
  | .startRequest _ => 1
  | .cleanRequest _ => 2
  | .step _ _ _ _ => 3
  | .cookEnd _ _ _ _ _ => 4
  | .cleanPhase _ _ _ => 5
  | .cleanEnd _ => 6
  | .fault _ _ => 7
  | .calBusy => 8
  | .probeResult _ _ => 9

structure IdentReply where
  serial   : Word
  model    : Byte
  level    : Half
  activity : Activity
  token    : Byte
  recipe   : RecipeNo
  version  : Byte
  deriving DecidableEq, Repr

structure StatusReply where
  activity : Activity
  cabinet  : Half
  core     : Half
  notice   : Option (Bool × Notice)
  deriving DecidableEq, Repr

inductive Reply where
  | ack
  | nak (r : NakReason)
  | pair (serial : Word)
  | ident (i : IdentReply)
  | status (s : StatusReply)
  deriving DecidableEq, Repr

/-- R33: the three activities an oven may report. -/
def reportedOf (b : Byte) : Option Activity :=
  match b.toNat with
  | 0 => some .idle | 2 => some .cooking | 3 => some .cleaning | _ => none

def severityOf (b : Byte) : Option Severity :=
  match b.toNat with
  | 1 => some .advisory | 2 => some .urgent | 3 => some .stop | _ => none

def nakOf (b : Byte) : Option NakReason :=
  match b.toNat with
  | 1 => some .notReady | 2 => some .noSpace | 3 => some .imageBad | 4 => some .busy | _ => none

def phaseOf (b : Byte) : Option Phase :=
  match b.toNat with
  | 0 => some .soak | 1 => some .wash | 2 => some .rinse | 3 => some .disinfect | 4 => some .dry | _ => none

/-- R34: the outcomes a COOK_END may carry. -/
def cookOutcomeOf (b : Byte) : Option CookOutcome :=
  match b.toNat with
  | 1 => some .done | 2 => some .aborted | 3 => some .fault | _ => none

def cleanEndOf (b : Byte) : Option CleanEnd :=
  match b.toNat with
  | 1 => some .complete | 2 => some .aborted | 3 => some .fault | _ => none

/-- The 2-byte codes of a FAULT notice. -/
def halvesOf : List Byte → List Half
  | b0 :: b1 :: t => halfOf b0 b1 :: halvesOf t
  | _ => []

/-- R34: the fields of a STEP. -/
def stepOf : List Byte → Option Notice
  | [t, r, v, k] => if k.toNat ≤ 29 then (recipeOf r).map (fun r => .step t r v k) else none
  | _ => none

/-- R34: the fields of a COOK_END. -/
def cookEndOf : List Byte → Option Notice
  | [t, r, v, o, k] =>
    match recipeOf r, cookOutcomeOf o with
    | some r, some o => some (.cookEnd t r v o k)
    | _, _ => none
  | _ => none

/-- R34: the fields of a CLEAN_PHASE. -/
def cleanPhaseOf : List Byte → Option Notice
  | [p, m0, m1, q0, q1] => (phaseOf p).map (fun p => .cleanPhase p (halfOf m0 m1) (halfOf q0 q1))
  | _ => none

/-- R34: the fields of a FAULT. -/
def faultOf : List Byte → Option Notice
  | c :: n :: rest =>
    if 1 ≤ n.toNat ∧ n.toNat ≤ 4 ∧ rest.length = 2 * n.toNat then (severityOf c).map (fun c => .fault c (halvesOf rest))
    else none
  | _ => none

/-- R34, R194: a notice that fills exactly the bytes given; none when any field or the length is outside its list. -/
def noticeOf : List Byte → Option Notice
  | [] => none
  | kind :: f =>
    match kind.toNat with
    | 1 => match f with
      | [r] => (recipeOf r).map .startRequest
      | _ => none
    | 2 => match f with
      | [p] => if 1 ≤ p.toNat ∧ p.toNat ≤ 4 then some (.cleanRequest p) else none
      | _ => none
    | 3 => stepOf f
    | 4 => cookEndOf f
    | 5 => cleanPhaseOf f
    | 6 => match f with
      | [o] => (cleanEndOf o).map .cleanEnd
      | _ => none
    | 7 => faultOf f
    | 8 => if f.isEmpty then some .calBusy else none
    | 9 => match f with
      | [a0, a1, b0, b1] => some (.probeResult (halfOf a0 a1) (halfOf b0 b1))
      | _ => none
    | _ => none

/-- R33: STATUS; byte 5 carries only its toggle and its notice present mark (log 31). -/
def statusOf (b : List Byte) : Option Reply :=
  match b with
  | a :: c0 :: c1 :: k0 :: k1 :: f :: rest =>
    match reportedOf a with
    | none => none
    | some act =>
      if f.toNat = 0 ∨ f.toNat = 1 then
        if rest.isEmpty then some (.status ⟨act, halfOf c0 c1, halfOf k0 k1, none⟩) else none
      else if f.toNat = 2 ∨ f.toNat = 3 then
        (noticeOf rest).map (fun n => .status ⟨act, halfOf c0 c1, halfOf k0 k1, some (f.getLsbD 0, n)⟩)
      else none
  | _ => none

/-- R9, R33: IDENT. -/
def identOf (b : List Byte) : Option Reply :=
  let serial := wordAt b 0
  let model := byteAt b 4
  let level := halfAt b 5
  if b.length < 8 ∨ serial = 0 ∨ model = 0 ∨ level = 0 then none
  else
    match reportedOf (byteAt b 7) with
    | none => none
    | some .cooking =>
      if b.length = 11 then
        (recipeOf (byteAt b 9)).map (fun r => .ident ⟨serial, model, level, .cooking, byteAt b 8, r, byteAt b 10⟩)
      else none
    | some act => if b.length = 8 then some (.ident ⟨serial, model, level, act, 0, 0, 0⟩) else none

/-- 11 §11.5: the reply kinds. -/
def isReplyKind (k : Byte) : Bool := decide (0x81 ≤ k.toNat) && decide (k.toNat ≤ 0x85)

/-- R33, R194: a reply of a kind and payload; none is a damaged reply. -/
def parseReply (kind : Byte) (b : List Byte) : Option Reply :=
  if kind = 0x81 then if b.isEmpty then some .ack else none
  else if kind = 0x82 then
    match b with
    | [r] => (nakOf r).map .nak
    | _ => none
  else if kind = 0x83 then if b.length = 4 then some (.pair (wordAt b 0)) else none
  else if kind = 0x84 then identOf b
  else if kind = 0x85 then statusOf b
  else none

/-- R32: the telegrams that allow an ACK. -/
def Telegram.takesAck : Telegram → Bool
  | .poll _ => false
  | .assign _ _ => false
  | .identReq => false
  | _ => true

/-- R32: the telegrams that allow a NAK. -/
def Telegram.takesNak : Telegram → Bool
  | .unassign => false
  | .flush => false
  | .deny _ => false
  | t => t.takesAck

/-- R32: the reply kinds allowed for a telegram; R7: a PAIR reply with serial 0, or with another serial than the one the
ASSIGN named, is damaged. -/
def allowsReply (t : Telegram) (r : Reply) : Bool :=
  match r with
  | .ack => t.takesAck
  | .nak _ => t.takesNak
  | .pair n =>
    match t with
    | .assign serial _ => n != 0 && (serial == 0 || n == serial)
    | _ => false
  | .ident _ =>
    match t with
    | .identReq => true
    | _ => false
  | .status _ =>
    match t with
    | .poll _ => true
    | _ => false

/-- R30: what the characters heard so far amount to: not yet a whole reply, a damaged one, or a well-formed one. -/
inductive Heard where
  | incomplete
  | damaged
  | wellFormed (kind : Byte) (payload : List Byte)
  deriving DecidableEq, Repr

/-- R30, the checks made when the last character has arrived. -/
def judgeWhole (cs : List RxChar) : Heard :=
  let low := cs.map (fun c => c.data.setWidth 8)
  let body := (low.drop 1).dropLast.dropLast
  if cs.any RxChar.damaged || (cs.drop 1).any (fun c => c.data.getLsbD 8) then .damaged
  else if low.drop (body.length + 1) = le16 (crc16 body) then .wellFormed (byteAt body 0) (body.drop 2)
  else .damaged

/-- R30: judged as soon as the character concerned is received, else when the last has arrived. -/
def judgeReply (addr : Byte) (cs : List RxChar) : Heard :=
  match cs with
  | [] => .incomplete
  | c0 :: t0 =>
    if c0.data != 0x100#9 ||| addr.setWidth 9 then .damaged
    else match t0 with
      | [] => .incomplete
      | c1 :: t1 =>
        if !isReplyKind (c1.data.setWidth 8) then .damaged
        else match t1 with
          | [] => .incomplete
          | c2 :: t2 =>
            let n := (c2.data.setWidth 8 : Byte).toNat
            if 72 < n then .damaged
            else if t2.length < n + 2 then .incomplete
            else judgeWhole (c0 :: c1 :: c2 :: t2.take (n + 2))

/-- R31: a well-formed reply against the telegram it answers. -/
def replyTo (t : Telegram) (kind : Byte) (payload : List Byte) : Option Reply :=
  match parseReply kind payload with
  | some r => if allowsReply t r then some r else none
  | none => none

/-! ## The line test's verdict (R47) -/

inductive FirstFault where
  | none | parity | framing | noise | unequal | missing
  deriving DecidableEq, Repr

def FirstFault.code : FirstFault → Byte
  | .none => 0 | .parity => 1 | .framing => 2 | .noise => 3 | .unequal => 4 | .missing => 5

/-- The damages of a looped character, for the report of the first fault. -/
def damagesOf (c : RxChar) (sent : BitVec 9) : List FirstFault :=
  (if c.parity then [.parity] else []) ++ (if c.framing then [.framing] else []) ++ (if c.noise then [.noise] else []) ++
    (if c.data != sent then [.unequal] else [])

/-- R47 names one first fault; of several in one character the one reported is a free value (log 13). -/
def reportedDamage (c : RxChar) : List FirstFault → FirstFault
  | [] => .none
  | [f] => f
  | f :: g :: fs =>
    (f :: g :: fs).getD (Config.damageReported (c.data.setWidth 8) (fs.length + 2) % (fs.length + 2)) f

/-- How far the looped characters agree with those sent: how many, and the first fault, if one has come. -/
def loopRun : List (BitVec 9) → List RxChar → Nat → Nat × FirstFault
  | s :: ss, c :: cs, n =>
    match damagesOf c s with
    | [] => loopRun ss cs (n + 1)
    | fs => (n, reportedDamage c fs)
  | _, _, n => (n, .none)

/-! ## Records the part writes (11 §11.4) -/

def Completion.words (c : Completion) : List Word :=
  wordsOf (le16 c.tag ++ [c.kind, c.result.code]) ++ [c.d1, c.d2, c.d3]

/-- R140 and the service record's layout. -/
def Call.words (c : Call) : List Word :=
  let flags := c.severity.code ||| (bit c.escalated <<< 2) ||| (bit c.postedBefore <<< 3) |||
    (BitVec.ofNat 8 c.details.length <<< 4)
  wordsOf [c.source.code, c.cause.code, flags, BitVec.ofNat 8 c.repeats] ++ [c.raiseNo, c.raised, c.lastRaised] ++
    (List.range 4).map (fun k => c.details.getD k 0)

def Cal.bytes (c : Cal) : List Byte := le16 c.refLow ++ le16 c.refHigh ++ le16 c.rawLow ++ le16 c.rawHigh

/-- The journal record's layout (11 §11.4): 32 bytes. A model class above 15 keeps its low four bits (log 58). -/
def JournalRec.words (r : JournalRec) : List Word :=
  match r.body with
  | .cook j =>
    wordsOf ([1, marks [r.gap, j.tag.isSome], slotByte j.slot, j.origin.code] ++ le16 (j.tag.getD 0) ++
      [recipeByte j.recipe, j.version, j.token, j.outcome.code, j.steps, 0]) ++ [j.start, j.stop, 0, 0, 0]
  | .clean j =>
    wordsOf ([2, marks [r.gap, j.start.isSome, j.maximum.isSome], slotByte j.slot, j.origin.code, j.program, j.outcome.code,
      j.phases.setWidth 8, 0] ++ le32 j.queued ++ le32 (j.start.getD 0) ++ le32 j.stop ++
      le16 (match j.maximum with | some m => sat16 m | none => 0) ++ le16 j.seconds ++ le16 (natHalf j.count) ++ zeros 6)
  | .update j =>
    wordsOf ([3, marks [r.gap, j.reported.isSome], slotByte j.slot, j.outcome.code,
      (match j.reason with | some x => x.code | none => 0), 0] ++ le16 j.level ++ le32 j.check ++ le16 j.prev ++
      le16 (j.reported.getD 0) ++ le32 j.picked ++ le32 j.stop ++ le16 (natHalf j.blocks) ++ zeros 6)
  | .commission j =>
    wordsOf ([4, marks [r.gap, j.errors.isSome], slotByte j.slot, j.mark.code ||| (j.ident.model <<< 4)] ++ le16 j.tag ++
      [BitVec.ofNat 8 j.line.val, j.drop] ++ le32 j.ident.serial ++ le16 (natHalf j.count) ++ le16 j.ident.level ++
      j.cal.bytes ++
      (match j.errors with | some e => le16 (sat16 e.1) ++ le16 (sat16 e.2) | none => zeros 4) ++ le32 j.time)

/-- R193: the record kind of a MEMORY_FAULT detail. -/
def RecordKind.code : RecordKind → Byte
  | .mirror => 1 | .completion => 2 | .service => 3 | .journal => 4 | .summary => 5

/-- 11 §11.4: the event summary word. -/
def summaryWord (pendingSet overrunSet : BitVec 11) : Word :=
  pendingSet.setWidth 32 ||| (overrunSet.setWidth 32 <<< 16)

end Sys2Proof.Machine
end

