-- ==== Sys2Proof/Machine/Ops.lean ====
section
/-! DEFINITION. The named operations over the state: reading and changing one roster entry, line or recipe slot, queuing a
telegram, completing a command, passing a journal record, timers. -/

namespace Sys2Proof.Machine

/-! ## Numberings -/

def slots : List Slot := [0, 1, 2, 3, 4, 5, 6, 7, 8, 9, 10, 11, 12, 13, 14, 15]

def lineNos : List LineNo := [0, 1, 2, 3]

/-- A set of ovens (masks of 08 §8.4). -/
def slotBit (i : Slot) : Half := 1 <<< i.val

def slotIn (m : Half) (i : Slot) : Bool := m.getLsbD i.val

/-! ## Parts of the state -/

def State.ent (s : State) (i : Slot) : Entry := s.roster[i]

def State.setEnt (s : State) (i : Slot) (e : Entry) : State := { s with roster := s.roster.set i e }

def State.modEnt (s : State) (i : Slot) (f : Entry → Entry) : State := s.setEnt i (f (s.ent i))

def State.ln (s : State) (l : LineNo) : Line := s.lines[l]

def State.setLn (s : State) (l : LineNo) (x : Line) : State := { s with lines := s.lines.set l x }

def State.modLn (s : State) (l : LineNo) (f : Line → Line) : State := s.setLn l (f (s.ln l))

def State.rslot (s : State) (r : RecipeNo) : RecipeSlot := s.recipe.slots[r]

def State.setRslot (s : State) (r : RecipeNo) (x : RecipeSlot) : State :=
  { s with recipe := { s.recipe with slots := s.recipe.slots.set r x } }

def State.modRslot (s : State) (r : RecipeNo) (f : RecipeSlot → RecipeSlot) : State := s.setRslot r (f (s.rslot r))

def State.gate (s : State) (r : RecipeNo) : Option Gate := s.cache.gates[r]

def State.running (s : State) : Bool := s.mode == .running

/-- The bank address of 03 §3.5; the store base is 0 where the profile has no RECIPE_STORE window. -/
def State.storeBase (s : State) : Word :=
  match s.profile.windows.find? (fun w => w.cls == .recipeStore) with
  | some w => w.base
  | none => 0

def State.hasStore (s : State) : Bool := s.profile.windows.any (fun w => w.cls == .recipeStore)

def State.imageWindow (s : State) : Option Window := s.profile.windows.find? (fun w => w.cls == .image)

def bankAddr (base : Word) (r : RecipeNo) (b : Fin 2) : Word := base + natWord ((2 * r.val + b.val) * 512)

def otherBank (b : Fin 2) : Fin 2 := if b = 0 then 1 else 0

/-- A line the profile enables (R189). -/
def State.lineEnabled (s : State) (l : LineNo) : Bool := (s.profile.lines[l]).isSome

/-- The oven's place, with line 0 and drop 0 where it has none. -/
def Entry.line (e : Entry) : LineNo :=
  match e.place with
  | some p => p.1
  | none => 0

def Entry.drop (e : Entry) : Byte :=
  match e.place with
  | some p => p.2
  | none => 0

def State.onLine (s : State) (l : LineNo) (i : Slot) : Bool :=
  match (s.ent i).place with
  | some p => p.1 == l
  | none => false

/-- R3, R42: the states in which an oven is polled whatever else holds. -/
def CState.polled : CState → Bool
  | .identifying => true
  | .calibrating => true
  | .inService => true
  | .suspended => true
  | .revalidating => true
  | _ => false

/-! ## Timers -/

/-- What is left of a limit, for a timer that runs. -/
def Timer.remaining (t : Timer) (now limit : Nat) : Option Nat := t.map (fun t0 => limit - (now - t0))

/-! ## Outcomes of a transaction (R36) -/

/-- What an owner is told: the valid reply, or FAILED with the damage seen mark. -/
inductive Outcome where
  | valid (r : Reply)
  | failed (damage : Bool)
  deriving DecidableEq, Repr

def Outcome.isAck : Outcome → Bool
  | .valid .ack => true
  | _ => false

/-! ## Telegrams (R40) -/

/-- A telegram joins the urgent FIFO, or the waiting offers while the FIFO is full. -/
def queueUrgent (l : LineNo) (q : Queued) (s : State) : State :=
  s.modLn l fun x =>
    if x.urgent.length < Config.urgentMax then { x with urgent := x.urgent ++ [q] } else { x with waiting := x.waiting ++ [q] }

/-- R29: an owner's telegram to the drop of an entry. -/
def sendTo (i : Slot) (o : Owner) (t : Telegram) (s : State) : State :=
  let e := s.ent i
  queueUrgent e.line
    { tel := t, owner := o, target := some i, about := none, addr := e.drop, replyAddr := e.drop, void := false } s

/-- R29: ASSIGN to the broadcast address, answered from it. -/
def sendAssign (i : Slot) (serial : Word) (s : State) : State :=
  let e := s.ent i
  queueUrgent e.line
    { tel := .assign serial e.drop, owner := .roster, target := none, about := some i, addr := 0, replyAddr := 0,
      void := false } s

/-- R8, R29: CONFIRM to the broadcast address, answered from the new drop. -/
def sendConfirm (i : Slot) (serial : Word) (s : State) : State :=
  let e := s.ent i
  queueUrgent e.line
    { tel := .confirm serial e.drop, owner := .roster, target := none, about := some i, addr := 0, replyAddr := e.drop,
      void := false } s

/-- R8, R37: UNASSIGN has no target slot. -/
def sendUnassign (i : Slot) (s : State) : State :=
  let e := s.ent i
  queueUrgent e.line
    { tel := .unassign, owner := .roster, target := none, about := none, addr := e.drop, replyAddr := e.drop,
      void := false } s

/-- Telegrams removed from the urgent FIFO and the waiting offers of every line (R37, R103, R162). The oldest waiting offers take the
places that this frees in the FIFO, so that no telegram queued later goes ahead of them (R8, log 29). -/
def removeTelegrams (p : Queued → Bool) (s : State) : State :=
  { s with lines := s.lines.map fun x =>
      let left := (x.urgent ++ x.waiting).filter (fun q => !p q)
      { x with urgent := left.take Config.urgentMax, waiting := left.drop Config.urgentMax } }

def State.telegramQueued (s : State) (p : Queued → Bool) : Bool :=
  lineNos.any fun l => (s.ln l).urgent.any p || (s.ln l).waiting.any p

/-- The current transaction of some line has this property. -/
def State.transRunning (s : State) (p : Queued → Bool) : Bool :=
  lineNos.any fun l =>
    match (s.ln l).trans with
    | some t => p t.q
    | none => false

/-! ## The poll schedule (R42) -/

/-- One poll period of the profile, in tenths of a second (R42, 11 §11.3), in the unit of `State.now` (log 10). -/
def State.pollTime (s : State) : Nat := Config.tenth * s.profile.pollPeriod

/-- An entry joins its line's schedule as already due: its last poll is taken to have begun one poll period earlier (R42). -/
def joinSchedule (i : Slot) (s : State) : State :=
  s.modLn (s.ent i).line fun x =>
    if x.schedule.any (fun p => p.slot == i) then x
    else
      { x with schedule := x.schedule ++ [{ slot := i, begun := s.now - s.pollTime, due := true, overdue := false }] }

def leaveSchedule (i : Slot) (s : State) : State :=
  { s with lines := s.lines.map fun x => { x with schedule := x.schedule.filter (fun p => p.slot != i) } }

/-! ## Commands and their completions (R172, R173) -/

def kindCommission : Byte := 0x01
def kindRestore : Byte := 0x02
def kindRecalibrate : Byte := 0x03
def kindRetire : Byte := 0x04
def kindRelease : Byte := 0x05
def kindLineTest : Byte := 0x10
def kindPublish : Byte := 0x20
def kindWithdraw : Byte := 0x21
def kindCook : Byte := 0x30
def kindAbort : Byte := 0x31
def kindClean : Byte := 0x40
def kindCancelClean : Byte := 0x41
def kindAckCall : Byte := 0x50
def kindCloseCall : Byte := 0x51
def kindStageClose : Byte := 0x60
def kindRollout : Byte := 0x61
def kindRolloutHalt : Byte := 0x62
def kindOpenProfile : Byte := 0x70

/-- An owner hands the command unit a result; unused detail words are 0. -/
def complete (tag : Half) (kind : Byte) (r : ResultCode) (d1 d2 d3 : Word) (s : State) : State :=
  { s with command := { s.command with
      completions := s.command.completions ++ [{ tag := tag, kind := kind, result := r, d1 := d1, d2 := d2, d3 := d3 }] } }

def State.longOf (s : State) (o : LongObj) : Option Long := s.command.longs.find? (fun x => x.obj == o)

/-- A long command holds the object. -/
def State.held (s : State) (o : LongObj) : Bool := (s.longOf o).isSome

def startLong (kind : Byte) (tag : Half) (o : LongObj) (s : State) : State :=
  { s with command := { s.command with
      longs := s.command.longs ++ [{ kind := kind, tag := tag, obj := o, orphaned := false }] } }

/-- R172: the record is removed, and the command completes unless it is orphaned. -/
def endLong (o : LongObj) (r : ResultCode) (d1 d2 d3 : Word) (s : State) : State :=
  match s.longOf o with
  | none => s
  | some x =>
    let s1 := { s with command := { s.command with longs := s.command.longs.filter (fun y => y.obj != o) } }
    if x.orphaned then s1 else complete x.tag x.kind r d1 d2 d3 s1

/-! ## The journal (R174) -/

def passJournal (b : JBody) (s : State) : State :=
  if s.report.journal.length < Config.journalMax then
    { s with report := { s.report with
        journal := s.report.journal ++ [{ body := b, gap := s.report.gapPending }], gapPending := false } }
  else { s with report := { s.report with gapPending := true } }

/-! ## Activity (R5, R20) -/

/-- The activity returns to IDLE, and the abort mark to none with it (R20). -/
def toIdle (i : Slot) (s : State) : State := s.modEnt i fun e => { e with activity := .idle, abortMark := .unset }

/-- R20: the roster queues an ABORT unless its abort mark says that one is outstanding or acknowledged. -/
def queueRosterAbort (i : Slot) (s : State) : State :=
  if (s.ent i).abortMark = .unset then
    sendTo i .roster .abort (s.modEnt i fun e => { e with abortMark := .outstanding })
  else s

/-- R4: a claim is granted when the entry is IN_SERVICE and IDLE with no cleaning offer outstanding. -/
def Entry.claimable (e : Entry) : Bool := e.state == .inService && e.activity == .idle && !e.offerOut

/-! ## Issued requests -/

/-- R67, R70: the answers still to come for these requests are no longer wanted. -/
def disregardIssued (p : IssueOwner → Bool) (s : State) : State :=
  { s with path := { s.path with
      issued := s.path.issued.map (fun x => if p x.owner then { x with disregard := true } else x) } }

/-- A read of the part's own. -/
def ownRead (addr : Word) (len : Nat) : MemRequest := { write := false, addr := addr, len := len, data := [], enables := [] }

def issueRequest (o : IssueOwner) (r : MemRequest) (s : State) : State :=
  { s with path := { s.path with issued := s.path.issued ++ [{ owner := o, req := r, disregard := false }] } }

/-- R62, R65: an entry joins the posted-write queue, which may bring the arbiter into DRAIN. -/
def postWrite (w : PostedWrite) (s : State) : State :=
  let q := s.path.posted ++ [w]
  { s with path := { s.path with
      posted := q, arbMode := if Config.drainEnter ≤ q.length then .drain else s.path.arbMode } }

end Sys2Proof.Machine
end

