-- ==== Sys2Proof/Machine/Flags.lean ====
section
/-! DEFINITION. Event kinds, capture records, the hygiene level, and the output pins computed from the state. -/

namespace Sys2Proof.Machine

/-! ## Events (R179) -/

def eventBit (e : Event) : BitVec 11 := 1 <<< e.bitNo

/-- A raised kind joins the pending set, or the overrun set if it is pending already; the summary word becomes owed. Raises
outside RUNNING and while HRST is asserted are disregarded (R183, R190). -/
def raiseEvent (e : Event) (s : State) : State :=
  if s.running && !s.hrst then
    if s.report.pendingSet.getLsbD e.bitNo then
      { s with report := { s.report with overrunSet := s.report.overrunSet ||| eventBit e, summaryRaised := true } }
    else { s with report := { s.report with pendingSet := s.report.pendingSet ||| eventBit e, summaryRaised := true } }
  else s

/-- R137: a dropped raise marks SERVICE overrun and leaves the pending set. -/
def markServiceOverrun (s : State) : State :=
  if s.running && !s.hrst then
    { s with report := { s.report with overrunSet := s.report.overrunSet ||| eventBit .service, summaryRaised := true } }
  else s

/-- R178: the rewrite list with the site record owed; one that is in the list already keeps its place. -/
def withSite (l : List RewriteItem) : List RewriteItem := if l.contains .site then l else l ++ [.site]

/-- The site record is owed at once, whatever it shows at the end of the event: at a dropped raise (R137) and at a change of a
capture record (R68). It stands in the list before the ovens of the same event (log 11). -/
def oweSite (s : State) : State := { s with report := { s.report with rewriteList := withSite s.report.rewriteList } }

/-! ## Capture records (R68) -/

def Capture.offer (c : Capture) (addr : Word) : Capture :=
  if c.latched then { c with overrun := true } else { latched := true, addr := addr, overrun := c.overrun }

/-- The five capture records. -/
def PathUnit.captures (p : PathUnit) : List Capture := [p.capFetch, p.capReport, p.capRecipe, p.capImage, p.capGuard]

/-- The path unit changes its capture records; every change of one has the site record rewritten in RUNNING, also where the
record shows the same again at the end of the event (R68). -/
def setCaptures (p : PathUnit) (s : State) : State :=
  let s1 := { s with path := p }
  if s.running && p.captures != s.path.captures then oweSite s1 else s1

/-- The four records whose latching raises FAULT. -/
inductive FaultCapture where
  | fetch | report | recipe | image
  deriving DecidableEq, Repr

def PathUnit.capture (p : PathUnit) : FaultCapture → Capture
  | .fetch => p.capFetch
  | .report => p.capReport
  | .recipe => p.capRecipe
  | .image => p.capImage

def PathUnit.setCapture (p : PathUnit) (k : FaultCapture) (c : Capture) : PathUnit :=
  match k with
  | .fetch => { p with capFetch := c }
  | .report => { p with capReport := c }
  | .recipe => { p with capRecipe := c }
  | .image => { p with capImage := c }

/-- An error is offered to one of the four records: it latches and raises FAULT, or only sets the overrun mark. -/
def offerFault (k : FaultCapture) (addr : Word) (s : State) : State :=
  let c := s.path.capture k
  let s1 := setCaptures (s.path.setCapture k (c.offer addr)) s
  if c.latched then s1 else raiseEvent .fault s1

/-- R61: a refusal or drop that raises GUARD is offered to the guard capture. -/
def raiseGuard (addr : Word) (s : State) : State :=
  raiseEvent .guard (setCaptures { s.path with capGuard := s.path.capGuard.offer addr } s)

/-- R67: the capture record of an own access; none for the processor's requests and the start-up reads. -/
def IssueOwner.captureOf : IssueOwner → Option FaultCapture
  | .profile => none
  | .processor => none
  | .posted _ => some .report
  | .command => some .fetch
  | .publish => some .recipe
  | .fill _ => some .recipe
  | .verify => some .image
  | .block _ => some .image

/-! ## The hygiene level (R114) -/

def levelOf (p : Profile) (count : Nat) : Level :=
  if count < p.tDue then .clean else if count < p.tOver then .due else .overdue

def Level.rank : Level → Nat
  | .clean => 0 | .due => 1 | .overdue => 2

/-- The count changes, the level is derived again, and a move up raises HYGIENE. -/
def setCount (i : Slot) (n : Nat) (s : State) : State :=
  let old := (s.ent i).level
  let new := levelOf s.profile n
  let s1 := s.modEnt i fun e => { e with count := n, level := new }
  if old.rank < new.rank then raiseEvent .hygiene s1 else s1

/-! ## Output pins -/

/-- R181, R190. -/
def State.irq (s : State) : Bool :=
  match s.mode with
  | .running => (s.report.signalled &&& s.profile.mask) != 0
  | .passOnly => true
  | _ => false

/-- R19, R144, R190. -/
def State.serviceLamp (s : State) : Bool :=
  match s.mode with
  | .running => slots.any (fun i => (s.ent i).state == .suspended)
  | .passOnly => true
  | _ => false

/-- R49, R70, R189: the processor port is ready. -/
def State.portReady (s : State) : Bool :=
  s.path.portOpen && !s.hrst && decide (s.path.inflight.length < Config.inflightMax)

/-- R26: the driver is enabled while a telegram is transmitted; not in TEST (R47). -/
def Line.driverEnable (x : Line) : Bool := x.state == .transmit

/-- R29: the characters the line sends in TRANSMIT; the transmit pin marks otherwise (R25, R47). -/
def Line.txChars (x : Line) : List (BitVec 9) :=
  match x.state, x.trans with
  | .transmit, some t => t.q.chars
  | _, _ => []

/-- R47: what the transmitter sends to the receiver inside the part. -/
def Line.loopChars (x : Line) : List (BitVec 9) := if x.state = .test then testChars else []

end Sys2Proof.Machine
end

