-- ==== Sys2Proof/Machine/Mirror.lean ====
section
/-! DEFINITION. The two standing reports (09 §9.5, §9.7): the words of the oven records and of the site record, which mirror
records an event makes owed, and the end of every event. -/

namespace Sys2Proof.Machine

/-! ## The cleaning queue as shown (R117) -/

/-- OVERDUE ovens first, then the others, each in join order. -/
def State.offerOrder (s : State) : List CleanWait :=
  s.hygiene.queue.filter (fun w => (s.ent w.slot).level == .overdue) ++
    s.hygiene.queue.filter (fun w => (s.ent w.slot).level != .overdue)

/-- The place in the offer order counted from 1, 0 for none. -/
def State.queuePos (s : State) (i : Slot) : Nat :=
  match (s.offerOrder.map (fun w => w.slot)).findIdx? (fun j => j == i) with
  | some n => n + 1
  | none => 0

/-- R123: ovens CLEANING, and offers outstanding. -/
def State.cleaningCount (s : State) : Nat := slots.countP (fun i => (s.ent i).activity == .cleaning)

def State.offerCount (s : State) : Nat := slots.countP (fun i => (s.ent i).offerOut)

/-! ## The oven record (R1, R176, 11 §11.4) -/

/-- Corrected temperatures are absent while the last readings or the calibration record is absent (R1). -/
def Entry.correctedTemps (e : Entry) : Option (Int × Int) :=
  match e.readings, e.cal with
  | some r, some c => some (c.corrected r.cabinet.toInt, c.corrected r.core.toInt)
  | _, _ => none

/-- Directory recipe slots front first, places without an entry 0xFF (R193). -/
def dirBytes (d : List DirEntry) : List Byte :=
  (d.map (fun x : DirEntry => recipeByte x.recipe) ++ List.replicate 8 0xFF).take 8

/-- Bytes 4-63 of the oven record. -/
def State.ovenBytes (s : State) (i : Slot) : List Byte :=
  let e := s.ent i
  let t := e.correctedTemps
  [e.state.code, e.activity.code, bit e.late ||| (BitVec.ofNat 8 e.failures <<< 4), e.causes.setWidth 8,
    BitVec.ofNat 8 e.line.val, e.drop,
    marks [e.identity.isSome, e.cal.isSome, t.isSome, e.cook.isSome, e.probe, e.offerOut,
      (match e.cook with | some k => k.tag.isSome | none => false), e.lastReply.isSome],
    (match e.readings with | some r => r.reported.code | none => 0)] ++
  (match e.identity with
    | some d => le32 d.serial ++ [d.model, e.level.code] ++ le16 d.level
    | none => zeros 5 ++ [e.level.code] ++ zeros 2) ++
  (match t with
    | some p => le16 (sat16 p.1) ++ le16 (sat16 p.2)
    | none => zeros 4) ++
  le32 (e.lastReply.getD 0) ++
  (match e.cook with
    | some k => [recipeByte k.recipe, k.version, k.origin.code, k.token, k.step]
    | none => recipeByte? none :: zeros 4) ++
  [e.upd.state.code, BitVec.ofNat 8 (s.queuePos i), BitVec.ofNat 8 e.dir.length] ++
  (match e.cook with
    | some k => le32 k.start ++ le16 (k.tag.getD 0)
    | none => zeros 6) ++
  le16 (natHalf e.count) ++ dirBytes e.dir ++
  (match e.cal with
    | some c => c.bytes
    | none => zeros 8) ++ zeros 4

/-! ## The site record (R177, 11 §11.4) -/

def Mode.code : Mode → Byte
  | .running => 1 | .passOnly => 2 | _ => 0

def Capture.bytes (c : Capture) : List Byte := le32 c.addr ++ [marks [c.latched, c.overrun]] ++ zeros 3

/-- Bytes 4-127 of the site record, for a posted count and an expected offset E. -/
def State.siteBytesWith (s : State) (postedCount e : Nat) : List Byte :=
  let r := s.update.rollout
  let q := s.offerOrder
  [s.mode.code, marks [s.path.profileOpen, s.service.dropped], s.faultCode, BitVec.ofNat 8 postedCount] ++
  le32 s.report.clock ++ le16 s.faultOffset ++ [s.update.image.state.code, s.update.image.reason.code] ++
  le32 (natWord e) ++
  (match s.update.image.head with
    | some h => le16 h.level ++ [h.cls]
    | none => zeros 3) ++
  [r.state.code, marks [r.downgrade, r.orphaned], r.cls] ++ le16 r.level ++
  le16 r.target ++ le16 r.done ++ le16 r.failed ++ le16 r.skipped ++
  [BitVec.ofNat 8 s.cleaningCount, BitVec.ofNat 8 s.offerCount, BitVec.ofNat 8 q.length, 0] ++
  (q.map (fun w : CleanWait => slotByte w.slot) ++ List.replicate 16 0xFF).take 16 ++
  s.path.capFetch.bytes ++ s.path.capReport.bytes ++ s.path.capRecipe.bytes ++ s.path.capImage.bytes ++
  s.path.capGuard.bytes ++ zeros 32

def State.siteBytes (s : State) : List Byte := s.siteBytesWith s.path.posted.length s.update.image.expected

/-- The fields whose change owes a rewrite: all but the posted count (R62) and E (R147). -/
def State.siteShown (s : State) : List Byte := s.siteBytesWith 0 0

/-! ## Owed rewrites -/

/-- R176: the mirror records that the change from one state to another makes owed, in slot order (log 11). A field that changes and
changes back within one event owes nothing (log 54). -/
def owedBy (s0 s1 : State) : List RewriteItem :=
  (slots.filter (fun i => s0.ovenBytes i != s1.ovenBytes i)).map .oven ++
    (if s0.siteShown != s1.siteShown then [.site] else [])

/-- R178: newly owed records join the tail of the rewrite list, and an event moves the summary word behind them. -/
def rewritesAfter (old : List RewriteItem) (owed : List RewriteItem) (raised : Bool) : List RewriteItem :=
  let l := old ++ owed.filter (fun x => !old.contains x)
  if raised then l.filter (fun x => x != .summary) ++ [.summary] else l

/-- Every event in RUNNING ends with the rewrite list brought up to date (R176, R178, log 11). The site record that a dropped raise
or a changed capture record owes (R137, R68, `oweSite`) is in the list by then. -/
def oweRewrites (s0 s1 : State) : State :=
  if s1.running then
    { s1 with report := { s1.report with
        rewriteList := rewritesAfter s1.report.rewriteList (owedBy s0 s1) s1.report.summaryRaised,
        summaryRaised := false } }
  else s1

/-! ## Composing rewrites (R176, R179) -/

/-- A record's words in bursts of at most 8 at rising addresses. -/
def burstsAt (kind : RecordKind) : Nat → Word → List Word → List PostedWrite
  | 0, _, _ => []
  | n + 1, a, ws =>
    if ws.isEmpty then [] else { addr := a, data := ws.take 8, kind := kind } :: burstsAt kind n (a + 32) (ws.drop 8)

/-- The three groups of R176 for a record at `a` whose change count stood at `n`. -/
def recordWrites (a n : Word) (body : List Byte) : List PostedWrite :=
  { addr := a, data := [n + 1], kind := .mirror } ::
    (burstsAt .mirror 4 (a + 4) (wordsOf body) ++ [{ addr := a, data := [n + 2], kind := .mirror }])

def postAll (l : List PostedWrite) (s : State) : State := l.foldl (fun s w => postWrite w s) s

def State.ovenAddr (s : State) (i : Slot) : Word := s.profile.mirror + natWord (64 * i.val)

def State.siteAddr (s : State) : Word := s.profile.mirror + 1024

/-- R176: an owed oven record is composed and posted, and its mark is cleared. -/
def postOven (i : Slot) (s : State) : State :=
  let n := s.report.ovenCounts[i]
  let s1 := postAll (recordWrites (s.ovenAddr i) n (s.ovenBytes i)) s
  { s1 with report := { s1.report with
      ovenCounts := s1.report.ovenCounts.set i (n + 2),
      rewriteList := s1.report.rewriteList.filter (fun x => x != .oven i) } }

def postSite (s : State) : State :=
  let n := s.report.siteCount
  let s1 := postAll (recordWrites s.siteAddr n s.siteBytes) s
  { s1 with report := { s1.report with
      siteCount := n + 2, rewriteList := s1.report.rewriteList.filter (fun x => x != .site) } }

/-- R179: the summary word is composed from both sets and posted. The first one after start-up is the last of start-up's own
writes (R189), so that HRST holds back whatever is owed behind it (R183, R186). -/
def postSummary (s : State) : State :=
  let s1 := postWrite { addr := s.profile.summary, data := [summaryWord s.report.pendingSet s.report.overrunSet],
                        kind := .summary } s
  { s1 with startUnderHrst := false,
            report := { s1.report with rewriteList := s1.report.rewriteList.filter (fun x => x != .summary) } }

/-- R176, R178: the entries that a rewrite places. -/
def RewriteItem.room : RewriteItem → Nat
  | .oven _ => 4
  | .site => 6
  | .summary => 1

end Sys2Proof.Machine
end

