-- ==== Sys2Proof/Machine/Service.lean ====
section
/-! DEFINITION. The service unit (07): taking raises, acknowledging, closing and posting calls. -/

namespace Sys2Proof.Machine

def Severity.rank : Severity → Nat
  | .advisory => 1 | .urgent => 2 | .stop => 3

def Call.hasKey (c : Call) (src : Source) (cause : Cause) : Bool := c.source == src && c.cause == cause

/-- R131: 0xFFFF_FFFF is followed by 1. -/
def nextRaiseNo (n : Word) : Word := if n = 0xFFFFFFFF then 1 else n + 1

/-- R135: a raise merged into the call of its key. -/
def Call.merge (c : Call) (sev : Severity) (details : List Word) (now : Word) : Call :=
  let c1 := { c with repeats := min 255 (c.repeats + 1), details := details, lastRaised := now }
  if c.severity.rank < sev.rank then { c1 with severity := sev, escalated := true, state := .unposted } else c1

/-- R136: the fields of a call at its creation. -/
def newCall (src : Source) (cause : Cause) (sev : Severity) (details : List Word) (no now : Word) : Call :=
  { source := src, cause := cause, severity := sev, state := .unposted, raiseNo := no, raised := now, lastRaised := now,
    repeats := 1, escalated := false, postedBefore := false, details := details }

/-- R136: the table without its oldest ACKNOWLEDGED call, when it has one. -/
def dropOldestAck : List Call → Option (List Call)
  | [] => none
  | c :: t => if c.state = .acknowledged then some t else (dropOldestAck t).map (fun r => c :: r)

/-- R136: a new call joins at the tail of the given table and takes the next raise number. -/
def joinCall (src : Source) (cause : Cause) (sev : Severity) (details : List Word) (table : List Call) (s : State) : State :=
  { s with service := { s.service with
      calls := table ++ [newCall src cause sev details s.service.nextRaise s.report.clock],
      nextRaise := nextRaiseNo s.service.nextRaise } }

/-- R132: a raise is taken whole: merged (R135), created (R136) or dropped (R137). Outside RUNNING none is taken (R190). -/
def raiseCall (src : Source) (cause : Cause) (sev : Severity) (details : List Word) (s : State) : State :=
  if !s.running then s
  else if s.service.calls.any (fun c => c.hasKey src cause) then
    { s with service := { s.service with
        calls := s.service.calls.map (fun c => if c.hasKey src cause then c.merge sev details s.report.clock else c) } }
  else if s.service.calls.length < Config.callsMax then joinCall src cause sev details s.service.calls s
  else
    match dropOldestAck s.service.calls with
    | some t => joinCall src cause sev details t s
    | none => markServiceOverrun (oweSite { s with service := { s.service with dropped := true } })

/-- R110, R133, R193: a notice that breaks the protocol. -/
def raiseProtocol (i : Slot) (n : Notice) (s : State) : State :=
  raiseCall (.oven i) .ovenFault .urgent [0x00010000, n.code.setWidth 32] s

/-- R133, R193: the fault codes of a notice, zero-extended. -/
def faultDetails (codes : List Half) : List Word := codes.map (fun c => c.setWidth 32)

/-- R143: every call of an oven leaves the table. -/
def removeCallsOf (i : Slot) (s : State) : State :=
  { s with service := { s.service with calls := s.service.calls.filter (fun c => c.source != .oven i) } }

def State.callsOf (s : State) (i : Slot) : Nat := s.service.calls.countP (fun c => c.source == .oven i)

/-! ## ACK_CALL and CLOSE_CALL (R141, R142) -/

def ackCall (tag : Half) (source cause : Byte) (s : State) : State :=
  let fin := complete tag kindAckCall
  match sourceOf source, causeOf cause with
  | some src, some cau =>
    match s.service.calls.find? (fun c => c.hasKey src cau) with
    | none => fin .range 0 0 0 s
    | some c =>
      if c.state = .unposted then fin .state 0 0 0 s
      else
        fin .done (natWord c.repeats) (detail? (c.details)[0]?) (detail? (c.details)[1]?)
          { s with service := { s.service with
              calls := s.service.calls.map (fun x => if x.hasKey src cau then { x with state := .acknowledged } else x) } }
  | _, _ => fin .range 0 0 0 s

def closeCall (tag : Half) (source cause : Byte) (s : State) : State :=
  let fin := complete tag kindCloseCall
  match sourceOf source, causeOf cause with
  | some src, some cau =>
    match s.service.calls.find? (fun c => c.hasKey src cau) with
    | none => fin .state 0 0 0 s
    | some c =>
      if c.state = .acknowledged then
        fin .done (natWord c.repeats) c.raiseNo (c.severity.code.setWidth 32)
          { s with service := { s.service with calls := s.service.calls.filter (fun x => !x.hasKey src cau) } }
      else fin .state 0 0 0 s
  | _, _ => fin .range 0 0 0 s

/-! ## Posting (R138) -/

/-- The UNPOSTED call of the highest severity, the oldest of those. -/
def nextToPost (calls : List Call) : Option Call :=
  let u := calls.filter (fun c => c.state == .unposted)
  (u.find? (fun c => c.severity == .stop)).or
    ((u.find? (fun c => c.severity == .urgent)).or (u.find? (fun c => c.severity == .advisory)))

/-- R145: at the release of HRST. -/
def unpostAll (s : State) : State :=
  { s with service := { s.service with calls := s.service.calls.map (fun c => { c with state := .unposted }) } }

end Sys2Proof.Machine
end

