-- ==== Sys2Proof/Machine/Hygiene.lean ====
section
/-! DEFINITION. The hygiene unit (06): cook-minutes, the cleaning queue, offers, cleanings in progress, and its commands. -/

namespace Sys2Proof.Machine

/-! ## The cleaning queue -/

def State.cleanQueued (s : State) (i : Slot) : Bool := s.hygiene.queue.any (fun w => w.slot == i)

/-- R117: a new entry joins at the tail with the site time and a clear idle wait. -/
def joinCleaning (i : Slot) (program : Byte) (o : Origin) (s : State) : State :=
  { s with hygiene := { s.hygiene with
      queue := s.hygiene.queue ++
        [{ slot := i, program := program, origin := o, queued := s.report.clock, idleWait := false }] } }

def leaveCleaning (i : Slot) (s : State) : State :=
  { s with hygiene := { s.hygiene with queue := s.hygiene.queue.filter (fun w => w.slot != i) } }

/-- R119, R120: the program is replaced and the idle wait cleared; position, origin and queued time stay. -/
def reprogramCleaning (i : Slot) (program : Byte) (s : State) : State :=
  { s with hygiene := { s.hygiene with
      queue := s.hygiene.queue.map (fun w => if w.slot = i then { w with program := program, idleWait := false } else w) } }

def setIdleWait (i : Slot) (b : Bool) (s : State) : State :=
  { s with hygiene := { s.hygiene with
      queue := s.hygiene.queue.map (fun w => if w.slot = i then { w with idleWait := b } else w) } }

/-- R118: automatic placement of an OVERDUE oven. -/
def autoPlace (i : Slot) (s : State) : State :=
  if s.profile.autoClean && (s.ent i).state == .inService && (s.ent i).level == .overdue && !s.cleanQueued i then
    joinCleaning i 1 .auto s
  else s

/-! ## Counting cook-minutes (R113) -/

/-- One oven at an expiry of the minute timer: an accrual while COOKING, and the placement that reaching OVERDUE brings. -/
def accrue (i : Slot) (s : State) : State :=
  let e := s.ent i
  if e.activity = .cooking then
    let s1 := setCount i (min 65535 (e.count + 1)) s
    if e.level ≠ .overdue ∧ (s1.ent i).level = .overdue then autoPlace i s1 else s1
  else s

def accrueAll (s : State) : State := slots.foldl (fun s i => accrue i s) s

/-! ## Offers (R123, R124) -/

def State.capacityInUse (s : State) : Nat := s.cleaningCount + s.offerCount

/-- R124, R14: the raw hold threshold through the calibration record in force; without a record it is a free value (log 26). -/
def State.holdThreshold (s : State) (i : Slot) : Half :=
  match (s.ent i).cal with
  | some c => c.threshold (s.profile.holdTemp : Int)
  | none => sat16 (Config.thresholdOfZeroSpan (s.profile.holdTemp : Int))

/-- R4, R124: a granted cleaning-offer claim, its offer record, and the CLEAN_GO. -/
def makeOffer (w : CleanWait) (s : State) : State :=
  let t := s.holdThreshold w.slot
  sendTo w.slot .hygiene (.cleanGo w.program t (natHalf s.profile.holdSecs))
    (s.modEnt w.slot fun e =>
      { e with offerOut := true,
               offer := some { program := w.program, origin := w.origin, queued := w.queued, threshold := t } })

/-- The first queue entry in offer order that is not in an idle wait and whose claim is granted. -/
def State.nextOffer (s : State) : Option CleanWait :=
  s.offerOrder.find? (fun w => !w.idleWait && (s.ent w.slot).claimable)

/-- R123: offers are made one after another while the capacity allows. -/
def offersUpTo : Nat → State → State
  | 0, s => s
  | n + 1, s =>
    if s.capacityInUse < s.profile.maxCleaning then
      match s.nextOffer with
      | some w => offersUpTo n (makeOffer w s)
      | none => s
    else s

def makeOffers (s : State) : State := offersUpTo 16 s

/-! ## The journal CLEAN record (R130) -/

def passClean (i : Slot) (o : Origin) (program : Byte) (queued : Word) (start : Option Word) (r : CleanOutcome)
    (phases : BitVec 5) (maximum : Option Int) (seconds : Half) (s : State) : State :=
  passJournal (.clean
    { slot := i, origin := o, program := program, queued := queued, start := start, stop := s.report.clock, outcome := r,
      phases := phases, maximum := maximum, seconds := seconds, count := (s.ent i).count }) s

def passCleanOf (i : Slot) (c : CleanRec) (r : CleanOutcome) (s : State) : State :=
  passClean i c.origin c.program c.queued (some c.start) r c.phases c.maximum c.seconds s

/-! ## The answer to CLEAN_GO (R124, R20) -/

/-- The mark returns to "no" and the offer record becomes absent. -/
def endOffer (i : Slot) (s : State) : State := s.modEnt i fun e => { e with offerOut := false, offer := none }

def cleaningBegins (i : Slot) (f : OfferRec) (s : State) : State :=
  let s1 := (leaveCleaning i (endOffer i s)).modEnt i fun e =>
    { e with activity := .cleaning,
             cleaning := some { program := f.program, origin := f.origin, queued := f.queued, start := s.report.clock,
                                threshold := f.threshold, phases := 0, maximum := none, seconds := 0 } }
  if (s1.ent i).state = .suspended then queueRosterAbort i s1 else s1

def cleaningDeclined (i : Slot) (f : OfferRec) (s : State) : State :=
  let s1 := passClean i f.origin f.program f.queued none .declined 0 none 0 (leaveCleaning i (endOffer i s))
  if f.origin = .auto then s1.modEnt i fun e => { e with requeue := some s.now } else s1

/-- The offer record, present exactly while the mark is "yes" (06 §6.1). -/
def Entry.openOffer (e : Entry) : Option OfferRec := if e.offerOut then e.offer else none

def cleanGoOutcome (i : Slot) (o : Outcome) (s : State) : State :=
  match (s.ent i).openOffer with
  | none => s
  | some f =>
    match o with
    | .valid .ack => if (s.ent i).activity = .idle then cleaningBegins i f s else setIdleWait i true (endOffer i s)
    | .valid (.nak .busy) => setIdleWait i true (endOffer i s)
    | .valid (.nak _) => cleaningDeclined i f s
    | _ => setIdleWait i true (endOffer i s)

/-! ## Cleaning notices (R120, R126-R129) -/

def endCleaning (i : Slot) (s : State) : State := toIdle i (s.modEnt i fun e => { e with cleaning := none })

/-- R127: the disinfection passes. -/
def disinfected (p : Profile) (c : CleanRec) : Bool :=
  c.phases.getLsbD Phase.disinfect.code && decide (p.holdSecs ≤ c.seconds.toNat) &&
    (match c.maximum with | some m => decide ((p.holdTemp : Int) ≤ m) | none => false)

def hygieneFailDetails (p : Profile) (c : CleanRec) : List Word :=
  [detail? (c.maximum.map intWord), c.seconds.setWidth 32, natWord p.holdTemp, natWord p.holdSecs]

/-- R127: CLEAN_END of a followed cleaning. -/
def cleanEnded (i : Slot) (c : CleanRec) (r : CleanEnd) (s : State) : State :=
  match r with
  | .complete =>
    if disinfected s.profile c then
      setCount i 0 (endCleaning i ((passCleanOf i c .passed s).modEnt i fun e => { e with requeue := none }))
    else
      let s1 := raiseCall (.oven i) .hygieneFail .urgent (hygieneFailDetails s.profile c)
        (endCleaning i (passCleanOf i c .failed s))
      if c.origin = .auto then autoPlace i s1 else s1
  | .aborted => endCleaning i (passCleanOf i c .aborted s)
  | .fault => endCleaning i (passCleanOf i c .fault s)

def phaseBit (p : Phase) : BitVec 5 := 1 <<< p.code

/-- R126. -/
def cleanPhase (i : Slot) (c : CleanRec) (p : Phase) (rawMax secs : Half) (s : State) : State :=
  let c1 := { c with phases := c.phases ||| phaseBit p }
  s.modEnt i fun e =>
    { e with cleaning := some (if p = .disinfect then
               { c1 with maximum := some (match e.cal with
                           | some k => k.corrected rawMax.toInt
                           | none => Config.correctedOfZeroSpan rawMax.toInt),
                         seconds := secs }
             else c1) }

/-- R129: which cleaning notices draw a protocol call. Its table does not name CAL_FAILED, where the model raises none (log 17). -/
def strayCleaning (i : Slot) (n : Notice) (s : State) : State :=
  let e := s.ent i
  if (e.state = .inService ∨ e.state = .suspended) ∧ e.activity ≠ .idle then raiseProtocol i n s else s

/-- A cleaning is followed while the activity is CLEANING, in IN_SERVICE or SUSPENDED (R126, R127). -/
def State.followedCleaning (s : State) (i : Slot) : Option CleanRec :=
  let e := s.ent i
  if (e.state = .inService ∨ e.state = .suspended) ∧ e.activity = .cleaning then e.cleaning else none

def cleanPhaseNotice (i : Slot) (p : Phase) (rawMax secs : Half) (s : State) : State :=
  match s.followedCleaning i with
  | some c => cleanPhase i c p rawMax secs s
  | none => strayCleaning i (.cleanPhase p rawMax secs) s

def cleanEndNotice (i : Slot) (r : CleanEnd) (s : State) : State :=
  match s.followedCleaning i with
  | some c => cleanEnded i c r s
  | none => strayCleaning i (.cleanEnd r) s

/-- R120; an oven in CAL_FAILED is denied too (log 17). -/
def cleanRequest (i : Slot) (program : Byte) (s : State) : State :=
  let e := s.ent i
  match e.state with
  | .inService =>
    if e.activity = .cleaning ∨ e.offerOut then sendTo i .hygiene (.deny .busy) s
    else if s.cleanQueued i then reprogramCleaning i program s
    else joinCleaning i program .panel s
  | .suspended => sendTo i .hygiene (.deny .suspended) s
  | .assigning => sendTo i .hygiene (.deny .suspended) s
  | .calibrating => sendTo i .hygiene (.deny .suspended) s
  | .calFailed => sendTo i .hygiene (.deny .suspended) s
  | .identifying =>
    match e.job with
    | some j => if j.kind = .restore then s else sendTo i .hygiene (.deny .suspended) s
    | none => sendTo i .hygiene (.deny .suspended) s
  | .revalidating => s
  | .vacant => s

/-- R128: a cleaning closed by silence. -/
def closeCleaningUnknown (i : Slot) (s : State) : State :=
  match (s.ent i).cleaning with
  | some c => endCleaning i (passCleanOf i c .unknown s)
  | none => toIdle i s

/-- R125: the requeue timer's expiry. -/
def requeueExpired (i : Slot) (s : State) : State :=
  let s1 := s.modEnt i fun e => { e with requeue := none }
  if (s1.ent i).activity = .cleaning then s1 else autoPlace i s1

/-! ## CLEAN and CANCEL_CLEAN (R119, R121) -/

def programOk (p : Byte) : Bool := decide (1 ≤ p.toNat) && decide (p.toNat ≤ 4)

def Entry.cleaningTaken (e : Entry) : Bool := e.activity == .cleaning || e.offerOut

def clean (tag : Half) (oven program : Byte) (s : State) : State :=
  let fin := complete tag kindClean
  match slotOf oven with
  | none => fin .range 0 0 0 s
  | some i =>
    if !programOk program then fin .range 0 0 0 s
    else if (s.ent i).state ≠ .inService then fin .state 0 0 0 s
    else if (s.ent i).cleaningTaken then fin .busy 0 0 0 s
    else if s.cleanQueued i then
      let s1 := reprogramCleaning i program s
      fin .done (natWord (s1.queuePos i)) 1 0 s1
    else
      let s1 := joinCleaning i program .controller s
      fin .done (natWord (s1.queuePos i)) 0 0 s1

def cancelClean (tag : Half) (oven : Byte) (s : State) : State :=
  let fin := complete tag kindCancelClean
  match slotOf oven with
  | none => fin .range 0 0 0 s
  | some i =>
    if (s.ent i).cleaningTaken then fin .busy 0 0 0 s
    else
      match s.hygiene.queue.find? (fun w => w.slot == i) with
      | none => fin .state 0 0 0 s
      | some w => fin .done (w.origin.code.setWidth 32) (w.program.setWidth 32) 0 (leaveCleaning i s)

end Sys2Proof.Machine
end

