-- ==== Sys2Proof/Machine/Cache.lean ====
section
/-! DEFINITION. The cache unit (05): directories, evictions, starts, fills, grants, cook records, adoption and ABORT. -/

namespace Sys2Proof.Machine

/-! ## The directory (R87, R88) -/

def State.modDir (s : State) (i : Slot) (f : List DirEntry → List DirEntry) : State :=
  s.modEnt i fun e => { e with dir := f e.dir }

def Entry.dirEntry (e : Entry) (r : RecipeNo) : Option DirEntry := e.dir.find? (fun x => x.recipe == r)

/-- The directory with every entry of a recipe slot changed. -/
def mapDir (r : RecipeNo) (f : DirEntry → DirEntry) (d : List DirEntry) : List DirEntry :=
  d.map (fun x => if x.recipe = r then f x else x)

/-- R88. -/
def Entry.usesRecipe (e : Entry) (r : RecipeNo) : Bool :=
  match e.activity with
  | .cooking => (match e.cook with | some k => k.recipe == r | none => false)
  | .filling => (match e.start with | some p => p.stage == .granting && p.recipe == r | none => false)
  | _ => false

def sendEvict (i : Slot) (r : RecipeNo) (s : State) : State := sendTo i .cache (.evict r) s

/-- R92: EVICT for every evict-at-end entry, front first (log 51). -/
def evictAtEnd (i : Slot) (s : State) : State :=
  ((s.ent i).dir.filter (fun x => x.evictAtEnd)).foldl (fun s x => sendEvict i x.recipe s)
    (s.modDir i fun d => d.map (fun x => if x.evictAtEnd then { x with evictAtEnd := false, eviction := .outstanding } else x))

/-- R92: the activity returns to IDLE from COOKING or FILLING. -/
def returnIdle (i : Slot) (s : State) : State := evictAtEnd i (toIdle i s)

/-- R21, R93: the entry that a cook record names stays while the oven is COOKING; the others leave. -/
def Entry.reducedDir (e : Entry) : List DirEntry :=
  match e.activity, e.cook with
  | .cooking, some k => e.dir.filter (fun x => x.recipe == k.recipe)
  | _, _ => []

def reduceDirectory (i : Slot) (s : State) : State := s.modEnt i fun e => { e with dir := e.reducedDir }

/-- R93: the reduction, and FLUSH queued. -/
def flushReduce (i : Slot) (s : State) : State := sendTo i .cache .flush (reduceDirectory i s)

/-! ## Stale entries (R89, R90) -/

/-- R89, R90: what a notice does with one oven's entry for the slot. One that is not in use and whose eviction is NONE or DUE is sent
EVICT. R91 does not send a DUE entry again while a fill of the slot for the same oven exists, and no rule says whether that binds the
notice too: the model's choice (DESIGN CHOICE, log 65) is that the notice sends it, as R89 states, and that R91's exception holds at a
STATUS (`resendEvictions`). -/
def staleAt (r : RecipeNo) (s : State) (i : Slot) : State :=
  match (s.ent i).dirEntry r with
  | none => s
  | some x =>
    if (s.ent i).usesRecipe r then s.modDir i (mapDir r fun x => { x with stale := true, evictAtEnd := true })
    else if x.eviction = .outstanding then s.modDir i (mapDir r fun x => { x with stale := true })
    else sendEvict i r (s.modDir i (mapDir r fun x => { x with stale := true, eviction := .outstanding }))

def markFillsStale (r : RecipeNo) (s : State) : State :=
  { s with lines := s.lines.map fun x =>
      { x with fill := x.fill.map (fun f => if f.recipe = r then { f with stale := true } else f) } }

/-- Directory entries and fills of a recipe slot become stale, at a commit (R89) or a withdrawal (R90). -/
def staleRecipe (r : RecipeNo) (s : State) : State := markFillsStale r (slots.foldl (staleAt r) s)

def State.startsRecipe (s : State) (r : RecipeNo) (i : Slot) : Bool :=
  match (s.ent i).start with
  | some p => p.recipe == r
  | none => false

/-- R89, R80: fills told to wait for a commit of this slot become able to register again. -/
def releaseWaits (r : RecipeNo) (s : State) : State :=
  { s with lines := s.lines.map fun x =>
      { x with fillQueue := x.fillQueue.map (fun w => if s.startsRecipe r w.slot then { w with waiting := false } else w) } }

/-- R89: the recipe unit's notice of a commit. -/
def commitNotice (r : RecipeNo) (g : Gate) (s : State) : State :=
  releaseWaits r (staleRecipe r { s with cache := { s.cache with gates := s.cache.gates.set r (some g) } })

/-- R94: some directory entry, fill or unconfirmed last grant carries this version of the recipe slot. -/
def State.versionHeld (s : State) (r : RecipeNo) (v : Byte) : Bool :=
  slots.any (fun i => (s.ent i).dir.any (fun x => x.recipe == r && x.version == v)) ||
  lineNos.any (fun l => match (s.ln l).fill with
                        | some f => f.recipe == r && f.version == v
                        | none => false) ||
  slots.any (fun i => match (s.ent i).grant with
                      | some g => !g.confirmed && g.recipe == r && g.version == v
                      | none => false)

/-! ## Refusals of a start (R96) -/

/-- The completion or the DENY that a refused pending start draws. -/
def answerRefusal (i : Slot) (p : PendingStart) (why : Reason) (s : State) : State :=
  match p.origin with
  | .controller =>
    if why = .line then endLong (.oven i) .line (p.stage.code.setWidth 32) 0 0 s
    else endLong (.oven i) .denied (why.code.setWidth 32) 0 0 s
  | _ => sendTo i .cache (.deny why) s

/-- A pending start ends refused: discarded, activity IDLE, and answered. The EVICTs that the return to IDLE queues (R92) stand
before the DENY (R96): no rule orders the two (log 61). -/
def refuseStart (i : Slot) (why : Reason) (s : State) : State :=
  match (s.ent i).start with
  | none => s
  | some p => answerRefusal i p why (returnIdle i (s.modEnt i fun e => { e with start := none }))

/-! ## Grants (R97) -/

/-- The token advances, the directory entry moves to the front, the last-grant record is replaced, GRANT or START is
queued. -/
def composeGrant (i : Slot) (s : State) : State :=
  match (s.ent i).start with
  | none => s
  | some p =>
    match (s.ent i).dirEntry p.recipe with
    | none => s
    | some x =>
      let t := (s.ent i).token + 1
      sendTo i .cache (if p.origin = .controller then .start t p.recipe x.version else .grant t p.recipe x.version)
        (s.modEnt i fun e =>
          { e with token := t, dir := x :: e.dir.filter (fun y => y.recipe != p.recipe),
                   grant := some { token := t, recipe := p.recipe, version := x.version, origin := p.origin, tag := p.tag,
                                   confirmed := false },
                   start := some { p with stage := .granting } })

def joinFillQueue (i : Slot) (s : State) : State :=
  s.modLn (s.ent i).line fun x => { x with fillQueue := x.fillQueue ++ [{ slot := i, waiting := false }] }

def leaveFillQueue (l : LineNo) (i : Slot) (s : State) : State :=
  s.modLn l fun x => { x with fillQueue := x.fillQueue.filter (fun w => w.slot != i) }

/-! ## The start checks (R95) -/

/-- Checks 5 and 6 against a gate; an absent identity fails check 5. -/
def Entry.gateRefusal (e : Entry) (g : Gate) : Option Reason :=
  match e.identity with
  | none => some .model
  | some d =>
    if !g.classes.getLsbD d.model.toNat then some .model
    else if d.level.toNat < g.minLevel.toNat then some .level
    else none

/-- The first failing check, with the reason a panel is given. -/
def State.startRefusal (s : State) (i : Slot) (r : RecipeNo) : Option Reason :=
  let e := s.ent i
  if e.state ≠ .inService then some .suspended
  else if e.activity ≠ .idle ∨ e.offerOut then some .busy
  else if e.level = .overdue then some .hygiene
  else
    match (s.rslot r).state with
    | .empty => some .recipeAbsent
    | .quarantined => some .recipeQuarantined
    | .published =>
      match s.gate r with
      | none => some .model
      | some g => e.gateRefusal g

/-- R97: the directory holds the live version of the recipe slot. -/
def State.hit (s : State) (i : Slot) (r : RecipeNo) : Bool :=
  (s.ent i).dir.any (fun x => x.recipe == r && !x.stale && x.version == (s.rslot r).version)

/-- R95, R97: the claim is granted; a hit is granted at once, a miss joins the line's fill queue. -/
def beginStart (i : Slot) (r : RecipeNo) (o : Origin) (tag : Option Half) (s : State) : State :=
  let h := s.hit i r
  let s1 := s.modEnt i fun e =>
    { e with activity := .filling,
             start := some { recipe := r, origin := o, tag := tag, fillNeeded := !h,
                             stage := if h then .granting else .queued } }
  if h then composeGrant i s1 else joinFillQueue i s1

def startRequest (i : Slot) (r : RecipeNo) (s : State) : State :=
  match s.startRefusal i r with
  | some why => sendTo i .cache (.deny why) s
  | none => beginStart i r .panel none s

/-- R104. -/
def cook (tag : Half) (oven recipe : Byte) (s : State) : State :=
  let fin := complete tag kindCook
  match slotOf oven, recipeOf recipe with
  | some i, some r =>
    if s.held (.oven i) then fin .busy 0 0 0 s
    else if (s.ent i).state ≠ .inService then fin .state 0 0 0 s
    else
      match s.startRefusal i r with
      | some why => fin .denied (why.code.setWidth 32) 0 0 s
      | none => beginStart i r .controller (some tag) (startLong kindCook tag (.oven i) s)
  | _, _ => fin .range 0 0 0 s

/-! ## Fills (R98-R102) -/

def setFill (l : LineNo) (f : Option Fill) (s : State) : State := s.modLn l fun x => { x with fill := f }

def setStage (i : Slot) (st : Stage) (s : State) : State :=
  s.modEnt i fun e => { e with start := e.start.map (fun p => { p with stage := st }) }

/-- R98: held back while told to wait, or while an EVICT of its recipe slot to its oven is outstanding. -/
def State.ableToRegister (s : State) (w : FillWait) (r : RecipeNo) : Bool :=
  !w.waiting && (match (s.ent w.slot).dirEntry r with
                 | some x => x.eviction != .outstanding
                 | none => true)

/-- R78, R98: a registration granted. -/
def grantFill (l : LineNo) (i : Slot) (r : RecipeNo) (s : State) : State :=
  let q := s.rslot r
  let s1 := s.modRslot r fun x => { x with readers := x.readers + 1 }
  setStage i .reading (leaveFillQueue l i (setFill l (some
    { slot := i, recipe := r, base := bankAddr s.storeBase r q.bank, version := q.version, used := q.used, check := q.check,
      issued := 0, data := [], streaming := false, victim := none, stale := false, abandoned := false, failed := false }) s1))

/-- R78: a registration told to wait keeps its place. -/
def waitFill (l : LineNo) (i : Slot) (s : State) : State :=
  s.modLn l fun x =>
    { x with fillQueue := x.fillQueue.map (fun w => if w.slot = i then { w with waiting := true } else w) }

/-- R98: the fills of a line's queue, first to last, until one holds the buffer. -/
def registerFills (l : LineNo) : List FillWait → State → State
  | [], s => s
  | w :: t, s =>
    if (s.ln l).fill.isSome then s
    else
      match (s.ent w.slot).start with
      | none => registerFills l t s
      | some p =>
        if !s.ableToRegister w p.recipe then registerFills l t s
        else
          match (s.rslot p.recipe).state with
          | .empty => registerFills l t (refuseStart w.slot .recipeAbsent (leaveFillQueue l w.slot s))
          | .quarantined => registerFills l t (refuseStart w.slot .recipeQuarantined (leaveFillQueue l w.slot s))
          | .published =>
            if (s.rslot p.recipe).publish = .commitWait then registerFills l t (waitFill l w.slot s)
            else grantFill l w.slot p.recipe s

def registerAll (s : State) : State := lineNos.foldl (fun s l => registerFills l (s.ln l).fillQueue s) s

/-- R41: fill streams stand before the image stream. -/
def placeStream (l : LineNo) (x : Stream) (s : State) : State :=
  s.modLn l fun y =>
    { y with streams := y.streams.filter (fun z => z.kind == .fill) ++
        (if x.kind = .fill then [x] else []) ++ y.streams.filter (fun z => z.kind == .image) ++
        (if x.kind = .image then [x] else []) }

def removeStream (l : LineNo) (k : StreamKind) (i : Slot) (s : State) : State :=
  s.modLn l fun y => { y with streams := y.streams.filter (fun z => !(z.kind == k && z.slot == i)) }

def State.streamOf (s : State) (l : LineNo) (k : StreamKind) (i : Slot) : Option Stream :=
  (s.ln l).streams.find? (fun z => z.kind == k && z.slot == i)

def modStream (l : LineNo) (k : StreamKind) (i : Slot) (f : Stream → Stream) (s : State) : State :=
  s.modLn l fun y => { y with streams := y.streams.map (fun z => if z.kind = k ∧ z.slot = i then f z else z) }

/-- R102: the fill stream goes and the buffer is free. -/
def endFillStream (l : LineNo) (i : Slot) (s : State) : State := setFill l none (removeStream l .fill i s)

/-- R100: the victim that block 0 names. -/
def Entry.victim (e : Entry) (r : RecipeNo) : Option RecipeNo :=
  if (e.dirEntry r).isSome ∨ e.dir.length < Config.dirMax then none
  else (e.dir.reverse.find? (fun x => !e.usesRecipe x.recipe)).map (fun x => x.recipe)

/-- The gate fields of the header in the fill buffer (R99, 11 §11.3). -/
def bufferGate (data : List Byte) : Gate := { classes := halfAt data 20, minLevel := halfAt data 18 }

/-- R99: a good fill passes checks 5 and 6 once more and places its stream with block 0 ready. -/
def fillGood (l : LineNo) (f : Fill) (s : State) : State :=
  match (s.ent f.slot).gateRefusal (bufferGate f.data) with
  | some why => refuseStart f.slot why (setFill l none s)
  | none =>
    placeStream l { kind := .fill, slot := f.slot, next := 0, ready := true, data := [], drop := false }
      (setStage f.slot .streaming
        (setFill l (some { f with streaming := true, victim := (s.ent f.slot).victim f.recipe }) s))

/-- R99: a bad verdict ends the fill and refuses the start; a read of the fill presented to the bulk round and not yet issued is
withdrawn with it, which no rule says (log 52). -/
def fillBad (l : LineNo) (f : Fill) (s : State) : State := refuseStart f.slot .recipeQuarantined (setFill l none s)

/-- R101: the directory after the last block of a fill. -/
def Entry.afterFill (e : Entry) (f : Fill) : List DirEntry :=
  { recipe := f.recipe, version := f.version, stale := f.stale, evictAtEnd := false,
    eviction := if f.stale then .outstanding else .unset } ::
    e.dir.filter (fun x => x.recipe != f.recipe && some x.recipe != f.victim)

/-- R101: the last block is stored. -/
def fillComplete (l : LineNo) (f : Fill) (s : State) : State :=
  let i := f.slot
  let s1 := (endFillStream l i s).modEnt i fun e => { e with dir := e.afterFill f }
  if f.stale then joinFillQueue i (setStage i .evictWait (sendEvict i f.recipe s1)) else composeGrant i s1

/-- R100, R101, R102: the outcome of a FILL_BLOCK. -/
def fillBlockOutcome (l : LineNo) (i : Slot) (last : Bool) (o : Outcome) (s : State) : State :=
  match (s.ln l).fill, s.streamOf l .fill i with
  | some f, some x =>
    if x.drop then endFillStream l i s
    else if o.isAck then
      if last then fillComplete l f s
      else modStream l .fill i (fun x => { x with next := x.next + 1, ready := true }) s
    else refuseStart i .line (endFillStream l i s)
  | _, _ => s

/-- The line's current transaction is a block of this stream. -/
def State.blockRunning (s : State) (l : LineNo) (k : StreamKind) (i : Slot) : Bool :=
  match (s.ln l).trans with
  | some t =>
    t.q.target == some i &&
      (match t.q.tel with
        | .fillBlock _ _ _ _ _ _ => k == .fill
        | .imageBlock _ _ => k == .image
        | _ => false)
  | none => false

/-- A GRANT or START to this oven. -/
def isGrantTo (i : Slot) (q : Queued) : Bool :=
  q.target == some i && (match q.tel with
                         | .grant _ _ _ => true
                         | .start _ _ _ => true
                         | _ => false)

/-- R102, R103: what suspension does with a start at its stage. -/
def abandonStage (i : Slot) (st : Stage) (s : State) : State :=
  let l := (s.ent i).line
  match st with
  | .queued => leaveFillQueue l i s
  | .evictWait => leaveFillQueue l i s
  | .reading => s.modLn l fun x => { x with fill := x.fill.map (fun f => { f with abandoned := true }) }
  | .streaming =>
    if s.blockRunning l .fill i then modStream l .fill i (fun x => { x with drop := true }) s else endFillStream l i s
  | .granting =>
    if s.telegramQueued (isGrantTo i) then
      (removeTelegrams (isGrantTo i) s).modEnt i fun e => { e with grant := none }
    else s

/-- R20, R102: the oven enters SUSPENDED while FILLING (its directory is reduced at the same event). -/
def abandonStart (i : Slot) (s : State) : State :=
  match (s.ent i).start with
  | none => toIdle i s
  | some p => refuseStart i .suspended (abandonStage i p.stage s)

/-! ## Cook records (R103-R107) -/

/-- R85, R105: the record is made and the pin count rises. -/
def makeCook (i : Slot) (k : CookRec) (s : State) : State :=
  (s.modEnt i fun e => { e with activity := .cooking, cook := some k }).modRslot k.recipe
    fun x => { x with pins := x.pins + 1 }

/-- R106, R107: the pin count falls, the journal COOK record is passed, the record becomes absent. -/
def closeCook (i : Slot) (k : CookRec) (o : CookOutcome) (steps : Byte) (s : State) : State :=
  passJournal (.cook
    { slot := i, origin := k.origin, tag := k.tag, recipe := k.recipe, version := k.version, token := k.token,
      start := k.start, stop := s.report.clock, outcome := o, steps := steps })
    ((s.modEnt i fun e => { e with cook := none }).modRslot k.recipe fun x => { x with pins := x.pins - 1 })

/-- R106. -/
def endCook (i : Slot) (k : CookRec) (o : CookOutcome) (steps : Byte) (s : State) : State :=
  returnIdle i (closeCook i k o steps s)

/-- R107: closed by silence, with the directory emptied by R21. -/
def closeCookUnknown (i : Slot) (s : State) : State :=
  match (s.ent i).cook with
  | some k => reduceDirectory i (toIdle i (closeCook i k .unknown k.step s))
  | none => reduceDirectory i (toIdle i s)

def State.grantCook (s : State) (g : GrantRec) : CookRec :=
  { recipe := g.recipe, version := g.version, origin := g.origin, token := g.token, start := s.report.clock, step := 0,
    tag := g.tag }

/-! ## Adoption (R108, R109) -/

/-- R108 step 2: the directory after an adoption, and the tail entry it pushes out. -/
def adoptDir (d : List DirEntry) (r : RecipeNo) (v : Byte) (stale : Bool) : List DirEntry × Option RecipeNo :=
  let fresh : DirEntry := { recipe := r, version := v, stale := stale, evictAtEnd := stale, eviction := .unset }
  match d.find? (fun x => x.recipe == r) with
  | some x =>
    let rest := d.filter (fun y => y.recipe != r)
    if x.version = v then ({ x with stale := stale, evictAtEnd := x.evictAtEnd || stale } :: rest, none)
    else (fresh :: rest, none)
  | none =>
    if d.length < Config.dirMax then (fresh :: d, none)
    else (fresh :: d.dropLast, d.getLast?.map (fun x => x.recipe))

/-- R108 step 1: an unconfirmed last grant of this very cook. -/
def GrantRec.names (g : GrantRec) (t : Byte) (r : RecipeNo) (v : Byte) : Bool :=
  !g.confirmed && g.token == t && g.recipe == r && g.version == v

/-- R108, steps 1 to 3. In an oven SUSPENDED with FAULT the roster's ABORT is queued behind step 2's EVICT and before the EVICTs of
a COOK_END adopted at the same event; no rule orders them (log 61). -/
def adopt (i : Slot) (t : Byte) (r : RecipeNo) (v : Byte) (s : State) : State :=
  let e := s.ent i
  let m := e.grant.filter (fun g => g.names t r v)
  let q := s.rslot r
  let d := adoptDir e.dir r v (!(q.state == .published && q.version == v))
  let s1 := s.modEnt i fun e =>
    { e with dir := d.1, grant := if m.isSome then e.grant.map (fun g => { g with confirmed := true }) else e.grant }
  let s2 := match d.2 with
    | some out => sendEvict i out s1
    | none => s1
  let s3 := makeCook i
    { recipe := r, version := v, origin := (match m with | some g => g.origin | none => .adopted), token := t,
      start := s.report.clock, step := 0, tag := (match m with | some g => g.tag | none => none) } s2
  if e.state = .suspended ∧ e.causes.getLsbD StopCause.fault.bitNo then queueRosterAbort i s3 else s3

/-! ## Cook notices (R105, R106, R108, R110) -/

inductive CookNews where
  | step (k : Byte)
  | ended (o : CookOutcome) (steps : Byte)
  deriving DecidableEq, Repr

def takeCookNews (i : Slot) (n : CookNews) (s : State) : State :=
  match (s.ent i).cook with
  | none => s
  | some k =>
    match n with
    | .step st => s.modEnt i fun e => { e with cook := some { k with step := st } }
    | .ended o steps => endCook i k o steps s

def CookRec.names (k : CookRec) (t : Byte) (r : RecipeNo) (v : Byte) : Bool :=
  k.token == t && k.recipe == r && k.version == v

/-- R105, R106, R108, R110; in a state that has no cook, CAL_FAILED among them, the notice is disregarded (log 17). -/
def cookNotice (i : Slot) (nt : Notice) (t : Byte) (r : RecipeNo) (v : Byte) (n : CookNews) (s : State) : State :=
  let e := s.ent i
  if e.state = .inService ∨ e.state = .suspended then
    match e.activity with
    | .idle => takeCookNews i n (adopt i t r v s)
    | .cooking =>
      if (match e.cook with | some k => k.names t r v | none => false) then takeCookNews i n s else raiseProtocol i nt s
    | _ => raiseProtocol i nt s
  else s

/-! ## Outcomes of GRANT and START (R103) -/

/-- The outcome belongs to the start in progress, and was not abandoned. -/
def Entry.awaitsGrant (e : Entry) : Option PendingStart := e.start.filter (fun p => p.stage == .granting)

def grantAcked (i : Slot) (p : PendingStart) (g : GrantRec) (s : State) : State :=
  let s1 := makeCook i (s.grantCook g)
    (s.modEnt i fun e => { e with grant := some { g with confirmed := true }, start := none })
  if p.origin = .controller then
    endLong (.oven i) .done (g.token.setWidth 32) (g.version.setWidth 32) ((bit p.fillNeeded).setWidth 32) s1
  else s1

/-- NAK or FAILED: activity IDLE, R92, and the completion; no DENY is sent. -/
def grantEnds (i : Slot) (p : PendingStart) (r : ResultCode) (d : Word) (s : State) : State :=
  let s1 := returnIdle i (s.modEnt i fun e => { e with start := none })
  if p.origin = .controller then endLong (.oven i) r d 0 0 s1 else s1

/-- R92 at the end of an abandoned grant. -/
def evictIfIdle (i : Slot) (s : State) : State := if (s.ent i).activity = .idle then evictAtEnd i s else s

/-- The end of a grant abandoned at a suspension (R103). -/
def abandonedGrant (i : Slot) (t : Byte) (r : RecipeNo) (v : Byte) (o : Outcome) (s : State) : State :=
  match o with
  | .valid .ack =>
    let e := s.ent i
    if (e.state = .suspended ∨ e.state = .inService) ∧ e.activity = .idle then adopt i t r v s else s
  | .valid _ => evictIfIdle i (s.modEnt i fun e => { e with grant := e.grant.filter (fun g => !g.names t r v) })
  | .failed _ => evictIfIdle i s

def grantOutcome (i : Slot) (t : Byte) (r : RecipeNo) (v : Byte) (o : Outcome) (s : State) : State :=
  match (s.ent i).awaitsGrant, (s.ent i).grant with
  | some p, some g =>
    if g.names t r v then
      match o with
      | .valid .ack => grantAcked i p g s
      | .valid _ =>
        grantEnds i p .denied (Reason.busy.code.setWidth 32) (s.modEnt i fun e => { e with grant := none })
      | .failed _ => grantEnds i p .line (Stage.granting.code.setWidth 32) s
    else abandonedGrant i t r v o s
  | _, _ => abandonedGrant i t r v o s

/-! ## Outcomes of EVICT and FLUSH, and what a valid STATUS brings (R91, R93) -/

/-- An EVICT that held a refill back has ended (R101). -/
def evictEnded (i : Slot) (r : RecipeNo) (s : State) : State :=
  match (s.ent i).start with
  | some p => if p.stage = .evictWait ∧ p.recipe = r then setStage i .queued s else s
  | none => s

def evictOutcome (i : Slot) (r : RecipeNo) (o : Outcome) (s : State) : State :=
  evictEnded i r <|
    match o with
    | .valid .ack =>
      if (s.ent i).usesRecipe r then
        s.modDir i (mapDir r fun x => { x with eviction := .unset, evictAtEnd := true })
      else s.modDir i fun d => d.filter (fun x => x.recipe != r)
    | .valid (.nak .busy) => s.modDir i (mapDir r fun x => { x with eviction := .unset, evictAtEnd := true })
    | _ => s.modDir i (mapDir r fun x => { x with eviction := .due })

/-- R93: a failed FLUSH is queued again at the next valid STATUS; two that failed by then are queued again as one (log 63). -/
def flushOutcome (i : Slot) (o : Outcome) (s : State) : State :=
  match o with
  | .failed _ => s.modEnt i fun e => { e with flushDue := true }
  | .valid _ => s

def resendFlush (i : Slot) (s : State) : State :=
  if (s.ent i).flushDue then sendTo i .cache .flush (s.modEnt i fun e => { e with flushDue := false }) else s

/-- A fill of this recipe slot for the oven exists. -/
def Entry.fills (e : Entry) (r : RecipeNo) : Bool :=
  match e.start with
  | some p => p.fillNeeded && p.stage != .granting && p.recipe == r
  | none => false

/-- R88: an entry whose eviction is DUE while the oven is using it is not sent EVICT; it is evicted at the end of the use (log 59). -/
def DirEntry.heldByUse (e : Entry) (x : DirEntry) : DirEntry :=
  if x.eviction = .due ∧ e.usesRecipe x.recipe then { x with evictAtEnd := true } else x

/-- R91: the DUE evictions of an oven at a STATUS, from the tail; one whose recipe a fill of the oven is bringing waits (at the notices of
R89 and R90 it does not, log 65), and those of entries in use wait for the end of the use (R88, log 59). -/
def resendEvictions (i : Slot) (s : State) : State :=
  let e := s.ent i
  let due := e.dir.reverse.filter (fun x => x.eviction == .due && !e.fills x.recipe && !e.usesRecipe x.recipe)
  due.foldl (fun s x => sendEvict i x.recipe (s.modDir i (mapDir x.recipe fun y => { y with eviction := .outstanding })))
    (s.modDir i fun d => d.map (DirEntry.heldByUse e))

/-! ## ABORT (R111) -/

def abortCommand (tag : Half) (oven : Byte) (s : State) : State :=
  let fin := complete tag kindAbort
  match slotOf oven with
  | none => fin .range 0 0 0 s
  | some i =>
    match (s.ent i).activity, (s.ent i).cook with
    | .cooking, some k =>
      sendTo i .cache .abort
        { s with cache := { s.cache with
            aborts := s.cache.aborts ++ [{ tag := tag, slot := i, token := k.token, orphaned := false }] } }
    | _, _ => fin .state 0 0 0 s

/-- The completion of a pending-ABORT record, unless it is orphaned. -/
def completeAbort (a : PendingAbort) (r : ResultCode) (d2 : Word) (s : State) : State :=
  if a.orphaned then s else complete a.tag kindAbort r (a.token.setWidth 32) d2 0 s

/-- The recorded cook still runs. One closed UNKNOWN and adopted again under its token since then counts as running (R111, log 64). -/
def Entry.cooks (e : Entry) (t : Byte) : Bool :=
  e.activity == .cooking && (match e.cook with | some k => k.token == t | none => false)

def dropFirstAbort (i : Slot) : List PendingAbort → List PendingAbort
  | [] => []
  | a :: t => if a.slot = i then t else a :: dropFirstAbort i t

/-- An ABORT command's transaction ends: the oldest record of its oven is completed and removed. `gone`: the oven left its
entry meanwhile, so its cook has ended (R17, R37). -/
def abortOutcome (i : Slot) (gone : Bool) (o : Outcome) (s : State) : State :=
  match s.cache.aborts.find? (fun a => a.slot == i) with
  | none => s
  | some a =>
    let s1 := { s with cache := { s.cache with aborts := dropFirstAbort i s.cache.aborts } }
    if gone || !(s.ent i).cooks a.token then completeAbort a .done 1 s1
    else
      match o with
      | .valid .ack => completeAbort a .done 0 s1
      | .valid _ => completeAbort a .denied (Reason.busy.code.setWidth 32) s1
      | .failed _ => completeAbort a .line 0 s1

def isAbortTo (i : Slot) (q : Queued) : Bool :=
  q.target == some i && q.owner == .cache && q.tel == .abort

/-- R37, R111: the ABORT telegrams of an entry that becomes VACANT are removed; their records complete "already ended". A
record whose transaction runs stays until it ends. They complete before the command that removes the entry (log 56). -/
def removeAborts (i : Slot) (s : State) : State :=
  let mine := s.cache.aborts.filter (fun a => a.slot == i)
  let kept := if s.transRunning (isAbortTo i) then mine.take 1 else []
  let gone := mine.drop kept.length
  gone.foldl (fun s a => completeAbort a .done 1 s)
    { s with cache := { s.cache with aborts := s.cache.aborts.filter (fun a => a.slot != i) ++ kept } }

end Sys2Proof.Machine
end

