-- ==== Sys2Proof/Machine/Recipes.lean ====
section
/-! DEFINITION. The recipe unit (04): validation, the publish engine, commits, withdrawal, fill verdicts and quarantine. -/

namespace Sys2Proof.Machine

/-! ## Validation (R71, R194) -/

/-- A model class set that names at least one class and none outside 1-15. -/
def classSetOk (c : Half) : Bool := c != 0 && !c.getLsbD 0

/-- The first failing header test, by its field code. -/
def headerFault (b : List Byte) : Option Byte :=
  if !(decide (1 ≤ (byteAt b 16).toNat) && decide ((byteAt b 16).toNat ≤ 30)) then some 1
  else if halfAt b 18 = 0 then some 2
  else if !classSetOk (halfAt b 20) then some 3
  else if byteAt b 17 &&& 0xFE ≠ 0 then some 4
  else none

def headerOf (b : List Byte) : RecipeHeader :=
  { steps := (byteAt b 16).toNat, probe := (byteAt b 17).getLsbD 0,
    gate := { classes := halfAt b 20, minLevel := halfAt b 18 } }

def inRange (lo n hi : Nat) : Bool := decide (lo ≤ n) && decide (n ≤ hi)

/-- The first failing step test, by its field code; `probe` is the header's needs-core-probe flag. -/
def stepFault (probe : Bool) (b : List Byte) : Option Byte :=
  let mode := (byteAt b 0).toNat
  let cond := (byteAt b 1).toNat
  let target := (halfAt b 4).toNat
  let core := (halfAt b 8).toNat
  if !inRange 1 mode 4 then some 5
  else if !inRange 300 target 3000 then some 6
  else if !(if mode = 3 then decide ((byteAt b 3).toNat ≤ 100) else byteAt b 3 == 0) then some 7
  else if !inRange 1 (byteAt b 2).toNat 5 then some 8
  else if !inRange 1 cond 2 then some 9
  else if cond = 1 ∧ !inRange 1 (halfAt b 6).toNat 14400 then some 10
  else if cond = 2 ∧ !(inRange 200 core 990 && decide (core < target) && probe) then some 11
  else if 1 < (byteAt b 10).toNat then some 12
  else none

/-- The steps an answer carries, judged in index order from step `k`. -/
def stepsFault (probe : Bool) : Nat → Nat → List Byte → Option (Nat × Byte)
  | 0, _, _ => none
  | n + 1, k, b =>
    match stepFault probe (b.take 16) with
    | some c => some (k, c)
    | none => stepsFault probe n (k + 1) (b.drop 16)

/-- R76: the reads of a draft of n steps. -/
def publishReads (n : Nat) : Nat := 1 + (n + 1) / 2

def usedLength (n : Nat) : Nat := 32 + 16 * n

/-! ## The engine (R76) -/

/-- R75. -/
def nextVersion (v : Byte) : Byte := if v = 255 then 1 else v + 1

/-- The slot at the head of the publish list is read next, its draft bank address taken now. -/
def startEngine (s : State) : State :=
  match s.recipe.publishList with
  | [] => { s with recipe := { s.recipe with engine := none } }
  | r :: _ =>
    { s with recipe := { s.recipe with
        engine := some { recipe := r, base := bankAddr s.storeBase r (otherBank (s.rslot r).bank), issued := 0, taken := 0,
                         header := none, reg := crc32Start } } }

/-- The head slot leaves the publish list, and the next becomes the head. -/
def leavePublishList (r : RecipeNo) (s : State) : State :=
  startEngine { s with recipe := { s.recipe with publishList := s.recipe.publishList.filter (fun x => x != r) } }

/-- R77: the publish ends in fault; answers still to come are disregarded, and a read presented to the bulk round and not yet
issued is withdrawn, which no rule says (log 52). -/
def publishFault (r : RecipeNo) (c : ResultCode) (d1 d2 : Word) (s : State) : State :=
  endLong (.recipe r) c d1 d2 0 <|
    leavePublishList r <|
      (disregardIssued (fun o => o == .publish) s).modRslot r fun x => { x with publish := .idle, staged := none }

/-- R80: the commit, or its refusal when an oven still holds the next version. -/
def commit (r : RecipeNo) (s : State) : State :=
  match (s.rslot r).staged with
  | none => s
  | some g =>
    let v := nextVersion (s.rslot r).version
    if s.versionHeld r v then
      releaseWaits r (endLong (.recipe r) .busy 1 0 0
        (s.modRslot r fun x => { x with publish := .idle, staged := none }))
    else
      endLong (.recipe r) .done (v.setWidth 32) (natWord g.used) g.check <|
        commitNotice r g.gate <|
          s.modRslot r fun x =>
            { x with bank := otherBank x.bank, version := v, check := g.check, used := g.used, state := .published,
                     written := false, publish := .idle, staged := none }

/-- R79: the last step has passed its tests. -/
def publishRead (r : RecipeNo) (g : Staged) (s : State) : State :=
  let s1 := leavePublishList r (s.modRslot r fun x => { x with publish := .commitWait, staged := some g })
  if (s1.rslot r).readers = 0 then commit r s1 else s1

/-- An answer to one of the engine's reads (R76, R77). -/
def publishAnswer (data : Option (List Word)) (s : State) : State :=
  match s.recipe.engine with
  | none => s
  | some e =>
    let keep (e' : Engine) : State := { s with recipe := { s.recipe with engine := some e' } }
    match data with
    | none => publishFault e.recipe .fault (natWord (32 * e.taken)) 0 s
    | some ws =>
      let b := bytesOf ws
      match e.header with
      | none =>
        match headerFault b with
        | some c => publishFault e.recipe .range 255 (c.setWidth 32) s
        | none => keep { e with taken := 1, header := some (headerOf b), reg := crc32Run e.reg b }
      | some h =>
        match stepsFault h.probe (b.length / 16) (2 * (e.taken - 1)) b with
        | some (k, c) => publishFault e.recipe .range (natWord k) (c.setWidth 32) s
        | none =>
          let e' := { e with taken := e.taken + 1, reg := crc32Run e.reg b }
          if e'.taken = publishReads h.steps then
            publishRead e.recipe { check := ~~~e'.reg, used := usedLength h.steps, gate := h.gate } s
          else keep e'

/-! ## PUBLISH and WITHDRAW (R75, R81) -/

def publish (tag : Half) (recipe : Byte) (s : State) : State :=
  let fin := complete tag kindPublish
  match recipeOf recipe with
  | none => fin .range 0 0 0 s
  | some r =>
    let q := s.rslot r
    if !s.hasStore then fin .disabled 0 0 0 s
    else if s.held (.recipe r) ∨ q.publish ≠ .idle then fin .busy 0 0 0 s
    else if !q.written then fin .state 0 0 0 s
    else if s.versionHeld r (nextVersion q.version) then fin .busy 1 0 0 s
    else
      let s1 := (startLong kindPublish tag (.recipe r) s).modRslot r fun x => { x with publish := .reading }
      let s2 := { s1 with recipe := { s1.recipe with publishList := s1.recipe.publishList ++ [r] } }
      if s2.recipe.engine.isNone then startEngine s2 else s2

def withdraw (tag : Half) (recipe : Byte) (s : State) : State :=
  let fin := complete tag kindWithdraw
  match recipeOf recipe with
  | none => fin .range 0 0 0 s
  | some r =>
    let q := s.rslot r
    if !s.hasStore then fin .disabled 0 0 0 s
    else if s.held (.recipe r) ∨ q.publish ≠ .idle then fin .busy 0 0 0 s
    else if q.state = .empty then fin .state 0 0 0 s
    else
      fin .done (q.version.setWidth 32) (natWord q.pins) 0
        (staleRecipe r (s.modRslot r fun x => { x with state := .empty }))

/-- R59, R74: an issued draft write with at least one byte enable set. -/
def draftWritten (r : RecipeNo) (s : State) : State := s.modRslot r fun x => { x with written := true }

/-! ## Fill verdicts (R78, R82, R99) -/

inductive Verdict where
  | good | mismatch | readError
  deriving DecidableEq, Repr

/-- R82; the codes of the two verdicts are free values (log 38). -/
def quarantine (l : LineNo) (f : Fill) (v : Verdict) (s : State) : State :=
  raiseCall (.recipe f.recipe) .recipeCorrupt .urgent
    [f.version.setWidth 32, if v = .readError then Config.readErrorCode else Config.mismatchCode, natWord l.val]
    (s.modRslot f.recipe fun x => { x with state := if x.state = .published then .quarantined else x.state })

/-- R78, R79: the reader count falls, and a waiting commit is made when it reaches 0. -/
def readerDone (r : RecipeNo) (s : State) : State :=
  let s1 := s.modRslot r fun x => { x with readers := x.readers - 1 }
  if (s1.rslot r).readers = 0 ∧ (s1.rslot r).publish = .commitWait then commit r s1 else s1

/-- A verdict is reported: the quarantine, what the fill goes on to, and the fall of the reader count are one event. A refused COOK
completes before the commit that the fall lets happen (log 56), and a panel's DENY is queued before that commit's EVICTs (log 61). -/
def fillVerdict (l : LineNo) (f : Fill) (v : Verdict) (s : State) : State :=
  let s1 := if v = .good then s else quarantine l f v s
  readerDone f.recipe
    (if f.abandoned then setFill l none s1 else if v = .good then fillGood l f s1 else fillBad l f s1)

/-- A read of the line's fill has been issued and not yet answered. -/
def State.fillReadOut (s : State) (l : LineNo) : Bool := s.path.issued.any (fun q => q.owner == .fill l && !q.disregard)

/-- The verdict of a fill whose bytes have all come (R99). -/
def Fill.verdict (f : Fill) : Verdict := if crc32 f.data = f.check then .good else .mismatch

/-- R78: an abandoned fill reports its verdict when its last issued read has been answered. No rule gives the verdict of one
that has not read the whole recipe and met no ERROR: a free value (log 16). -/
def reportAbandoned (l : LineNo) (s : State) : State :=
  match (s.ln l).fill with
  | none => s
  | some f =>
    if !f.abandoned || f.streaming || s.fillReadOut l then s
    else if f.failed then fillVerdict l f .readError s
    else if f.used ≤ f.data.length then fillVerdict l f f.verdict s
    else
      fillVerdict l f (if Config.partialFillGood s.freeCount then .good else .mismatch)
        { s with freeCount := s.freeCount + 1 }

/-- What an abandoned fill keeps of an answer: its bytes, or that it was ERROR. -/
def Fill.keepAnswer (f : Fill) (data : Option (List Word)) : Fill :=
  match data with
  | none => { f with failed := true }
  | some ws => { f with data := f.data ++ bytesOf ws }

/-- An answer to a fill read. -/
def fillAnswer (l : LineNo) (data : Option (List Word)) (s : State) : State :=
  match (s.ln l).fill with
  | none => s
  | some f =>
    if f.abandoned then reportAbandoned l (setFill l (some (f.keepAnswer data)) s)
    else match data with
    | none => fillVerdict l f .readError (disregardIssued (fun o => o == .fill l) s)
    | some ws =>
      let f' := { f with data := f.data ++ bytesOf ws }
      if f'.data.length < f.used then setFill l (some f') s
      else fillVerdict l f' f'.verdict s

end Sys2Proof.Machine
end

