-- ==== Sys2Proof/Machine/Update.lean ====
section
/-! DEFINITION. The update unit (08): the stream watch, verification, rollouts, picks, blocks, switches and their ends. -/

namespace Sys2Proof.Machine

def State.modImage (s : State) (f : ImageRec → ImageRec) : State :=
  { s with update := { s.update with image := f s.update.image } }

def State.modRollout (s : State) (f : RolloutRec → RolloutRec) : State :=
  { s with update := { s.update with rollout := f s.update.rollout } }

def State.modUpd (s : State) (i : Slot) (f : UpdRec → UpdRec) : State := s.modEnt i fun e => { e with upd := f e.upd }

/-! ## The stream watch (R148, R149) -/

def ImageRec.takeWrite (m : ImageRec) (off : Nat) (data : List Word) (enables : List (BitVec 4)) : ImageRec :=
  let full := enables.all (fun e => e == 0xF)
  let n := 4 * data.length
  if enables.all (fun e => e == 0) then m
  else if full ∧ off = 0 then
    { state := .filling, expected := n, acc := imageCheckFrom 0 0 (bytesOf data), staged := none, head := none,
      reason := .unset }
  else if full ∧ m.state = .filling ∧ off = m.expected then
    { m with expected := m.expected + n, acc := imageCheckFrom m.acc off (bytesOf data) }
  else { state := .broken, expected := 0, acc := 0, staged := none, head := none, reason := .unset }

/-- R60: writes are refused while the image is VERIFYING or IN_ROLLOUT. -/
def ImageState.closed : ImageState → Bool
  | .verifying => true
  | .inRollout => true
  | _ => false

/-! ## STAGE_CLOSE and verification (R150-R152) -/

def stageClose (tag : Half) (length check : Word) (s : State) : State :=
  let fin := complete tag kindStageClose
  let m := s.update.image
  match s.imageWindow with
  | none => fin .disabled 0 0 0 s
  | some w =>
    if ¬(64 ≤ length.toNat ∧ length.toNat % 4 = 0 ∧ length.toNat ≤ w.size) then fin .range 0 0 0 s
    else if s.held .image then fin .busy 0 0 0 s
    else if ¬(m.state = .filling ∧ m.expected = length.toNat ∧ m.acc = check) then
      fin .state (m.state.code.setWidth 32) (natWord m.expected) m.acc s
    else
      let s1 := (startLong kindStageClose tag .image s).modImage fun m =>
        { m with state := .verifying, staged := some (length.toNat, check), reason := .unset }
      { s1 with update := { s1.update with verify := some { issued := 0, bytes := 0, reg := crc32Start, header := [] } } }

/-- The number of 64-byte blocks of an image (R157). -/
def blockCount (length : Nat) : Nat := (length + 63) / 64

/-- R152: the verification ends in REJECTED; answers still to come are disregarded, and a read presented and not yet issued is
withdrawn (log 52). -/
def rejectImage (why : RejectReason) (found : Word) (stagedLen : Nat) (s : State) : State :=
  let s1 := (disregardIssued (fun o => o == .verify) s).modImage fun m => { m with state := .rejected, reason := why }
  endLong .image .rejected (why.code.setWidth 32) found (natWord stagedLen)
    { s1 with update := { s1.update with verify := none } }

def verifyImage (h : ImageHead) (stagedLen : Nat) (s : State) : State :=
  let s1 := s.modImage fun m => { m with state := .verified, head := some h }
  endLong .image .done (h.level.setWidth 32) (h.cls.setWidth 32) (natWord (blockCount stagedLen))
    { s1 with update := { s1.update with verify := none } }

def imageHeadOf (b : List Byte) : ImageHead := { level := halfAt b 8, cls := byteAt b 4 }

def classPermitted (p : Profile) (c : Byte) : Bool :=
  decide (1 ≤ c.toNat) && decide (c.toNat ≤ 15) && p.classes.getLsbD c.toNat

/-- R151, judgements 2 to 6: the reason and the value found. -/
def imageHeaderFault (p : Profile) (stagedLen : Nat) (check : Word) (b : List Byte) : Option (RejectReason × Word) :=
  if wordAt b 0 ≠ Config.imageMagic then some (.magic, wordAt b 0)
  else if !classPermitted p (byteAt b 4) then some (.cls, (byteAt b 4).setWidth 32)
  else if halfAt b 8 = 0 then some (.level, 0)
  else if (wordAt b 12).toNat ≠ stagedLen then some (.length, wordAt b 12)
  else if wordAt b 16 ≠ check then some (.checkField, wordAt b 16)
  else none

/-- An answer to a verify read (R151). -/
def verifyAnswer (data : Option (List Word)) (s : State) : State :=
  match s.update.verify, s.update.image.staged with
  | some v, some (len, check) =>
    match data with
    | none => rejectImage .readError (natWord v.bytes) len s
    | some ws =>
      let b := bytesOf ws
      let v' := { v with bytes := v.bytes + b.length, reg := crc32Run v.reg (maskImageBytes v.bytes b),
                         header := (v.header ++ b).take 64 }
      let judged := if v.bytes < 64 ∧ 64 ≤ v'.bytes then imageHeaderFault s.profile len check v'.header else none
      match judged with
      | some (why, found) => rejectImage why found len s
      | none =>
        if v'.bytes < len then { s with update := { s.update with verify := some v' } }
        else if ~~~v'.reg = check then verifyImage (imageHeadOf v'.header) len s
        else rejectImage .check (~~~v'.reg) len s
  | _, _ => s

/-! ## Ends of an oven's part in a rollout -/

/-- R166: the journal UPDATE record. -/
def passUpdate (i : Slot) (o : UpdOutcome) (reported : Option Half) (blocks : Nat) (why : Option UpdReason) (s : State) :
    State :=
  let r := s.update.rollout
  let u := (s.ent i).upd
  passJournal (.update
    { slot := i, outcome := o, level := r.level, check := r.check, prev := u.prevLevel, reported := reported,
      picked := u.picked, stop := s.report.clock, blocks := blocks, reason := why }) s

/-- The blocks an oven has acknowledged: all of them once SWITCH has been queued. -/
def State.blocksAcked (s : State) (i : Slot) : Nat :=
  let u := (s.ent i).upd
  if u.state = .switching ∨ u.switchQueued then blockCount s.update.rollout.length else u.nextBlock

def markDone (i : Slot) (s : State) : State := s.modRollout fun r => { r with done := r.done ||| slotBit i }
def markFailed (i : Slot) (s : State) : State := s.modRollout fun r => { r with failed := r.failed ||| slotBit i }
def markSkipped (i : Slot) (s : State) : State := s.modRollout fun r => { r with skipped := r.skipped ||| slotBit i }

/-- R162, R164: the image stream goes at once, or when its running block transaction ends; the answers to its issued reads are
disregarded, and its reads that have not been issued are withdrawn (log 52). -/
def dropImageStream (i : Slot) (s : State) : State :=
  let l := (s.ent i).line
  let s1 := disregardIssued (fun o => o == .block i)
    { s with update := { s.update with blockReads := s.update.blockReads.filter (fun b => b.slot != i) } }
  if s1.blockRunning l .image i then modStream l .image i (fun x => { x with ready := false, drop := true }) s1
  else removeStream l .image i s1

def isSwitchTo (i : Slot) (q : Queued) : Bool :=
  q.target == some i && (match q.tel with
                         | .switch _ _ => true
                         | _ => false)

/-- R155: the activity returns to IDLE as the update state leaves SENDING or SWITCHING; the marks of those states go. -/
def leaveUpdating (i : Slot) (st : UpdState) (s : State) : State :=
  toIdle i (s.modUpd i fun u =>
    { u with state := st, switchQueued := false, stopMark := false, limit := none, identAsked := false, blockData := [],
             readsLeft := 0 })

/-- R166: the detail codes of UPDATE_FAIL. -/
def updateFailDetails (why : UpdReason) (block : Option Nat) (level : Half) (fourth : Option Word) : List Word :=
  [why.code.setWidth 32, detail? (block.map natWord), level.setWidth 32, detail? fourth]

/-- R162. -/
def failOven (i : Slot) (why : UpdReason) (block : Option Nat) (fourth : Option Word) (reported : Option Half) (s : State) :
    State :=
  let blocks := s.blocksAcked i
  let s1 := removeTelegrams (isSwitchTo i) (dropImageStream i s)
  let s2 := markFailed i (leaveUpdating i .failed (s1.modUpd i fun u => { u with reason := some why }))
  let s3 := if why = .switchLimit then s2
    else raiseCall (.oven i) .updateFail .urgent (updateFailDetails why block s.update.rollout.level fourth) s2
  raiseEvent .rollout (passUpdate i .failed reported blocks (some why) s3)

/-- R164: what becomes of a stopped oven; the ROLLOUT event is the caller's. -/
def stopOven (i : Slot) (s : State) : State :=
  let blocks := s.blocksAcked i
  passUpdate i .stopped none blocks none (markSkipped i (leaveUpdating i .skipped (dropImageStream i s)))

/-- R163: a QUEUED oven leaves IN_SERVICE. -/
def skipQueued (i : Slot) (s : State) : State :=
  if (s.ent i).upd.state = .queued then
    raiseEvent .rollout (markSkipped i (s.modUpd i fun u => { u with state := .skipped }))
  else s

/-- R20, R162: suspension of an oven that is UPDATING. -/
def failSuspended (i : Slot) (s : State) : State := failOven i .suspended none none none s

/-! ## Picks and block reads (R156, R157) -/

def UpdState.onLine : UpdState → Bool
  | .sending => true
  | .switching => true
  | _ => false

/-- R157: the reads of block n that cover bytes below the length. -/
def blockReadsOf (i : Slot) (base : Word) (length n : Nat) : List BlockRead :=
  { slot := i, addr := base + natWord (64 * n) } ::
    (if 64 * n + 32 < length then [{ slot := i, addr := base + natWord (64 * n + 32) }] else [])

def State.imageBase (s : State) : Word :=
  match s.imageWindow with
  | some w => w.base
  | none => 0

/-- The read of block n of an oven begins. -/
def beginBlock (i : Slot) (n : Nat) (s : State) : State :=
  let rs := blockReadsOf i s.imageBase s.update.rollout.length n
  let s1 := s.modUpd i fun u => { u with nextBlock := n, blockData := [], readsLeft := rs.length }
  { s1 with update := { s1.update with blockReads := s1.update.blockReads ++ rs } }

/-- R156: a granted rollout-pick claim. -/
def takePick (l : LineNo) (i : Slot) (s : State) : State :=
  let level := match (s.ent i).identity with
    | some d => d.level
    | none => 0
  let s1 := s.modEnt i fun e =>
    { e with activity := .updating,
             upd := { e.upd with state := .sending, nextBlock := 0, switchQueued := false, stopMark := false,
                                 identAsked := false, failedIdents := 0, prevLevel := level, picked := s.report.clock } }
  beginBlock i 0
    (placeStream l { kind := .image, slot := i, next := 0, ready := false, data := [], drop := false } s1)

/-- R156: a pick on a line where no oven is SENDING or SWITCHING, while the rollout is ACTIVE. -/
def pickOn (s : State) (l : LineNo) : State :=
  if s.update.rollout.state ≠ .active ∨ slots.any (fun i => s.onLine l i && (s.ent i).upd.state.onLine) then s
  else
    match slots.find? (fun i => s.onLine l i && (s.ent i).upd.state == .queued && (s.ent i).claimable) with
    | some i => takePick l i s
    | none => s

def makePicks (s : State) : State := lineNos.foldl pickOn s

/-- R165: the rollout ends when no target is QUEUED, SENDING or SWITCHING. -/
def State.rolloutLeft (s : State) : Bool :=
  slots.any (fun i => (s.ent i).upd.state == .queued || (s.ent i).upd.state.onLine)

def endRollout (s : State) : State :=
  let r := s.update.rollout
  if (r.state = .active ∨ r.state = .halting) ∧ !s.rolloutLeft then
    endLong .image (if r.state = .active then .done else .halted) (r.done.setWidth 32) (r.failed.setWidth 32)
      (r.skipped.setWidth 32)
      ((s.modRollout fun r => { r with state := .ended }).modImage fun m => { m with state := .verified })
  else s

/-- An answer to a rollout block read (R157). -/
def blockAnswer (i : Slot) (data : Option (List Word)) (s : State) : State :=
  let u := (s.ent i).upd
  if u.state = .sending then
    match data with
    | none => failOven i .readError (some u.nextBlock) none none s
    | some ws =>
      let d := u.blockData ++ bytesOf ws
      let s1 := s.modUpd i fun u => { u with blockData := d, readsLeft := u.readsLeft - 1 }
      if u.readsLeft ≤ 1 then
        let have' := d.take (min 64 (s.update.rollout.length - 64 * u.nextBlock))
        modStream (s.ent i).line .image i
          (fun x => { x with ready := true, data := have' ++ zeros (64 - have'.length) }) s1
      else s1
  else s

/-- The outcome of an IMAGE_BLOCK (R158, R164). -/
def imageBlockOutcome (l : LineNo) (i : Slot) (o : Outcome) (s : State) : State :=
  match s.streamOf l .image i with
  | none => s
  | some x =>
    let u := (s.ent i).upd
    if x.drop then removeStream l .image i s
    else if u.stopMark then raiseEvent .rollout (stopOven i s)
    else
      match o with
      | .valid .ack =>
        if x.next + 1 < blockCount s.update.rollout.length then
          beginBlock i (x.next + 1) (modStream l .image i (fun x => { x with next := x.next + 1, ready := false }) s)
        else
          sendTo i .update (.switch s.update.rollout.level s.update.rollout.check)
            ((removeStream l .image i s).modUpd i fun u => { u with switchQueued := true })
      | .valid (.nak n) => failOven i .blockNak (some x.next) (some (n.code.setWidth 32)) none s
      | _ => failOven i .blockLine (some x.next) none none s

/-! ## Switching and confirmation (R159, R160) -/

def switching (i : Slot) (s : State) : State :=
  s.modEnt i fun e =>
    { e with dir := [], toggle := none,
             upd := { e.upd with state := .switching, switchQueued := false, limit := some s.now } }

def switchOutcome (i : Slot) (o : Outcome) (s : State) : State :=
  let u := (s.ent i).upd
  if u.state = .sending ∧ u.switchQueued then
    match o with
    | .valid (.nak n) => failOven i .switchNak none (some (n.code.setWidth 32)) none s
    | _ => switching i s
  else s

/-- R160: the first valid reply from a SWITCHING oven has it asked who it is. -/
def askIdentity (i : Slot) (s : State) : State :=
  if (s.ent i).upd.state = .switching ∧ !(s.ent i).upd.identAsked then
    sendTo i .update .identReq (s.modUpd i fun u => { u with identAsked := true })
  else s

def setLevel (i : Slot) (level : Half) (s : State) : State :=
  s.modEnt i fun e => { e with identity := e.identity.map (fun d => { d with level := level }) }

/-- R160: a CONFIRMED oven. -/
def confirmOven (i : Slot) (reported : Half) (s : State) : State :=
  let blocks := s.blocksAcked i
  let s1 := flushReduce i (markDone i (leaveUpdating i .confirmed (setLevel i s.update.rollout.level s)))
  raiseEvent .rollout (passUpdate i .confirmed (some reported) blocks none s1)

def switchIdent (i : Slot) (o : Outcome) (s : State) : State :=
  let e := s.ent i
  if e.upd.state = .switching ∧ e.upd.identAsked then
    match o with
    | .valid (.ident d) =>
      if (match e.identity with | some k => d.serial != k.serial | none => true) then
        failOven i .serial none (some d.serial) (some d.level) s
      else if d.activity ≠ .idle then failOven i .activity none none (some d.level) (setLevel i d.level s)
      else if d.level ≠ s.update.rollout.level then
        failOven i .level none (some (d.level.setWidth 32)) (some d.level) (setLevel i d.level s)
      else confirmOven i d.level s
    | _ => s.modUpd i fun u => { u with identAsked := false, failedIdents := min 255 (u.failedIdents + 1) }
  else s

/-! ## ROLLOUT and ROLLOUT_HALT (R154, R164) -/

/-- R154: a target that is SKIPPED at acceptance. -/
def Entry.skippedBy (e : Entry) (level : Half) (cls : Byte) (downgrade : Bool) : Bool :=
  match e.state, e.identity with
  | .inService, some d =>
    d.model != cls || d.level == level || (decide (level.toNat < d.level.toNat) && !downgrade)
  | _, _ => true

def rollout (tag mask : Half) (downgrade : Byte) (s : State) : State :=
  let fin := complete tag kindRollout
  let m := s.update.image
  if mask = 0 ∨ 1 < downgrade.toNat then fin .range 0 0 0 s
  else if !s.profile.updates then fin .disabled 0 0 0 s
  else if s.held .image then fin .busy 0 0 0 s
  else
    match m.state, m.head, m.staged with
    | .verified, some h, some (len, check) =>
      let skips := fun i => slotIn mask i && (s.ent i).skippedBy h.level h.cls (downgrade == 1)
      let s1 := (startLong kindRollout tag .image s).modImage fun m => { m with state := .inRollout }
      let s2 := s1.modRollout fun _ =>
        { state := .active, level := h.level, cls := h.cls, length := len, check := check, downgrade := downgrade == 1,
          target := mask, done := 0, failed := 0,
          skipped := (slots.filter skips).foldl (fun a i => a ||| slotBit i) 0, orphaned := false }
      let s3 := slots.foldl (fun s i => s.modUpd i fun u =>
        { u with state := if !slotIn mask i then .unset else if skips i then .skipped else .queued }) s2
      if slots.any skips then raiseEvent .rollout s3 else s3
    | _, _, _ => fin .state (m.state.code.setWidth 32) 0 0 s

/-- R164: a SENDING oven without a queued SWITCH whose block transaction, if it has one, is not running is stopped at once. -/
def State.stopsAtOnce (s : State) (i : Slot) : Bool :=
  (s.ent i).upd.state == .sending && !(s.ent i).upd.switchQueued && !s.blockRunning (s.ent i).line .image i

/-- R164: what the halt does with one oven. -/
def haltOne (s : State) (i : Slot) : State :=
  let u := (s.ent i).upd
  match u.state with
  | .queued => markSkipped i (s.modUpd i fun u => { u with state := .skipped })
  | .sending =>
    if u.switchQueued then s
    else if s.blockRunning (s.ent i).line .image i then s.modUpd i fun u => { u with stopMark := true }
    else stopOven i s
  | _ => s

/-- R164; ROLLOUT is raised once, whether an oven became SKIPPED from QUEUED or by being stopped at once. The halt's DONE is composed
before the completion of the rollout that it ends (log 20). -/
def rolloutHalt (tag : Half) (s : State) : State :=
  let fin := complete tag kindRolloutHalt
  if s.update.rollout.state ≠ .active then fin .state 0 0 0 s
  else
    let queued := slots.countP (fun i => (s.ent i).upd.state == .queued)
    let stopping := slots.countP (fun i => (s.ent i).upd.state == .sending && !(s.ent i).upd.switchQueued)
    let left := slots.countP (fun i =>
      ((s.ent i).upd.state == .sending && (s.ent i).upd.switchQueued) || (s.ent i).upd.state == .switching)
    let s1 := (slots.foldl haltOne s).modRollout fun r => { r with state := .halting }
    let s2 := if 0 < queued ∨ slots.any s.stopsAtOnce then raiseEvent .rollout s1 else s1
    fin .done (natWord (queued + stopping)) (natWord left) 0 s2

end Sys2Proof.Machine
end

