-- ==== Sys2Proof/Machine/Roster.lean ====
section
/-! DEFINITION. The roster (01): commissioning, calibration, restore, retirement, suspension, release and revalidation. -/

namespace Sys2Proof.Machine

/-! ## Returning to VACANT (R17, R37) -/

/-- R37: a transaction in progress whose target entry becomes VACANT. -/
def markGone (i : Slot) (s : State) : State :=
  { s with lines := s.lines.map fun x =>
      { x with trans := x.trans.map (fun t => if t.q.target = some i then { t with gone := true } else t) } }

/-- The entry becomes VACANT with the update record given; its telegrams are removed and it leaves the poll schedule. -/
def vacate (i : Slot) (u : UpdRec) (s : State) : State :=
  (markGone i (leaveSchedule i (removeTelegrams (fun q => q.target == some i) (removeAborts i s)))).setEnt i
    { Entry.reset with upd := u }

/-- A commissioning or restore ends without success; only a COMMISSION may send UNASSIGN (R8, R9, R16). -/
def failCommission (i : Slot) (r : ResultCode) (d1 : Word) (unassign : Bool) (s : State) : State :=
  let e := s.ent i
  let commission := (match e.job with | some j => j.kind == .commission | none => false)
  let s1 := if unassign && commission then sendUnassign i s else s
  endLong (.oven i) r d1 0 0 (vacate i e.upd s1)

/-! ## Entering IN_SERVICE (R12) -/

/-- R12: liveness reset, FLUSH with the reduction, and the hygiene unit told. The state itself is set by the caller. -/
def enterInService (i : Slot) (s : State) : State :=
  let s1 := s.modEnt i fun e => { e with late := false, failures := 0, silence := some s.now }
  autoPlace i (setCount i (s1.ent i).count (flushReduce i s1))

/-- R175. -/
def passCommission (i : Slot) (j : Job) (c : Cal) (errors : Option (Int × Int)) (s : State) : State :=
  let e := s.ent i
  match e.identity with
  | none => s
  | some d =>
    passJournal (.commission
      { slot := i, mark := j.kind, tag := j.tag, line := e.line, drop := e.drop, ident := d, cal := c, errors := errors,
        count := e.count, time := s.report.clock }) s

/-! ## Calibration (R10, R11) -/

inductive CalEnd where
  | judgement | nak | failed | limit | stopFault
  deriving DecidableEq, Repr

def CalEnd.code : CalEnd → Byte
  | .judgement => 1 | .nak => 2 | .failed => 3 | .limit => 4 | .stopFault => 5

/-- R10: on entering CALIBRATING. -/
def enterCalibrating (i : Slot) (s : State) : State :=
  sendTo i .roster .probeCheck
    (joinSchedule i (s.modEnt i fun e => { e with state := .calibrating, probe := false, calLimit := some s.now }))

/-- R11: a failure, by judgement or as in R10. -/
def calFail (i : Slot) (errors : Option (Int × Int)) (why : CalEnd) (s : State) : State :=
  let e0 := detail? (errors.map fun p => intWord p.1)
  let es := detail? (errors.map fun p => intWord p.2)
  let s1 := leaveSchedule i (s.modEnt i fun e => { e with state := .calFailed, calLimit := none, job := none })
  endLong (.oven i) .calFail e0 es 0
    (raiseCall (.oven i) .calibration .urgent [e0, es, why.code.setWidth 32] s1)

/-- R11: a pass. -/
def calPass (i : Slot) (j : Job) (c : Cal) (e0 es : Int) (s : State) : State :=
  let s1 := s.modEnt i fun e => { e with state := .inService, cal := some c, calLimit := none, job := none }
  enterInService i (endLong (.oven i) .done (intWord e0) (intWord es) 0 (passCommission i j c (some (e0, es)) s1))

/-- R11. -/
def calPasses (p : Profile) (e0 es rawSpan : Int) : Bool :=
  decide (e0.natAbs ≤ p.tolZero) && decide (es.natAbs ≤ p.tolSpan) && decide (100 ≤ rawSpan)

def judgeProbe (i : Slot) (rawLow rawHigh : Half) (s : State) : State :=
  match (s.ent i).job with
  | none => s
  | some j =>
    let c : Cal := { refLow := j.cal.refLow, refHigh := j.cal.refHigh, rawLow := rawLow, rawHigh := rawHigh }
    let e0 := rawLow.toInt - c.refLow.toInt
    let es := c.rawSpan - c.refSpan
    if calPasses s.profile e0 es c.rawSpan then calPass i j c e0 es s
    else calFail i (some (e0, es)) .judgement s

/-- R10: a NAK to PROBE_CHECK, or a failed transaction, ends the calibration. The outcome is not tied to the calibration that queued
the PROBE_CHECK: one queued by an earlier calibration ends the later (log 62). -/
def probeCheckOutcome (i : Slot) (o : Outcome) (s : State) : State :=
  if (s.ent i).state = .calibrating then
    match o with
    | .valid .ack => s
    | .valid _ => calFail i none .nak s
    | .failed _ => calFail i none .failed s
  else s

/-! ## ASSIGN, CONFIRM and IDENT_REQ (R7-R9, R16) -/

/-- The serial belongs to the identity of another non-VACANT entry. -/
def State.serialTaken (s : State) (i : Slot) (serial : Word) : Bool :=
  slots.any (fun k => k != i && (s.ent k).state != .vacant &&
    (match (s.ent k).identity with | some d => d.serial == serial | none => false))

def pairOutcome (i : Slot) (o : Outcome) (s : State) : State :=
  match (s.ent i).state, (s.ent i).job with
  | .assigning, some j =>
    match o with
    | .valid (.pair serial) =>
      let s1 := s.modEnt i fun e => { e with pairing := false, job := some { j with kept := serial } }
      if s.serialTaken i serial then failCommission i .identity 0 false s1
      else joinSchedule i (sendConfirm i serial s1)
    | .failed true => failCommission i .collision 0 false s
    | _ => failCommission i .noOven 0 false s
  | _, _ => s

def confirmOutcome (i : Slot) (o : Outcome) (s : State) : State :=
  match (s.ent i).state, o with
  | .assigning, .valid .ack =>
    sendTo i .roster .identReq
      (s.modEnt i fun e =>
        { e with late := false, failures := 0, lastReply := some s.report.clock, silence := some s.now })
  | .assigning, _ => failCommission i .noOven 0 true s
  | _, _ => s

def IdentReply.identity (d : IdentReply) : Identity := { serial := d.serial, model := d.model, level := d.level }

/-- R16: a RESTORE enters IN_SERVICE, with the reported cook adopted. -/
def restored (i : Slot) (j : Job) (d : IdentReply) (s : State) : State :=
  let s1 := setCount i j.minutes.toNat (s.modEnt i fun e =>
    { e with state := .inService, identity := some d.identity, cal := some j.cal, job := none,
             token := if d.activity = .cooking then d.token else e.token })
  let s2 := if d.activity = .cooking then adopt i d.token d.recipe d.version s1 else s1
  enterInService i (endLong (.oven i) .done 0 0 0 (passCommission i j j.cal none s2))

/-- R9, R16: the IDENT of a commissioning or a restore. -/
def judgeIdent (i : Slot) (j : Job) (d : IdentReply) (s : State) : State :=
  if d.serial ≠ j.kept then failCommission i .identity 0 true s
  else if !s.profile.classes.getLsbD d.model.toNat then failCommission i .model 0 true s
  else if j.kind = .restore then
    if d.activity = .cleaning then s.modEnt i fun e => { e with identResend := some s.now }
    else restored i j d s
  else if d.activity ≠ .idle then failCommission i .state (d.activity.code.setWidth 32) true s
  else enterCalibrating i (s.modEnt i fun e => { e with identity := some d.identity })

/-! ## Suspension (R18-R21) -/

def causeBit (c : StopCause) : BitVec 4 := 1 <<< c.bitNo

/-- R20: what entry to SUSPENDED does with the activity. A fill abandoned with no read to be answered reports its verdict at
once (R78, log 16); the RECIPE_CORRUPT of a bad one, and the UPDATE_FAIL of an oven that was UPDATING, come after the call that the
caller raises for the suspension (log 55). -/
def suspendActivity (i : Slot) (c : StopCause) (s : State) : State :=
  match (s.ent i).activity with
  | .idle => s
  | .filling => reportAbandoned (s.ent i).line (abandonStart i (reduceDirectory i s))
  | .updating => failSuspended i s
  | .cooking => if c = .fault then queueRosterAbort i s else if c = .silent then closeCookUnknown i s else s
  | .cleaning => if c = .fault then queueRosterAbort i s else if c = .silent then closeCleaningUnknown i s else s

/-- R18, R20, R21, R163: an entry IN_SERVICE is suspended; its call is raised by the caller. -/
def suspend (i : Slot) (c : StopCause) (s : State) : State :=
  let s1 := s.modEnt i fun e => { e with state := .suspended, causes := e.causes ||| causeBit c }
  skipQueued i (reduceDirectory i (leaveCleaning i (suspendActivity i c s1)))

/-- R18, R20: a FAULT cause of an entry already SUSPENDED. -/
def addFaultCause (i : Slot) (s : State) : State :=
  let s1 := s.modEnt i fun e => { e with causes := e.causes ||| causeBit .fault }
  match (s1.ent i).activity with
  | .cooking => queueRosterAbort i s1
  | .cleaning => queueRosterAbort i s1
  | _ => s1

/-- R24: a return from REVALIDATING to SUSPENDED. -/
def returnToSuspended (i : Slot) (c : StopCause) (s : State) : State :=
  reduceDirectory i (leaveCleaning i (s.modEnt i fun e =>
    { e with state := .suspended, causes := e.causes ||| causeBit c, identResend := none }))

/-- The details of SILENT (07 §7.2). -/
def silentDetails (e : Entry) (st : CState) : List Word :=
  [detail? e.lastReply, natWord e.failures, st.code.setWidth 32]

/-- R24: the outcome of an IDENT_REQ under way is to be disregarded. -/
def voidIdent (i : Slot) (s : State) : State :=
  let mark := fun (q : Queued) =>
    if q.tel = .identReq ∧ q.target = some i ∧ q.owner = .roster then { q with void := true } else q
  { s with lines := s.lines.map fun x =>
      { x with urgent := x.urgent.map mark, waiting := x.waiting.map mark,
               trans := x.trans.map (fun t => { t with q := mark t.q }) } }

/-! ## Revalidation (R24) -/

def revalidated (i : Slot) (d : IdentReply) (s : State) : State :=
  let s1 := s.modEnt i fun e => { e with state := .inService, identity := some d.identity }
  enterInService i (if d.activity = .cooking then adopt i d.token d.recipe d.version s1 else s1)

def revalidateOutcome (i : Slot) (o : Outcome) (s : State) : State :=
  let e := s.ent i
  match o with
  | .valid (.ident d) =>
    match e.identity with
    | none => s
    | some k =>
      if d.serial ≠ k.serial then
        raiseCall (.oven i) .identity .stop [d.serial, k.serial] (returnToSuspended i .identity s)
      else if d.activity = .cleaning then s.modEnt i fun e => { e with identResend := some s.now }
      else revalidated i d s
  | _ => raiseCall (.oven i) .silent .stop (silentDetails e .revalidating) (returnToSuspended i .silent s)

/-- The outcome of an IDENT_REQ that the roster queued. -/
def identOutcome (i : Slot) (void : Bool) (o : Outcome) (s : State) : State :=
  if void then s
  else
    match (s.ent i).state, (s.ent i).job with
    | .identifying, some j =>
      match o with
      | .valid (.ident d) => judgeIdent i j d s
      | _ => failCommission i .noOven 0 true s
    | .revalidating, _ => revalidateOutcome i o s
    | _, _ => s

/-- R20: the outcome of an ABORT that the roster queued counts only while the mark says that one is outstanding, whichever of two it
answers (log 53). -/
def rosterAbortOutcome (i : Slot) (o : Outcome) (s : State) : State :=
  if (s.ent i).abortMark = .outstanding then
    s.modEnt i fun e => { e with abortMark := if o.isAck then .acknowledged else .unset }
  else s

/-! ## Notices of the roster (R3, R10, R133) -/

def calBusyNotice (i : Slot) (s : State) : State :=
  if (s.ent i).state = .calibrating then s.modEnt i fun e => { e with probe := true } else raiseProtocol i .calBusy s

def probeResultNotice (i : Slot) (rawLow rawHigh : Half) (s : State) : State :=
  if (s.ent i).state = .calibrating then judgeProbe i rawLow rawHigh s
  else raiseProtocol i (.probeResult rawLow rawHigh) s

/-- R133, R18, R10, R24: an accepted FAULT notice. Its OVEN_FAULT is raised before the CALIBRATION of a calibration that it fails
and before the calls that a suspension brings (log 55). -/
def faultNotice (i : Slot) (cls : Severity) (codes : List Half) (s : State) : State :=
  let s1 := raiseCall (.oven i) .ovenFault cls (faultDetails codes) s
  if cls = .stop then
    match (s.ent i).state with
    | .inService => suspend i .fault s1
    | .suspended => addFaultCause i s1
    | .calibrating => calFail i none .stopFault s1
    | .revalidating => voidIdent i (returnToSuspended i .fault s1)
    | _ => s1
  else s1

/-! ## Timers of the roster -/

/-- R45, R22: an expiry of the silence timer. SILENT is raised before the calls that the suspension brings (log 55). -/
def silenceExpired (i : Slot) (s : State) : State :=
  let s1 := s.modEnt i fun e => { e with silence := none }
  let e := s1.ent i
  match e.state with
  | .inService =>
    if e.upd.state = .switching then s1
    else suspend i .silent (raiseCall (.oven i) .silent .stop (silentDetails e .inService) s1)
  | .suspended =>
    match e.activity with
    | .cooking => closeCookUnknown i s1
    | .cleaning => closeCleaningUnknown i s1
    | _ => s1
  | _ => s1

/-- R161: the switch limit of a SWITCHING oven expires. -/
def switchExpired (i : Slot) (s : State) : State :=
  let n := (s.ent i).upd.failedIdents
  let level := s.update.rollout.level
  suspend i .update
    (raiseCall (.oven i) .updateFail .stop (updateFailDetails .switchLimit none level (some (natWord n)))
      (failOven i .switchLimit none (some (natWord n)) none s))

def identResendExpired (i : Slot) (s : State) : State :=
  let s1 := s.modEnt i fun e => { e with identResend := none }
  if (s1.ent i).state = .identifying ∨ (s1.ent i).state = .revalidating then sendTo i .roster .identReq s1 else s1

/-! ## Commands of the roster -/

def tempOk (t : Half) : Bool := decide (-400 ≤ t.toInt) && decide (t.toInt ≤ 4000)

/-- R6: slot, line and drop as the roster uses them, when the first check passes. -/
def placeOf (slot line drop : Byte) (refLow refHigh : Half) : Option (Slot × LineNo × Byte) :=
  match slotOf slot, lineOf line with
  | some i, some l =>
    if 1 ≤ drop.toNat ∧ drop.toNat ≤ 31 ∧ tempOk refLow ∧ tempOk refHigh then some (i, l, drop) else none
  | _, _ => none

/-- R6: the checks after the ranges, in order; `none` accepts. -/
def State.commissionRefusal (s : State) (i : Slot) (l : LineNo) (drop : Byte) (serial : Word) (span : Int) :
    Option ResultCode :=
  let onLine := slots.filter (fun k => (s.ent k).state != .vacant && s.onLine l k)
  if s.held (.oven i) then some .busy
  else if (s.ent i).state ≠ .vacant then some .state
  else if !s.lineEnabled l then some .disabled
  else if onLine.any (fun k => k != i && (s.ent k).drop == drop) then some .state
  else if 8 ≤ onLine.length then some .state
  else if serial ≠ 0 ∧ slots.any (fun k => k != i &&
      (match (s.ent k).identity with | some d => d.serial == serial | none => false)) then some .state
  else if serial = 0 ∧ onLine.any (fun k => k != i && (s.ent k).pairing) then some .busy
  else if span < 100 then some .range
  else none

/-- R6, R16: an accepted COMMISSION or RESTORE. -/
def beginCommission (kind : Byte) (i : Slot) (l : LineNo) (drop : Byte) (j : Job) (s : State) : State :=
  sendAssign i j.named
    ((startLong kind j.tag (.oven i) s).modEnt i fun e =>
      { e with state := .assigning, place := some (l, drop), pairing := true, toggle := none, job := some j })

def commission (tag : Half) (slot line drop : Byte) (serial : Word) (refLow refHigh : Half) (s : State) : State :=
  let fin := complete tag kindCommission
  match placeOf slot line drop refLow refHigh with
  | none => fin .range 0 0 0 s
  | some (i, l, d) =>
    match s.commissionRefusal i l d serial (refHigh.toInt - refLow.toInt) with
    | some r => fin r 0 0 0 s
    | none =>
      beginCommission kindCommission i l d
        { kind := .commission, tag := tag, named := serial, kept := 0,
          cal := { refLow := refLow, refHigh := refHigh, rawLow := 0, rawHigh := 0 }, minutes := 0 } s

/-- R16. -/
def restore (tag : Half) (slot line drop : Byte) (serial : Word) (cal : Cal) (minutes : Word) (s : State) : State :=
  let fin := complete tag kindRestore
  match placeOf slot line drop cal.refLow cal.refHigh with
  | none => fin .range 0 0 0 s
  | some (i, l, d) =>
    match s.commissionRefusal i l d serial cal.refSpan with
    | some r => fin r 0 0 0 s
    | none =>
      if serial = 0 then fin .range 0 0 0 s
      else if cal.rawSpan < 100 then fin .range 0 0 0 s
      else if 65535 < minutes.toNat then fin .range 0 0 0 s
      else
        beginCommission kindRestore i l d
          { kind := .restore, tag := tag, named := serial, kept := 0, cal := cal, minutes := minutes.setWidth 16 } s

/-- R15. -/
def recalibrate (tag : Half) (slot : Byte) (refLow refHigh : Half) (s : State) : State :=
  let fin := complete tag kindRecalibrate
  match slotOf slot with
  | none => fin .range 0 0 0 s
  | some i =>
    let e := s.ent i
    if !(tempOk refLow && tempOk refHigh) then fin .range 0 0 0 s
    else if s.held (.oven i) then fin .busy 0 0 0 s
    else if e.state ≠ .calFailed ∧ e.state ≠ .inService then fin .state 0 0 0 s
    else if e.state = .inService ∧ (e.activity ≠ .idle ∨ e.offerOut) then fin .busy 0 0 0 s
    else if refHigh.toInt - refLow.toInt < 100 then fin .range 0 0 0 s
    else
      let j : Job :=
        { kind := .recalibrate, tag := tag, named := 0, kept := 0,
          cal := { refLow := refLow, refHigh := refHigh, rawLow := 0, rawHigh := 0 }, minutes := 0 }
      enterCalibrating i
        (skipQueued i ((startLong kindRecalibrate tag (.oven i) s).modEnt i fun e => { e with job := some j }))

/-- R17. The ABORT records of the entry complete before the command itself, and the command before a rollout whose last open target
it skips (R165, log 56). -/
def retire (tag : Half) (slot : Byte) (s : State) : State :=
  let fin := complete tag kindRetire
  match slotOf slot with
  | none => fin .range 0 0 0 s
  | some i =>
    let e := s.ent i
    if s.held (.oven i) then fin .busy 0 0 0 s
    else if e.state = .vacant ∨ e.state = .revalidating then fin .state 0 0 0 s
    else if e.activity ≠ .idle ∨ e.offerOut then fin .busy 0 0 0 s
    else
      let s1 := if e.late then s else sendUnassign i s
      let s2 := skipQueued i (leaveCleaning i s1)
      fin .done (natWord (s2.callsOf i)) 0 0 (vacate i UpdRec.reset (removeCallsOf i s2))

/-- R23. -/
def release (tag : Half) (slot : Byte) (s : State) : State :=
  let fin := complete tag kindRelease
  match slotOf slot with
  | none => fin .range 0 0 0 s
  | some i =>
    let e := s.ent i
    if e.state ≠ .suspended then fin .state 0 0 0 s
    else if e.activity ≠ .idle ∨ e.offerOut then fin .busy 0 0 0 s
    else
      fin .done 0 0 0
        (sendTo i .roster .identReq (s.modEnt i fun e =>
          { e with causes := 0, state := .revalidating, toggle := none }))

end Sys2Proof.Machine
end

