-- ==== Sys2Proof/Machine/Work.lean ====
section
/-! DEFINITION. What every event ends with: registrations, claims and the rollout's end (`settle`), and the counters and owed
rewrites (`finish`); the rings and the reads that the bulk clients have waiting. -/

namespace Sys2Proof.Machine

/-! ## Rings (R167) -/

def ringDistance (producer consumer : Half) : Nat := (producer - consumer).toNat

def ringFree (r : Ring) (producer consumer : Half) : Nat := r.size - ringDistance producer consumer

def ringAddr (r : Ring) (position : Half) (entry : Nat) : Word := r.base + natWord (position.toNat % r.size * entry)

/-! ## Fetching (R170) -/

def State.fetchAllowed (s : State) : Bool :=
  let c := s.command
  s.running && !s.hrst && !c.stopped && c.c != c.p && c.fetch == .unset && s.profile.command.size != 0 &&
    decide (c.owed < ringFree s.profile.completion s.report.complProd s.report.complCons)

def fetchBegin (s : State) : State :=
  if s.fetchAllowed then { s with command := { s.command with fetch := .waiting } } else s

/-! ## Reads of the bulk clients (R63) -/

/-- A read at an offset below the length of what is read, of at most 8 words. -/
def readAt (base : Word) (length n : Nat) : MemRequest := ownRead (base + natWord (32 * n)) (min 8 ((length - 32 * n) / 4))

def State.commandRead (s : State) : Option (IssueOwner × MemRequest) :=
  if s.command.fetch = .waiting then some (.command, ownRead (ringAddr s.profile.command s.command.c 32) 8) else none

def Engine.length (e : Engine) : Nat :=
  match e.header with
  | none => 32
  | some h => usedLength h.steps

def State.publishReadReq (s : State) : Option (IssueOwner × MemRequest) :=
  match s.recipe.engine with
  | some e => if 32 * e.issued < e.length then some (.publish, readAt e.base e.length e.issued) else none
  | none => none

/-- R99; an abandoned fill presents no further read (R78, log 16). -/
def State.fillRead (s : State) (l : LineNo) : Option (IssueOwner × MemRequest) :=
  match (s.ln l).fill with
  | some f => if !f.streaming ∧ !f.abandoned ∧ 32 * f.issued < f.used then some (.fill l, readAt f.base f.used f.issued) else none
  | none => none

def State.updateRead (s : State) : Option (IssueOwner × MemRequest) :=
  match s.update.verify, s.update.image.staged with
  | some v, some (len, _) =>
    if 32 * v.issued < len then some (.verify, readAt s.imageBase len v.issued) else none
  | _, _ =>
    match s.update.blockReads with
    | b :: _ => some (.block b.slot, ownRead b.addr 8)
    | [] => none

/-- The seven clients in the order of R63. -/
def State.clientRead (s : State) (c : Fin 7) : Option (IssueOwner × MemRequest) :=
  match c with
  | 0 => s.commandRead
  | 1 => s.publishReadReq
  | 2 => s.fillRead 0
  | 3 => s.fillRead 1
  | 4 => s.fillRead 2
  | 5 => s.fillRead 3
  | 6 => s.updateRead

def clientNos : List (Fin 7) := [0, 1, 2, 3, 4, 5, 6]

def State.bulkAsking (s : State) : Bool := clientNos.any (fun c => (s.clientRead c).isSome)

/-- The processor requester asks while the head is REQUESTING. -/
def State.procAsking (s : State) : Bool := s.path.inflight.any (fun e => e.state == .requesting)

/-- R66: a counter is 0 at any moment at which its requester is not asking. -/
def restCounters (s : State) : State :=
  { s with path := { s.path with
      bulkCount := if s.bulkAsking then s.path.bulkCount else 0,
      procCount := if s.procAsking then s.path.procCount else 0 } }

/-! ## The end of an event -/

/-- An event that took `s0` to `s1` ends: counters at rest, newly owed rewrites listed. -/
def finish (s0 s1 : State) : State := oweRewrites s0 (restCounters s1)

/-- An oven to which a cleaning offer and a rollout pick would both lay claim at this event (R4, log 12). -/
def State.claimsClash (s offered picked : State) : Bool :=
  slots.any (fun i => !(s.ent i).offerOut && (offered.ent i).offerOut &&
    (s.ent i).activity == .idle && (picked.ent i).activity == .updating)

/-- R4, R123, R156: offers and picks. Where both would take one oven, which comes first is a free value. -/
def makeClaims (s : State) : State :=
  let offered := makeOffers s
  let picked := makePicks s
  if s.claimsClash offered picked then
    let s1 := { s with freeCount := s.freeCount + 1 }
    if Config.offersFirst s.freeCount then makePicks (makeOffers s1) else makeOffers (makePicks s1)
  else makePicks offered

/-- What becomes possible through an event is done at it: fills register (R98), offers and picks are made (R123, R156), and a
rollout with nothing left ends (R165). -/
def settle (s : State) : State := endRollout (makeClaims (registerAll s))

/-- An event of the part while it is RUNNING, after which no claim can newly succeed. -/
def plainEvent (f : State → State) (s : State) : State := if s.running then finish s (f s) else s

/-- An event of the part while it is RUNNING. -/
def workEvent (f : State → State) (s : State) : State := if s.running then finish s (settle (f s)) else s

end Sys2Proof.Machine
end

