-- ==== Sys2Proof/Machine/Lines.lean ====
section
/-! DEFINITION. The line unit (02): the scheduler, transactions, replies, notices, liveness and the line test. -/

namespace Sys2Proof.Machine

/-! ## The scheduler (R39-R43) -/

/-- A telegram begins its first attempt as the current transaction (R35). -/
def beginTransaction (l : LineNo) (q : Queued) (s : State) : State :=
  s.modLn l fun x =>
    { x with state := .transmit, trans := some { q := q, attempt := 1, damage := false, gone := false }, window := none,
             quiet := none }

/-- R8: the entry enters IDENTIFYING when its IDENT_REQ transaction begins. -/
def identBegins (q : Queued) (s : State) : State :=
  match q.tel, q.target with
  | .identReq, some i => if (s.ent i).state = .assigning then s.modEnt i fun e => { e with state := .identifying } else s
  | _, _ => s

/-- R40: the head of the FIFO leaves, and the oldest waiting offer joins the tail. -/
def takeUrgent (l : LineNo) (q : Queued) (rest : List Queued) (s : State) : State :=
  identBegins q <|
    beginTransaction l q <|
      s.modLn l fun x => { x with urgent := rest ++ x.waiting.take 1, waiting := x.waiting.drop 1 }

/-- The place of a slot in a round that starts at `start` (R42, R43). -/
def roundPos (start i : Slot) : Nat := (i.val + 16 - start.val) % 16

/-- R43 step 4: the first due entry in round-robin order. -/
def firstInRound (start : Slot) (l : List PollEntry) : Option PollEntry :=
  l.foldl (fun best p =>
    match best with
    | none => some p
    | some b => if roundPos start p.slot < roundPos start b.slot then some p else some b) none

/-- R43 step 2: the overdue entry whose last poll began earliest, ties in round-robin order. -/
def earliestOverdue (start : Slot) (l : List PollEntry) : Option PollEntry :=
  let o := l.filter (fun p => p.overdue)
  let first := o.filter (fun p => o.all (fun q => decide (p.begun ≤ q.begun)))
  firstInRound start first

/-- R39, R42: a POLL begins. -/
def beginPoll (l : LineNo) (i : Slot) (s : State) : State :=
  let e := s.ent i
  let q : Queued :=
    { tel := .poll e.toggle, owner := .lineUnit, target := some i, about := none, addr := e.drop, replyAddr := e.drop,
      void := false }
  beginTransaction l q <|
    s.modLn l fun x =>
      { x with rr := i + 1,
               schedule := x.schedule.map fun p =>
                 if p.slot = i then { p with begun := s.now, due := false, overdue := false } else p }

/-- R100: the data bytes of a fill block. -/
def Fill.block (f : Fill) (n : Nat) : List Byte := (f.data.drop (64 * n)).take (min 64 (f.used - 64 * n))

def Fill.lastBlock (f : Fill) (n : Nat) : Bool := decide (f.used ≤ 64 * (n + 1))

/-- R100, R157: the telegram of a stream's next block. -/
def streamTelegram (fill : Option Fill) (x : Stream) : Option Telegram :=
  match x.kind with
  | .image => some (.imageBlock x.next x.data)
  | .fill =>
    match fill with
    | some f =>
      some (.fillBlock f.recipe f.version x.next (f.lastBlock x.next) (if x.next = 0 then f.victim else none)
        (f.block x.next))
    | none => none

/-- R41: a block goes out, and its stream is not ready until its owner says so. -/
def beginBlockTelegram (l : LineNo) (x : Stream) (t : Telegram) (s : State) : State :=
  let e := s.ent x.slot
  beginTransaction l
    { tel := t, owner := if x.kind = .fill then .cache else .update, target := some x.slot, about := none, addr := e.drop,
      replyAddr := e.drop, void := false }
    (modStream l x.kind x.slot (fun y => { y with ready := false }) s)

/-- R43. -/
def scheduleNext (l : LineNo) (s : State) : State :=
  let x := s.ln l
  match x.urgent with
  | q :: rest => takeUrgent l q rest s
  | [] =>
    match earliestOverdue x.rr x.schedule with
    | some p => beginPoll l p.slot s
    | none =>
      match x.streams.find? (fun z => z.ready) with
      | some z =>
        match streamTelegram x.fill z with
        | some t => beginBlockTelegram l z t s
        | none => s
      | none =>
        match firstInRound x.rr (x.schedule.filter (fun p => p.due)) with
        | some p => beginPoll l p.slot s
        | none => s

def schedulerChoice (l : LineNo) (s : State) : State :=
  if (s.ln l).state = .free ∧ (s.ln l).test = .unset then scheduleNext l s else s

def setDue (overdue : Bool) (i : Slot) (s : State) : State :=
  { s with lines := s.lines.map fun x =>
      { x with schedule := x.schedule.map fun p =>
          if p.slot = i then { p with due := true, overdue := p.overdue || overdue } else p } }

/-! ## Liveness (R44) -/

def liveness (i : Slot) (valid : Bool) (s : State) : State :=
  if valid then
    s.modEnt i fun e =>
      { e with failures := 0, late := false, lastReply := some s.report.clock, silence := some s.now }
  else
    let e := s.ent i
    let n := min 3 (e.failures + 1)
    let goesLate := e.state == .inService && e.failures == 2 && !e.late
    let s1 := s.modEnt i fun e => { e with failures := n, late := e.late || goesLate }
    if goesLate then raiseEvent .ovenLate s1 else s1

/-! ## STATUS and notices (R2, R33, R38, R3) -/

/-- R3: the roster hands an accepted notice to its owner. -/
def takeNotice (i : Slot) (n : Notice) (s : State) : State :=
  match n with
  | .startRequest r => startRequest i r s
  | .cleanRequest p => cleanRequest i p s
  | .step t r v k => cookNotice i n t r v (.step k) s
  | .cookEnd t r v o k => cookNotice i n t r v (.ended o k) s
  | .cleanPhase p m q => cleanPhaseNotice i p m q s
  | .cleanEnd o => cleanEndNotice i o s
  | .fault c codes => faultNotice i c codes s
  | .calBusy => calBusyNotice i s
  | .probeResult a b => probeResultNotice i a b s

/-- R38. -/
def acceptNotice (i : Slot) (t : Bool) (n : Notice) (s : State) : State :=
  if (s.ent i).toggle = some t then s else takeNotice i n (s.modEnt i fun e => { e with toggle := some t })

/-- R2, R33: the readings of a STATUS from an oven in a polled state. -/
def takeReadings (i : Slot) (r : StatusReply) (s : State) : State :=
  let e := s.ent i
  if e.state.polled ∨ e.state = .assigning then
    s.modEnt i fun e => { e with readings := some { cabinet := r.cabinet, core := r.core, reported := r.activity } }
  else s

def takeStatus (i : Slot) (r : StatusReply) (s : State) : State :=
  let s1 := resendEvictions i (resendFlush i (takeReadings i r s))
  let s2 := if r.activity = .idle then setIdleWait i false s1 else s1
  match r.notice with
  | some (t, n) => acceptNotice i t n s2
  | none => s2

/-! ## The end of a transaction (R36, R37) -/

def deliverTo (l : LineNo) (q : Queued) (i : Slot) (o : Outcome) (s : State) : State :=
  match q.tel with
  | .poll _ =>
    match o with
    | .valid (.status r) => takeStatus i r s
    | _ => s
  | .identReq => if q.owner = .update then switchIdent i o s else identOutcome i q.void o s
  | .probeCheck => probeCheckOutcome i o s
  | .fillBlock _ _ _ last _ _ => fillBlockOutcome l i last o s
  | .evict r => evictOutcome i r o s
  | .flush => flushOutcome i o s
  | .grant t r v => grantOutcome i t r v o s
  | .start t r v => grantOutcome i t r v o s
  | .abort => if q.owner = .cache then abortOutcome i false o s else rosterAbortOutcome i o s
  | .cleanGo _ _ _ => cleanGoOutcome i o s
  | .imageBlock _ _ => imageBlockOutcome l i o s
  | .switch _ _ => switchOutcome i o s
  | .deny _ => s
  | .assign _ _ => s
  | .confirm _ _ => s
  | .unassign => s

/-- An outcome whose target entry has become VACANT finds no one to act on it, but for an ABORT command's completion and for a
stream to be cleared from the line (R37, R111). -/
def deliverGone (l : LineNo) (q : Queued) (i : Slot) (o : Outcome) (s : State) : State :=
  match q.tel with
  | .abort => if q.owner = .cache then abortOutcome i true o s else s
  | .fillBlock _ _ _ _ _ _ =>
    match s.streamOf l .fill i with
    | some x => if x.drop then endFillStream l i s else s
    | none => s
  | .imageBlock _ _ =>
    match s.streamOf l .image i with
    | some x => if x.drop then removeStream l .image i s else s
    | none => s
  | _ => s

/-- Transactions without a target slot: ASSIGN and CONFIRM go to the roster, the outcome of UNASSIGN to no one (R7, R8). -/
def deliverUntargeted (q : Queued) (o : Outcome) (s : State) : State :=
  match q.tel, q.about with
  | .assign _ _, some i => pairOutcome i o s
  | .confirm _ _, some i => confirmOutcome i o s
  | _, _ => s

def Outcome.isValid : Outcome → Bool
  | .valid _ => true
  | .failed _ => false

/-- R36, R160: liveness first, then the owner, then the SWITCHING oven's identity check. -/
def deliver (l : LineNo) (t : Transaction) (o : Outcome) (s : State) : State :=
  match t.q.target with
  | none => deliverUntargeted t.q o s
  | some i =>
    if t.gone ∨ (s.ent i).state = .vacant then deliverGone l t.q i o s
    else
      let was := (s.ent i).upd.state
      let s1 := deliverTo l t.q i o (liveness i o.isValid s)
      if o.isValid ∧ was = .switching then askIdentity i s1 else s1

/-- R36: the transaction ends; TURNAROUND after a valid reply, FREE otherwise. -/
def endTransaction (l : LineNo) (t : Transaction) (o : Outcome) (s : State) : State :=
  (deliver l t o (s.modLn l fun x => { x with trans := none, window := none, quiet := none })).modLn l fun x =>
    { x with state := if o.isValid then .turnaround else .free }

/-- R35: the next attempt, or the end as FAILED after the third. -/
def attemptEnds (l : LineNo) (t : Transaction) (s : State) : State :=
  if t.attempt < 3 then
    s.modLn l fun x =>
      { x with state := .transmit, trans := some { t with attempt := t.attempt + 1 }, window := none, quiet := none }
  else endTransaction l t (.failed t.damage) s

/-- R35: a damaged reply sends the line into QUIET. -/
def damagedReply (l : LineNo) (t : Transaction) (s : State) : State :=
  s.modLn l fun x =>
    { x with state := .quiet, trans := some { t with damage := true }, window := some s.now, quiet := some s.now }

/-! ## The events of an attempt -/

/-- R26: the end of the last stop bit. -/
def transmitEnd (l : LineNo) (s : State) : State :=
  if (s.ln l).state = .transmit then s.modLn l fun x => { x with state := .listen, window := some s.now } else s

/-- R30: the first accepted start bit begins the reply. -/
def replyStarts (l : LineNo) (s : State) : State :=
  if (s.ln l).state = .listen then s.modLn l fun x => { x with state := .receive, window := none } else s

/-- R30, R31: what has been received so far, judged. -/
def replyReceived (l : LineNo) (chars : List RawChar) (s : State) : State :=
  let x := s.ln l
  if x.state = .listen ∨ x.state = .receive then
    match x.trans with
    | none => s
    | some t =>
      match judgeReply t.q.replyAddr (sampleChars chars) with
      | .incomplete => if (sampleChars chars).isEmpty then s else replyStarts l s
      | .damaged => damagedReply l t s
      | .wellFormed kind payload =>
        match replyTo t.q.tel kind payload with
        | none => damagedReply l t s
        | some r => endTransaction l t (.valid r) s
  else s

/-- R30: a gap beyond two character times inside a reply. -/
def gapExpired (l : LineNo) (s : State) : State :=
  match (s.ln l).state, (s.ln l).trans with
  | .receive, some t => damagedReply l t s
  | _, _ => s

/-- R35: the reply window ends with no accepted start bit. -/
def windowExpired (l : LineNo) (s : State) : State :=
  match (s.ln l).state, (s.ln l).trans with
  | .listen, some t => attemptEnds l t s
  | _, _ => s

/-- R35: an accepted start bit restarts the wait. -/
def quietStart (l : LineNo) (s : State) : State :=
  if (s.ln l).state = .quiet then s.modLn l fun x => { x with window := some s.now } else s

def quietEnd (l : LineNo) (s : State) : State :=
  match (s.ln l).state, (s.ln l).trans with
  | .quiet, some t => attemptEnds l t s
  | _, _ => s

def turnaroundEnd (l : LineNo) (s : State) : State :=
  if (s.ln l).state = .turnaround then s.modLn l fun x => { x with state := .free } else s

/-! ## The line test (R46, R47) -/

def lineTest (tag : Half) (line : Byte) (s : State) : State :=
  let fin := complete tag kindLineTest
  match lineOf line with
  | none => fin .range 0 0 0 s
  | some l =>
    if s.held (.line l) then fin .busy 0 0 0 s
    else if !s.lineEnabled l then fin .disabled 0 0 0 s
    else (startLong kindLineTest tag (.line l) s).modLn l fun x => { x with test := .pending }

def testStart (l : LineNo) (s : State) : State :=
  if (s.ln l).state = .free ∧ (s.ln l).test = .pending then
    s.modLn l fun x => { x with state := .test, test := .running }
  else s

/-- R47: the line leaves TEST and the command completes with the verdict. -/
def testEnds (l : LineNo) (n : Nat) (f : FirstFault) (s : State) : State :=
  endLong (.line l) .done (if f = .none then 1 else 2) (natWord n) (f.code.setWidth 32)
    (s.modLn l fun x => { x with state := .free, test := .unset, window := none })

/-- The looped characters end the test: all 69 have come, or the first fault has. -/
def testHeard (l : LineNo) (chars : List RawChar) (s : State) : State :=
  if (s.ln l).state = .test then
    let r := loopRun testChars (sampleChars chars) 0
    if r.2 ≠ .none ∨ r.1 = testChars.length then testEnds l r.1 r.2 s else s
  else s

/-- The reply window after the last character sent has ended. -/
def testWindow (l : LineNo) (chars : List RawChar) (s : State) : State :=
  if (s.ln l).state = .test then
    let r := loopRun testChars (sampleChars chars) 0
    testEnds l r.1 (if r.2 = .none ∧ r.1 < testChars.length then .missing else r.2) s
  else s

end Sys2Proof.Machine
end

