-- ==== Sys2Proof/Machine/Reports.lean ====
section
/-! DEFINITION. The report writer (09): ring indices written by software, the event acknowledge word, the site clock, and the
serving of the posted-write queue. -/

namespace Sys2Proof.Machine

/-! ## Consumer and producer index words (R168, R169) -/

/-- R167: a ring index is the low half of its CONTROL word (log 9). -/
def indexOf (v : Word) : Half := v.setWidth 16

/-- R168: the written value is no further behind the producer than the ring is long. -/
def consumerOk (r : Ring) (producer v : Half) : Bool := decide (ringDistance producer v ≤ r.size)

def completionConsumerWrite (v : Word) (s : State) : State :=
  if consumerOk s.profile.completion s.report.complProd (indexOf v) then
    fetchBegin { s with report := { s.report with complCons := indexOf v } }
  else raiseEvent .ringError s

def serviceConsumerWrite (v : Word) (s : State) : State :=
  if consumerOk s.profile.service s.report.svcProd (indexOf v) then
    { s with report := { s.report with svcCons := indexOf v } }
  else raiseEvent .ringError s

def journalConsumerWrite (v : Word) (s : State) : State :=
  if consumerOk s.profile.journal s.report.jrnProd (indexOf v) then
    { s with report := { s.report with jrnCons := indexOf v } }
  else raiseEvent .ringError s

/-- R169; a disabled command ring's producer writes are disregarded (R167). -/
def commandProducerWrite (v : Word) (s : State) : State :=
  if s.profile.command.size = 0 then s
  else if ringDistance (indexOf v) s.command.c ≤ s.profile.command.size then
    fetchBegin { s with command := { s.command with stopped := false, p := indexOf v } }
  else raiseEvent .ringError { s with command := { s.command with stopped := true } }

/-! ## The event acknowledge word (R180) -/

def ackedKinds (v : Word) : BitVec 11 := v.setWidth 11

/-- The capture records that FAULT and GUARD clear. -/
def clearCaptures (k : BitVec 11) (p : PathUnit) : PathUnit :=
  let p1 := if k.getLsbD Event.fault.bitNo then
      { p with capFetch := .reset, capReport := .reset, capRecipe := .reset, capImage := .reset }
    else p
  if k.getLsbD Event.guard.bitNo then { p1 with capGuard := .reset } else p1

/-- R68, R179, R180, R181: the capture records that FAULT and GUARD name are cleared, and the named kinds leave the three sets; a
change of the first two makes the summary word owed. -/
def eventAcknowledge (v : Word) (s : State) : State :=
  let k := ackedKinds v
  let s1 := setCaptures (clearCaptures k s.path) s
  let r := s1.report
  let changed := (r.pendingSet &&& k) != 0 || (r.overrunSet &&& k) != 0
  { s1 with
    service := { s.service with dropped := s.service.dropped && !k.getLsbD Event.service.bitNo },
    report := { r with pendingSet := r.pendingSet &&& ~~~k, overrunSet := r.overrunSet &&& ~~~k,
                       signalled := r.signalled &&& ~~~k, summaryRaised := r.summaryRaised || changed } }

/-! ## The site clock (R182) -/

def clockLoad (v : Word) (s : State) : State :=
  { s with report := { s.report with clock := v, clockTimer := some s.now } }

def clockMinute (s : State) : State :=
  if s.report.clockTimer.isSome then
    { s with report := { s.report with
        clock := if s.report.clock = 0 then 0 else if s.report.clock = 0xFFFFFFFF then 1 else s.report.clock + 1,
        clockTimer := some s.now } }
  else s

/-! ## Serving the posted-write queue (R178) -/

inductive Producer where
  | completion (c : Completion)
  | service (c : Call)
  | journal (j : JournalRec)
  | oven (i : Slot)
  | site
  | summary
  deriving DecidableEq, Repr

/-- R139. -/
def State.serviceReady (s : State) : Option Call :=
  if 0 < ringFree s.profile.service s.report.svcProd s.report.svcCons then nextToPost s.service.calls else none

/-- R174. -/
def State.journalReady (s : State) : Option JournalRec :=
  if 0 < ringFree s.profile.journal s.report.jrnProd s.report.jrnCons then s.report.journal.head? else none

/-- R173; a completion needs a free entry of its ring (log 30). -/
def State.completionReady (s : State) : Option Completion :=
  if 0 < ringFree s.profile.completion s.report.complProd s.report.complCons then s.command.completions.head? else none

def RewriteItem.producer : RewriteItem → Producer
  | .oven i => .oven i
  | .site => .site
  | .summary => .summary

/-- The head of the rewrite list, when the queue has room for all its entries. -/
def State.rewriteReady (s : State) : Option Producer :=
  match s.report.rewriteList with
  | [] => none
  | x :: _ => if s.path.posted.length + x.room ≤ Config.postedMax then some x.producer else none

/-- R178: the producer that the report writer serves next. While HRST is asserted it places nothing (R183), but for the own writes
of a start-up that ended under that very assertion, the last of which is its summary word (R186, R189, log 23). -/
def State.served (s : State) : Option Producer :=
  if !s.running ∨ Config.postedMax ≤ s.path.posted.length then none
  else if s.hrst then (if s.startUnderHrst then s.rewriteReady else none)
  else
    (s.completionReady.map .completion).or
      ((s.serviceReady.map .service).or ((s.journalReady.map .journal).or s.rewriteReady))

/-- R173. -/
def postCompletion (c : Completion) (s : State) : State :=
  let s1 := postWrite { addr := ringAddr s.profile.completion s.report.complProd 16, data := c.words, kind := .completion } s
  fetchBegin (raiseEvent .completion
    { s1 with
      report := { s1.report with complProd := s1.report.complProd + 1 },
      command := { s1.command with completions := s1.command.completions.tail, owed := s1.command.owed - 1 } })

/-- R138. -/
def postCall (c : Call) (s : State) : State :=
  let s1 := postWrite { addr := ringAddr s.profile.service s.report.svcProd 32, data := c.words, kind := .service } s
  raiseEvent .service
    { s1 with
      report := { s1.report with svcProd := s1.report.svcProd + 1 },
      service := { s1.service with
        calls := s1.service.calls.map (fun x =>
          if x.hasKey c.source c.cause then { x with state := .posted, postedBefore := true } else x) } }

/-- R174. -/
def postJournal (j : JournalRec) (s : State) : State :=
  let s1 := postWrite { addr := ringAddr s.profile.journal s.report.jrnProd 32, data := j.words, kind := .journal } s
  raiseEvent .journal
    { s1 with report := { s1.report with jrnProd := s1.report.jrnProd + 1, journal := s1.report.journal.tail } }

end Sys2Proof.Machine
end

