-- ==== Sys2Proof/Machine/Path.lean ====
section
/-! DEFINITION. The path unit (03): windows, the in-flight table, the arbiter, issue-time tests, watched words, and the answers
of memory. -/

namespace Sys2Proof.Machine

/-! ## Windows (R52) -/

def Window.has (w : Window) (a : Nat) : Bool := decide (w.base.toNat ≤ a) && decide (a < w.base.toNat + w.size)

end Sys2Proof.Machine

namespace Sys2Proof

/-- The addresses of the words of a burst. -/
def MemRequest.words (r : MemRequest) : List Nat := (List.range r.len).map (fun k => r.addr.toNat + 4 * k)

/-- R52: the burst would run past 0xFFFF_FFFC. -/
def MemRequest.pastTop (r : MemRequest) : Bool := decide (2 ^ 32 < r.addr.toNat + 4 * r.len)

end Sys2Proof

namespace Sys2Proof.Machine

inductive RequestClass where
  | refused
  | plain
  | inside (w : Window)
  deriving DecidableEq, Repr

def State.classify (s : State) (r : MemRequest) : RequestClass :=
  if r.pastTop then .refused
  else if s.mode = .passOnly then .plain
  else
    match s.profile.windows.find? (fun w => w.has r.addr.toNat) with
    | some w => if r.words.all w.has then .inside w else .refused
    | none => if r.words.any (fun a => s.profile.windows.any (fun w => w.has a)) then .refused else .plain

/-- R58: the recipe slot and the position in it that a request at offset o names. -/
def recipeOffset (w : Window) (r : MemRequest) : Nat := r.addr.toNat - w.base.toNat

def spansSlots (w : Window) (r : MemRequest) : Bool :=
  recipeOffset w r / 512 != (recipeOffset w r + 4 * r.len - 4) / 512

def recipeNoOf (w : Window) (r : MemRequest) : RecipeNo :=
  ⟨recipeOffset w r / 512 % 64, Nat.mod_lt _ (by decide)⟩

/-- R58: the address a recipe request is issued at, in the bank given. -/
def State.redirect (s : State) (w : Window) (r : MemRequest) (b : Fin 2) : Word :=
  bankAddr s.storeBase (recipeNoOf w r) b + natWord (recipeOffset w r % 512)

/-- R56: an entry of the posted-write queue writes a word that the read reads. The words of an entry are numbered on from its
address without wrapping: which address the word of a burst beyond 0xFFFF_FFFC names is open, and the model's choice is that no
read reaches it (log 60). -/
def State.covered (s : State) (r : MemRequest) : Bool :=
  s.path.posted.any fun w => (List.range w.data.length).any fun k => r.words.contains (w.addr.toNat + 4 * k)

/-! ## The decision at the head (R53) -/

inductive Decision where
  | answer (good : Bool)
  | hold
  | request
  deriving DecidableEq, Repr

def State.decision (s : State) (r : MemRequest) : Decision :=
  match s.classify r with
  | .refused => .answer false
  | .plain => .request
  | .inside w =>
    match w.cls with
    | .report => if r.write then .answer true else if s.covered r then .hold else .request
    | .recipeLive => if r.write ∨ spansSlots w r then .answer false else .request
    | .recipeDraft => if spansSlots w r then .answer false else .request
    | .recipeStore => .answer false
    | _ => .request

/-- R50, R61: an entry answered without memory, or with memory's status and data. -/
def InFlight.answer (e : InFlight) (good : Bool) (data : List Word) : InFlight :=
  { e with state := .answered, good := good,
           data := if e.req.req.write then [] else if good then data else List.replicate e.req.req.len 0 }

/-- The oldest undecided entry is the head; an entry answered at once makes the next one the head. -/
def decideHeads (s : State) : List InFlight → State × List InFlight
  | [] => (s, [])
  | e :: t =>
    match e.state with
    | .waiting =>
      match s.decision e.req.req with
      | .answer good =>
        let p := decideHeads (raiseGuard e.req.req.addr s) t
        (p.1, e.answer good [] :: p.2)
      | .hold => (s, { e with state := .held } :: t)
      | .request => (s, { e with state := .requesting } :: t)
    | .held => (s, e :: t)
    | .requesting => (s, e :: t)
    | .issued => let p := decideHeads s t; (p.1, e :: p.2)
    | .answered => let p := decideHeads s t; (p.1, e :: p.2)

def InFlight.response (e : InFlight) : Response := { tag := e.req.tag, good := e.good, data := e.data }

/-- R50: while the oldest entry is ANSWERED its response is delivered. -/
def deliverAnswered : List InFlight → List Response × List InFlight
  | [] => ([], [])
  | e :: t =>
    if e.state = .answered then
      let p := deliverAnswered t
      (e.response :: p.1, p.2)
    else ([], e :: t)

/-- The processor side after a change of the table: heads decided, answers delivered. -/
def settlePort (s : State) : State :=
  let p := decideHeads s s.path.inflight
  let d := deliverAnswered p.2
  { p.1 with path := { p.1.path with inflight := d.2, responses := p.1.path.responses ++ d.1 } }

/-- R49. -/
def processorRequest (r : ProcRequest) (s : State) : State :=
  if s.portReady then
    settlePort { s with path := { s.path with
        inflight := s.path.inflight ++ [{ req := r, state := .waiting, good := false, data := [] }] } }
  else s

/-! ## The issue-time test (R53-R60) -/

inductive IssueTest where
  | issue (addr : Word)
  | guard
  | clash
  | hold
  deriving DecidableEq, Repr

def State.issueTest (s : State) (r : MemRequest) : IssueTest :=
  match s.classify r with
  | .refused => .guard
  | .plain => .issue r.addr
  | .inside w =>
    match w.cls with
    | .profile => if r.write ∧ !s.path.profileOpen then .guard else .issue r.addr
    | .report => if s.covered r then .hold else .issue r.addr
    | .recipeLive => .issue (s.redirect w r (s.rslot (recipeNoOf w r)).bank)
    | .recipeDraft =>
      let q := s.rslot (recipeNoOf w r)
      if r.write ∧ q.publish ≠ .idle then .clash else .issue (s.redirect w r (otherBank q.bank))
    | .recipeStore => .guard
    | .image => if r.write ∧ s.update.image.state.closed then .clash else .issue r.addr
    | _ => .issue r.addr

/-- R55: what a watched word, by its place in the profile's list, does with the value written to it. -/
def watchedWrite (k : Nat) (v : Word) (s : State) : State :=
  match k with
  | 0 => commandProducerWrite v s
  | 1 => completionConsumerWrite v s
  | 2 => serviceConsumerWrite v s
  | 3 => journalConsumerWrite v s
  | 4 => eventAcknowledge v s
  | 5 => clockLoad v s
  | _ => s

def State.controlBase (s : State) : Nat :=
  match s.profile.windows.find? (fun w => w.cls == .control) with
  | some w => w.base.toNat
  | none => 0

/-- The place of the watched word at an address. -/
def State.watchedAt (s : State) (a : Nat) : Option Nat :=
  (s.profile.watched.map (fun o => s.controlBase + o.toNat)).findIdx? (fun b => b == a)

/-- R55: one word of a CONTROL write. -/
def watchOne (s : State) (p : Nat × Word × BitVec 4) : State :=
  match s.watchedAt p.1 with
  | some k => if p.2.2 = 0xF then watchedWrite k p.2.1 s else s
  | none => s

def MemRequest.writtenWords (r : MemRequest) : List (Nat × Word × BitVec 4) := r.words.zip (r.data.zip r.enables)

/-- What the owners of a window learn of a write at its issue (R55, R59, R60). -/
def watchIssue (r : MemRequest) (s : State) : State :=
  match s.classify r with
  | .inside w =>
    if !r.write then s
    else
      match w.cls with
      | .control => (MemRequest.writtenWords r).foldl watchOne s
      | .recipeDraft => if r.enables.any (fun e => e != 0) then draftWritten (recipeNoOf w r) s else s
      | .image => s.modImage fun m => m.takeWrite (recipeOffset w r) r.data r.enables
      | _ => s
  | _ => s

/-! ## The arbiter (R63-R66) -/

inductive Requester where
  | proc | posted | bulk
  deriving DecidableEq, Repr

def State.asking (s : State) : Requester → Bool
  | .proc => s.procAsking
  | .posted => !s.path.posted.isEmpty
  | .bulk => s.bulkAsking

/-- R64: the order of the mode. -/
def ArbMode.order : ArbMode → List Requester
  | .normal => [.proc, .posted, .bulk]
  | .drain => [.posted, .proc, .bulk]

/-- R66: a due requester first, bulk before the processor. -/
def State.grantOrder (s : State) : List Requester :=
  (if Config.starvedMax ≤ s.path.bulkCount then [.bulk] else []) ++
    (if Config.starvedMax ≤ s.path.procCount then [.proc] else []) ++ s.path.arbMode.order

def State.chosen (s : State) : Option Requester := s.grantOrder.find? s.asking

def bump (asking : Bool) (n : Nat) : Nat := if asking then min Config.starvedMax (n + 1) else n

def mapHead (f : InFlight → InFlight) : List InFlight → List InFlight
  | [] => []
  | e :: t => if e.state = .requesting then f e :: t else e :: mapHead f t

def State.modInflight (s : State) (f : List InFlight → List InFlight) : State :=
  { s with path := { s.path with inflight := f s.path.inflight } }

/-- R56: a HELD head is tested again when a posted entry leaves the queue. -/
def retestHeld (s : State) : State :=
  s.modInflight fun l => l.map fun e =>
    if e.state = .held ∧ !s.covered e.req.req then { e with state := .requesting } else e

/-- R181: the signalled set at the issue of a summary word. -/
def signalSummary (w : PostedWrite) (s : State) : State :=
  if w.kind = .summary ∧ s.running ∧ !s.hrst then
    { s with report := { s.report with signalled := (w.data.headD 0).setWidth 11 } }
  else s

/-- R189, R190: start-up's summary word has left the queue, and the port opens. -/
def openPort (w : PostedWrite) (s : State) : State :=
  if w.kind = .summary ∧ s.startWrites then
    { s with startWrites := false, path := { s.path with portOpen := true } }
  else s

/-- A grant to the posted requester (R62, R65, R66). `counted`: the processor requester was asking. -/
def grantPosted (counted : Bool) (s : State) : State :=
  match s.path.posted with
  | [] => s
  | w :: rest =>
    let p := { s.path with
      posted := rest,
      arbMode := if rest.length ≤ Config.drainLeave then .normal else s.path.arbMode,
      bulkCount := bump s.bulkAsking s.path.bulkCount,
      procCount := bump counted s.path.procCount }
    let r : MemRequest :=
      { write := true, addr := w.addr, len := w.data.length, data := w.data, enables := List.replicate w.data.length 0xF }
    settlePort (retestHeld (openPort w (signalSummary w (issueRequest (.posted w.kind) r { s with path := p }))))

/-- R63: the first waiting client in the round. -/
def State.bulkChoice (s : State) : Option (Fin 7) :=
  (clientNos.map (fun c => s.path.bulkNext + c)).find? (fun c => (s.clientRead c).isSome)

/-- The client's read is issued, so that it may present its next one (R63). -/
def clientIssued (o : IssueOwner) (s : State) : State :=
  match o with
  | .command => { s with command := { s.command with fetch := .issued } }
  | .publish =>
    { s with recipe := { s.recipe with engine := s.recipe.engine.map (fun e => { e with issued := e.issued + 1 }) } }
  | .fill l => s.modLn l fun x => { x with fill := x.fill.map (fun f => { f with issued := f.issued + 1 }) }
  | .verify =>
    { s with update := { s.update with verify := s.update.verify.map (fun v => { v with issued := v.issued + 1 }) } }
  | .block _ => { s with update := { s.update with blockReads := s.update.blockReads.tail } }
  | _ => s

/-- A grant to the bulk requester. -/
def grantBulk (counted : Bool) (s : State) : State :=
  match s.bulkChoice with
  | none => s
  | some c =>
    match s.clientRead c with
    | none => s
    | some (o, r) =>
      issueRequest o r (clientIssued o
        { s with path := { s.path with
            bulkNext := c + 1, bulkCount := 0, procCount := bump counted s.path.procCount } })

/-- R53, R64: after a refusal or a hold the arbiter chooses again as if the processor requester had not been asking. A head that
has become HELD, or a table with no undecided entry left, has set the processor counter to 0 by then (R66). -/
def grantOther (s : State) : State :=
  let s1 := restCounters s
  if s1.path.posted.isEmpty then grantBulk false s1 else grantPosted false s1

/-- A grant to the processor requester, turned by its issue-time test into an issue, a refusal or a hold (R53). -/
def grantProc (s : State) : State :=
  match s.path.inflight.find? (fun e => e.state == .requesting) with
  | none => s
  | some e =>
    let r := e.req.req
    let refused (k : Event) : State :=
      let s1 := s.modInflight (mapHead fun e => e.answer false [])
      grantOther (settlePort (if k = .guard then raiseGuard r.addr s1 else raiseEvent k s1))
    match s.issueTest r with
    | .issue a =>
      let s1 := { s with path := { s.path with
          bulkCount := bump s.bulkAsking s.path.bulkCount, procCount := 0,
          inflight := mapHead (fun e => { e with state := .issued }) s.path.inflight } }
      settlePort (watchIssue r (issueRequest .processor { r with addr := a } s1))
    | .hold => grantOther (s.modInflight (mapHead fun e => { e with state := .held }))
    | .guard => refused .guard
    | .clash => refused .clash

/-- R64: one grant, while the memory port has room and a requester asks. -/
def arbiterGrant (s : State) : State :=
  if Config.issuedMax ≤ s.path.issued.length then s
  else
    match s.chosen with
    | none => s
    | some .proc => grantProc s
    | some .posted => grantPosted s.procAsking s
    | some .bulk => grantBulk s.procAsking s

/-! ## Memory's answers (R51, R67) -/

/-- The words an answer OK carries. -/
def MemRequest.answerLen (r : MemRequest) : Nat := if r.write then 0 else r.len

def offerOf (q : Issued) (s : State) : State :=
  match q.owner.captureOf with
  | some k => offerFault k q.req.addr s
  | none => s

/-- An answer belongs to the oldest issued request, and is taken when that request is one of `own`'s (log 7). Requests issued
before a part reset are older than all that have been issued since, and their answers do nothing (R69, log 50). An ERROR answering
one of the part's own requests is offered to its capture record; a disregarded answer goes no further (R67, R70). `take` is
given the words, or none for ERROR. -/
def takeAnswer (own : IssueOwner → Bool) (a : MemAnswer) (take : Issued → Option (List Word) → State → State) (s : State) :
    Result :=
  match s.oldIssued, s.path.issued with
  | q :: rest, _ => .next (if own q.owner then { s with oldIssued := rest } else s)
  | [], [] => .next s
  | [], q :: rest =>
    if !own q.owner then .next s
    else
      let s1 := { s with path := { s.path with issued := rest } }
      match a with
      | .error =>
        let s2 := offerOf q s1
        .next (finish s (if q.disregard then s2 else take q none s2))
      | .ok data =>
        if q.disregard then .next (finish s s1)
        else if data.length = MemRequest.answerLen q.req then .next (finish s (take q (some data) s1))
        else .fault .answerShape

def markAnswered (data : Option (List Word)) : List InFlight → List InFlight
  | [] => []
  | e :: t =>
    if e.state = .issued then e.answer data.isSome (data.getD []) :: t else e :: markAnswered data t

/-- R51: the in-flight entry moves to ANSWERED. -/
def processorAnswer (data : Option (List Word)) (s : State) : State := settlePort (s.modInflight (markAnswered data))

/-- R134: MEMORY_FAULT for each posted write answered ERROR. -/
def postedAnswer (q : Issued) (data : Option (List Word)) (s : State) : State :=
  match data, q.owner with
  | none, .posted k => raiseCall .site .memoryFault .urgent [q.req.addr, k.code.setWidth 32] s
  | _, _ => s

/-- Claims and registrations follow an answer to a bulk read in RUNNING. -/
def settled (f : State → State) (s : State) : State := if s.running then settle (f s) else f s

end Sys2Proof.Machine
end

