-- ==== Sys2Proof/Machine/Software.lean ====
section
/-! DEFINITION. The command unit (09 §9.2): routing a taken command to its owner, the rows of the eighteen software commands, and
the command fetch answer. -/

namespace Sys2Proof.Machine

/-- R191. -/
def openProfile (tag : Half) (s : State) : State :=
  let fin := complete tag kindOpenProfile
  if s.update.rollout.state = .active ∨ s.update.image.state = .verifying then fin .busy 0 0 0 s
  else
    fin .done ((bit s.path.profileOpen).setWidth 32) 0 0 { s with path := { s.path with profileOpen := true } }

/-- R171, R194: a command record decoded and handed to its owner; a kind that names no command completes RANGE with the kind as
read. Commands after which a claim may succeed or a rollout may end are followed by `settle`. -/
def route (b : List Byte) (s : State) : State :=
  let tag := halfAt b 0
  let b4 := byteAt b 4
  let b5 := byteAt b 5
  let b6 := byteAt b 6
  match (byteAt b 2).toNat with
  | 0x01 => commission tag b4 b5 b6 (wordAt b 8) (halfAt b 12) (halfAt b 14) s
  | 0x02 =>
    restore tag b4 b5 b6 (wordAt b 8)
      { refLow := halfAt b 12, refHigh := halfAt b 14, rawLow := halfAt b 16, rawHigh := halfAt b 18 } (wordAt b 20) s
  | 0x03 => settle (recalibrate tag b4 (halfAt b 12) (halfAt b 14) s)
  | 0x04 => settle (retire tag b4 s)
  | 0x05 => release tag b4 s
  | 0x10 => lineTest tag b4 s
  | 0x20 => publish tag b4 s
  | 0x21 => withdraw tag b4 s
  | 0x30 => settle (cook tag b4 b5 s)
  | 0x31 => abortCommand tag b4 s
  | 0x40 => settle (clean tag b4 b5 s)
  | 0x41 => cancelClean tag b4 s
  | 0x50 => ackCall tag b4 b5 s
  | 0x51 => closeCall tag b4 b5 s
  | 0x60 => stageClose tag (wordAt b 8) (wordAt b 12) s
  | 0x61 => settle (rollout tag (halfAt b 8) b5 s)
  | 0x62 => settle (rolloutHalt tag s)
  | 0x70 => openProfile tag s
  | _ => complete tag (byteAt b 2) .range 0 0 0 s

/-- R170: a taken command owes one completion. -/
def oweCompletion (s : State) : State := { s with command := { s.command with owed := s.command.owed + 1 } }

/-- The row of a software command: the command is taken and its owner acts at the same event (R170, R171, log 1). Commands are
taken in RUNNING, while HRST is not asserted (R170, R183). -/
def commandRow (f : State → State) (s : State) : State :=
  if s.running && !s.hrst then finish s (f (oweCompletion s)) else s

/-- R170: the answer to a command fetch. -/
def fetchAnswer (data : Option (List Word)) (s : State) : State :=
  match data with
  | none => { s with command := { s.command with stopped := true, fetch := .unset } }
  | some ws =>
    let s1 := oweCompletion { s with command := { s.command with c := s.command.c + 1, fetch := .unset } }
    fetchBegin (route (bytesOf ws) s1)

def execCommandFetchAnswer (a : MemAnswer) (s : State) : Result :=
  takeAnswer (fun o => o == .command) a (fun _ d s => fetchAnswer d s) s

def execCommission (tag : Half) (slot line drop : Byte) (serial : Word) (refLow refHigh : Half) (s : State) : Result :=
  .next (commandRow (commission tag slot line drop serial refLow refHigh) s)

def execRestore (tag : Half) (slot line drop : Byte) (serial : Word) (refLow refHigh rawLow rawHigh : Half)
    (minutes : Word) (s : State) : Result :=
  .next (commandRow (restore tag slot line drop serial
    { refLow := refLow, refHigh := refHigh, rawLow := rawLow, rawHigh := rawHigh } minutes) s)

def execRecalibrate (tag : Half) (slot : Byte) (refLow refHigh : Half) (s : State) : Result :=
  .next (commandRow (fun s => settle (recalibrate tag slot refLow refHigh s)) s)

/-- R17; RETIRE's completion stands before that of a rollout whose last open target it skips (R165, log 56). -/
def execRetire (tag : Half) (slot : Byte) (s : State) : Result := .next (commandRow (fun s => settle (retire tag slot s)) s)

def execRelease (tag : Half) (slot : Byte) (s : State) : Result := .next (commandRow (release tag slot) s)

def execLineTest (tag : Half) (line : Byte) (s : State) : Result := .next (commandRow (lineTest tag line) s)

def execPublish (tag : Half) (recipe : Byte) (s : State) : Result := .next (commandRow (publish tag recipe) s)

def execWithdraw (tag : Half) (recipe : Byte) (s : State) : Result := .next (commandRow (withdraw tag recipe) s)

def execCook (tag : Half) (oven recipe : Byte) (s : State) : Result := .next (commandRow (fun s => settle (cook tag oven recipe s)) s)

def execAbort (tag : Half) (oven : Byte) (s : State) : Result := .next (commandRow (abortCommand tag oven) s)

def execClean (tag : Half) (oven program : Byte) (s : State) : Result := .next (commandRow (fun s => settle (clean tag oven program s)) s)

def execCancelClean (tag : Half) (oven : Byte) (s : State) : Result := .next (commandRow (cancelClean tag oven) s)

def execAckCall (tag : Half) (source cause : Byte) (s : State) : Result := .next (commandRow (ackCall tag source cause) s)

def execCloseCall (tag : Half) (source cause : Byte) (s : State) : Result :=
  .next (commandRow (closeCall tag source cause) s)

def execStageClose (tag : Half) (length check : Word) (s : State) : Result :=
  .next (commandRow (stageClose tag length check) s)

def execRollout (tag mask : Half) (downgrade : Byte) (s : State) : Result :=
  .next (commandRow (fun s => settle (rollout tag mask downgrade s)) s)

def execRolloutHalt (tag : Half) (s : State) : Result := .next (commandRow (fun s => settle (rolloutHalt tag s)) s)

def execOpenProfile (tag : Half) (s : State) : Result := .next (commandRow (openProfile tag) s)

end Sys2Proof.Machine
end

