-- ==== Sys2Proof/Machine/Events.lean ====
section
/-! DEFINITION. The rows of the memory path, of the watched words, of the report writer, of the lines and of the timers. -/

namespace Sys2Proof.Machine

/-- RUNNING or PASS_ONLY: the path unit serves the processor port and the posted-write queue. -/
def State.serving (s : State) : Bool := s.mode == .running || s.mode == .passOnly

/-! ## The memory path -/

def execProcessorRequest (r : ProcRequest) (s : State) : Result :=
  if !r.req.wf then .refused .requestShape else .next (finish s (processorRequest r s))

def execArbiterGrant (s : State) : Result := .next (if s.serving then finish s (arbiterGrant s) else s)

def execProcessorAnswer (a : MemAnswer) (s : State) : Result :=
  takeAnswer (fun o => o == .processor) a (fun _ d s => processorAnswer d s) s

def IssueOwner.isPosted : IssueOwner → Bool
  | .posted _ => true
  | _ => false

def IssueOwner.isBlock : IssueOwner → Bool
  | .block _ => true
  | _ => false

def execPostedWriteAnswer (a : MemAnswer) (s : State) : Result := takeAnswer IssueOwner.isPosted a postedAnswer s

def execPublishReadAnswer (a : MemAnswer) (s : State) : Result :=
  takeAnswer (fun o => o == .publish) a (fun _ d s => settled (publishAnswer d) s) s

def execFillReadAnswer (l : LineNo) (a : MemAnswer) (s : State) : Result :=
  takeAnswer (fun o => o == .fill l) a (fun _ d s => settled (fillAnswer l d) s) s

def execVerifyReadAnswer (a : MemAnswer) (s : State) : Result :=
  takeAnswer (fun o => o == .verify) a (fun _ d s => settled (verifyAnswer d) s) s

/-- The row carries no oven: the oven is the one whose block the oldest issued request reads. -/
def blockTaken (q : Issued) (d : Option (List Word)) (s : State) : State :=
  match q.owner with
  | .block i => settled (blockAnswer i d) s
  | _ => s

def execImageBlockReadAnswer (a : MemAnswer) (s : State) : Result := takeAnswer IssueOwner.isBlock a blockTaken s

/-! ## The watched words -/

/-- A watched word's write, taken in RUNNING while HRST is not asserted (R55, R70). -/
def watchRow (f : State → State) (s : State) : State := if s.running && !s.hrst then finish s (f s) else s

def execCommandProducerIndexWrite (v : Word) (s : State) : Result := .next (watchRow (commandProducerWrite v) s)

def execCompletionConsumerIndexWrite (v : Word) (s : State) : Result := .next (watchRow (completionConsumerWrite v) s)

def execServiceConsumerIndexWrite (v : Word) (s : State) : Result := .next (watchRow (serviceConsumerWrite v) s)

def execJournalConsumerIndexWrite (v : Word) (s : State) : Result := .next (watchRow (journalConsumerWrite v) s)

def execEventAcknowledgeWrite (v : Word) (s : State) : Result := .next (watchRow (eventAcknowledge v) s)

def execSiteClockLoadWrite (v : Word) (s : State) : Result := .next (watchRow (clockLoad v) s)

/-! ## The report writer -/

def execCompletionPost (s : State) : Result :=
  .next (match s.served with
    | some (.completion c) => finish s (postCompletion c s)
    | _ => s)

def execServicePosting (s : State) : Result :=
  .next (match s.served with
    | some (.service c) => finish s (postCall c s)
    | _ => s)

def execJournalRecordWrite (s : State) : Result :=
  .next (match s.served with
    | some (.journal j) => finish s (postJournal j s)
    | _ => s)

def execMirrorRewrite (s : State) : Result :=
  .next (match s.served with
    | some (.oven i) => finish s (postOven i s)
    | some .site => finish s (postSite s)
    | _ => s)

def execEventSummaryWrite (s : State) : Result :=
  .next (match s.served with
    | some .summary => finish s (postSummary s)
    | _ => s)

def execSiteClockMinuteExpiry (s : State) : Result :=
  .next (if s.running then finish s (clockMinute s) else s)

/-! ## The lines -/

def execSchedulerChoice (l : LineNo) (s : State) : Result := .next (plainEvent (schedulerChoice l) s)

def execTransmitEnd (l : LineNo) (s : State) : Result := .next (plainEvent (transmitEnd l) s)

def execReplyReceived (l : LineNo) (chars : List RawChar) (s : State) : Result := .next (workEvent (replyReceived l chars) s)

def execReplyWindowExpiry (l : LineNo) (s : State) : Result := .next (workEvent (windowExpired l) s)

def execQuietEnd (l : LineNo) (s : State) : Result := .next (workEvent (quietEnd l) s)

def execTurnaroundEnd (l : LineNo) (s : State) : Result := .next (plainEvent (turnaroundEnd l) s)

def execPollDue (i : Slot) (s : State) : Result := .next (plainEvent (setDue false i) s)

def execPollOverdue (i : Slot) (s : State) : Result := .next (plainEvent (setDue true i) s)

def execReplyStartBitAccepted (l : LineNo) (s : State) : Result := .next (plainEvent (replyStarts l) s)

def execQuietStartBitAccepted (l : LineNo) (s : State) : Result := .next (plainEvent (quietStart l) s)

def execCharacterGapLimitExpiry (l : LineNo) (s : State) : Result := .next (plainEvent (gapExpired l) s)

def execLineTestStart (l : LineNo) (s : State) : Result := .next (plainEvent (testStart l) s)

def execLineTestLoopbackEnd (l : LineNo) (chars : List RawChar) (s : State) : Result :=
  .next (plainEvent (testHeard l chars) s)

def execLineTestWindowExpiry (l : LineNo) (chars : List RawChar) (s : State) : Result :=
  .next (plainEvent (testWindow l chars) s)

/-! ## The timers -/

/-- An expiry is taken while its timer runs (log 3). -/
def whenRunning (t : Timer) (f : State → State) (s : State) : State := if t.isSome then f s else s

def execSilenceTimerExpiry (i : Slot) (s : State) : Result :=
  .next (workEvent (whenRunning (s.ent i).silence (silenceExpired i)) s)

def execIdentResendExpiry (i : Slot) (s : State) : Result :=
  .next (workEvent (whenRunning (s.ent i).identResend (identResendExpired i)) s)

/-- R10: the calibration limit. -/
def calLimitExpired (i : Slot) (s : State) : State :=
  if (s.ent i).state = .calibrating then calFail i none .limit s else s

def execCalibrationLimitExpiry (i : Slot) (s : State) : Result :=
  .next (workEvent (whenRunning (s.ent i).calLimit (calLimitExpired i)) s)

/-- R113: the minute timer restarts at each expiry. -/
def hygieneMinute (s : State) : State :=
  accrueAll { s with hygiene := { s.hygiene with minute := some s.now } }

def execHygieneMinuteExpiry (s : State) : Result :=
  .next (workEvent (whenRunning s.hygiene.minute hygieneMinute) s)

def execRequeueTimerExpiry (i : Slot) (s : State) : Result :=
  .next (workEvent (whenRunning (s.ent i).requeue (requeueExpired i)) s)

/-- R161: taken while the oven is SWITCHING. -/
def switchLimitExpired (i : Slot) (s : State) : State :=
  if (s.ent i).upd.state = .switching then switchExpired i s else s

def execSwitchLimitExpiry (i : Slot) (s : State) : Result :=
  .next (workEvent (whenRunning (s.ent i).upd.limit (switchLimitExpired i)) s)

end Sys2Proof.Machine
end

