-- ==== Sys2Proof/Machine/StartUp.lean ====
section
/-! DEFINITION. Start-up (10): reading and judging the site profile, RUNNING and PASS_ONLY, and the rows of RESET, HRST and the
profile reads. -/

namespace Sys2Proof.Machine

/-! ## The fields of the record (11 §11.3) -/

def profWindowClass (b : List Byte) (k : Nat) : Byte := byteAt b (8 + 12 * k + 8)
def profWindowBase (b : List Byte) (k : Nat) : Nat := (wordAt b (8 + 12 * k)).toNat
def profWindowSize (b : List Byte) (k : Nat) : Nat := (wordAt b (8 + 12 * k + 4)).toNat

/-- R194: an unused entry has class 0. -/
def profUsed (b : List Byte) (k : Nat) : Bool := profWindowClass b k != 0

def windowNos : List Nat := [0, 1, 2, 3, 4, 5, 6, 7, 8, 9, 10, 11]

/-- Two areas overlap. -/
def overlaps (a n b m : Nat) : Bool := decide (0 < n) && decide (0 < m) && decide (a < b + m) && decide (b < a + n)

def profWindow (b : List Byte) (k : Nat) : Option Window :=
  match windowClassOf (profWindowClass b k) with
  | none => none
  | some .unused => none
  | some c => some { cls := c, base := wordAt b (8 + 12 * k), size := profWindowSize b k }

/-- The used windows of known classes, in table order. -/
def profWindows (b : List Byte) : List Window := windowNos.filterMap (profWindow b)

def profRing (b : List Byte) (k : Nat) : Ring := { base := wordAt b (152 + 8 * k), size := (halfAt b (156 + 8 * k)).toNat }

/-- The entry sizes of the command, completion, service and journal rings (09 §9.1). -/
def ringEntry (k : Nat) : Nat := if k = 1 then 16 else 32

def Ring.area (r : Ring) (entry : Nat) : Nat := r.size * entry

def profMirror (b : List Byte) : Word := wordAt b 184
def profSummary (b : List Byte) : Word := wordAt b 188
def profWatched (b : List Byte) : List Word := [0, 1, 2, 3, 4, 5].map (fun k => wordAt b (192 + 4 * k))

def rateOf (b : Byte) : Option Rate :=
  match b.toNat with
  | 1 => some .r62500 | 2 => some .r125000 | 3 => some .r250000 | _ => none

/-- A line's rate when it is enabled. -/
def profLine (b : List Byte) (k : Nat) : Option Rate :=
  if byteAt b (220 + 2 * k) = 1 then rateOf (byteAt b (221 + 2 * k)) else none

/-- R189 step 1: the record's values. -/
def profileOf (b : List Byte) : Profile :=
  { windows := profWindows b, command := profRing b 0, completion := profRing b 1, service := profRing b 2,
    journal := profRing b 3, mirror := profMirror b, summary := profSummary b, watched := profWatched b,
    mask := (wordAt b 216).setWidth 11, lines := #v[profLine b 0, profLine b 1, profLine b 2, profLine b 3],
    replyWindow := (byteAt b 228).toNat, pollPeriod := (byteAt b 229).toNat, silenceLimit := (halfAt b 230).toNat,
    switchLimit := (halfAt b 232).toNat, calLimit := (halfAt b 234).toNat, tolZero := (byteAt b 236).toNat,
    tolSpan := (byteAt b 237).toNat, tDue := (halfAt b 238).toNat, tOver := (halfAt b 240).toNat,
    holdTemp := (halfAt b 242).toNat, holdSecs := (halfAt b 244).toNat, maxCleaning := (byteAt b 246).toNat,
    requeue := (byteAt b 247).toNat, classes := halfAt b 248, updates := byteAt b 250 == 1,
    autoClean := byteAt b 251 == 1 }

/-! ## The tests of R188: each gives the byte offsets of the fields that break it -/

def failIf (c : Bool) (off : Nat) : List Nat := if c then [off] else []

/-- The size a window's class demands. -/
def windowSizeOk (c : Byte) (size : Nat) : Bool :=
  match windowClassOf c with
  | some .recipeLive => size == 32768
  | some .recipeDraft => size == 32768
  | some .recipeStore => size == 65536
  | some .image => decide (size ≤ 1048576)
  | _ => true

/-- Test 4, one entry; an overlap is a fault of the later window's base (log 22). -/
def windowFaults (b : List Byte) (k : Nat) : List Nat :=
  let base := profWindowBase b k
  let size := profWindowSize b k
  let off := 8 + 12 * k
  if !profUsed b k then []
  else
    failIf (base % 4096 != 0 || (List.range k).any (fun j => profUsed b j &&
      overlaps (profWindowBase b j) (profWindowSize b j) base size)) off ++
    failIf (size == 0 || size % 4096 != 0 || decide (2 ^ 32 < base + size) ||
      !windowSizeOk (profWindowClass b k) size) (off + 4) ++
    failIf (windowClassOf (profWindowClass b k)).isNone (off + 8)

/-- The places of the windows of a class. -/
def windowsOfClass (b : List Byte) (c : Byte) : List Nat := windowNos.filter (fun k => profWindowClass b k == c)

/-- A class of which there is one window too many: its class field. -/
def extraWindow (b : List Byte) (c : Byte) : List Nat :=
  match windowsOfClass b c with
  | _ :: k :: _ => [8 + 12 * k + 8]
  | _ => []

/-- Test 5; a missing window is a fault of the table's first byte (log 22). -/
def windowSetFaults (b : List Byte) (addr : Word) : List Nat :=
  let has := fun c => !(windowsOfClass b c).isEmpty
  failIf (!has 1 || !has 2 || !((has 4 && has 5 && has 6) || (!has 4 && !has 5 && !has 6))) 8 ++
  [1, 4, 5, 6, 7].flatMap (extraWindow b) ++
  (windowsOfClass b 1).flatMap (fun k => failIf (!(decide (profWindowBase b k ≤ addr.toNat) &&
    decide (addr.toNat + 512 ≤ profWindowBase b k + profWindowSize b k))) (8 + 12 * k))

/-- The CONTROL window with the lowest table entry number: its base and size. -/
def controlArea (b : List Byte) : Nat × Nat :=
  match windowsOfClass b 2 with
  | k :: _ => (profWindowBase b k, profWindowSize b k)
  | [] => (0, 0)

def watchedOffset (b : List Byte) (k : Nat) : Nat := (wordAt b (192 + 4 * k)).toNat

/-- Test 6. -/
def controlFaults (b : List Byte) : List Nat :=
  [0, 1, 2, 3, 4, 5].flatMap fun k =>
    failIf (watchedOffset b k % 4 != 0 || decide ((controlArea b).2 < watchedOffset b k + 4) ||
      (List.range k).any (fun j => watchedOffset b j == watchedOffset b k)) (192 + 4 * k)

def ringSizeOk (n : Nat) : Bool := [0, 4, 8, 16, 32, 64, 128, 256].contains n

/-- Test 7. -/
def ringFaults (b : List Byte) : List Nat :=
  [0, 1, 2, 3].flatMap fun k =>
    let r := profRing b k
    failIf (r.size != 0 && r.base.toNat % ringEntry k != 0) (152 + 8 * k) ++
    failIf (!ringSizeOk r.size || (r.size != 0 && decide (2 ^ 32 < r.base.toNat + r.area (ringEntry k)))) (156 + 8 * k)

/-- The windows that the part's own areas must lie outside (test 8): codes 1, 4, 5, 6 and 7. -/
def inClosedWindow (b : List Byte) (a n : Nat) : Bool :=
  windowNos.any fun k => [1, 4, 5, 6, 7].contains (profWindowClass b k).toNat &&
    overlaps (profWindowBase b k) (profWindowSize b k) a n

def inReportWindow (b : List Byte) (a n : Nat) : Bool :=
  windowNos.any fun k => profWindowClass b k == 3 && overlaps (profWindowBase b k) (profWindowSize b k) a n

/-- A report area: the offset of the field that places it, its base and its length. -/
abbrev Area := Nat × Nat × Nat

def ringAreaOf (b : List Byte) (k : Nat) : Area :=
  (152 + 8 * k, (profRing b k).base.toNat, (profRing b k).area (ringEntry k))

def mirrorArea (b : List Byte) : Area := (184, (profMirror b).toNat, 1152)
def summaryArea (b : List Byte) : Area := (188, (profSummary b).toNat, 4)

/-- The areas the part writes, in record order. -/
def writtenAreas (b : List Byte) : List Area :=
  [ringAreaOf b 1, ringAreaOf b 2, ringAreaOf b 3, mirrorArea b, summaryArea b]

def areasMeet (x y : Area) : Bool := overlaps x.2.1 x.2.2 y.2.1 y.2.2

def alignFaults (b : List Byte) : List Nat :=
  failIf ((profMirror b).toNat % 64 != 0) 184 ++ failIf ((profSummary b).toNat % 4 != 0) 188

/-- Test 8 for the areas given: outside the closed windows, and over no watched word (a fault of the word's field). -/
def placeFaults (b : List Byte) (l : List Area) : List Nat :=
  l.flatMap (fun x => failIf (inClosedWindow b x.2.1 x.2.2) x.1) ++
  [0, 1, 2, 3, 4, 5].flatMap (fun k =>
    failIf (l.any (fun x => overlaps x.2.1 x.2.2 ((controlArea b).1 + watchedOffset b k) 4)) (192 + 4 * k))

/-- Overlaps of each area of `l` with the areas before it in record order: a fault of the later field. -/
def meetFaults : List Area → List Area → List Nat
  | _, [] => []
  | before, x :: t => failIf (before.any (areasMeet x)) x.1 ++ meetFaults (before ++ [x]) t

/-- Test 8. The mirror area is judged without wrap-around past the top of memory (log 57). -/
def reportAreaFaults (b : List Byte) : List Nat :=
  let cmd := ringAreaOf b 0
  failIf (inClosedWindow b cmd.2.1 cmd.2.2 || inReportWindow b cmd.2.1 cmd.2.2) 152 ++
  alignFaults b ++ placeFaults b (writtenAreas b) ++ meetFaults [cmd] (writtenAreas b)

/-- Test 10. -/
def lineFaults (b : List Byte) : List Nat :=
  [0, 1, 2, 3].flatMap fun k =>
    failIf (decide (1 < (byteAt b (220 + 2 * k)).toNat)) (220 + 2 * k) ++
    failIf (byteAt b (220 + 2 * k) == 1 && (rateOf (byteAt b (221 + 2 * k))).isNone) (221 + 2 * k)

/-- Tests 11 to 13: a field and its range. -/
def rangeFault (n lo hi off : Nat) : List Nat := failIf (!inRange lo n hi) off

def timingFaults (b : List Byte) : List Nat :=
  rangeFault (byteAt b 228).toNat 2 20 228 ++ rangeFault (byteAt b 229).toNat 5 50 229 ++
  rangeFault (halfAt b 230).toNat 10 120 230 ++ rangeFault (halfAt b 232).toNat 30 300 232 ++
  rangeFault (halfAt b 234).toNat 30 600 234

def calibrationFaults (b : List Byte) : List Nat :=
  rangeFault (byteAt b 236).toNat 0 50 236 ++ rangeFault (byteAt b 237).toNat 0 80 237

def hygieneFaults (b : List Byte) : List Nat :=
  rangeFault (halfAt b 238).toNat 30 1440 238 ++ rangeFault (halfAt b 240).toNat ((halfAt b 238).toNat + 1) 2880 240 ++
  rangeFault (halfAt b 242).toNat 700 990 242 ++ rangeFault (halfAt b 244).toNat 60 1800 244 ++
  rangeFault (byteAt b 246).toNat 1 16 246 ++ rangeFault (byteAt b 247).toNat 5 60 247

/-- The tests of R188 in order, with their codes. -/
def profileTests (b : List Byte) (addr : Word) : List (Byte × List Nat) :=
  [(1, failIf (wordAt b 0 != Config.profileMagic) 0),
   (2, failIf (halfAt b 4 != 1) 4),
   (3, failIf (wordAt b 508 != crc32 (b.take 508)) 508),
   (4, windowNos.flatMap (windowFaults b)),
   (5, windowSetFaults b addr),
   (6, controlFaults b),
   (7, ringFaults b),
   (8, reportAreaFaults b),
   (9, failIf (wordAt b 216 >>> 11 != 0) 216),
   (10, lineFaults b),
   (11, timingFaults b),
   (12, calibrationFaults b),
   (13, hygieneFaults b),
   (14, failIf (!classSetOk (halfAt b 248)) 248),
   (15, failIf (decide (1 < (byteAt b 250).toNat)) 250 ++ failIf (decide (1 < (byteAt b 251).toNat)) 251)]

def leastOf (n : Nat) (l : List Nat) : Nat := l.foldl min n

/-- The first test that fails, and the offset of the first field in record order that breaks it. -/
def firstFault : List (Byte × List Nat) → Option (Byte × Half)
  | [] => none
  | (c, l) :: t =>
    match l with
    | [] => firstFault t
    | n :: ns => some (c, natHalf (leastOf n ns))

def profileFault (b : List Byte) (addr : Word) : Option (Byte × Half) := firstFault (profileTests b addr)

/-! ## RUNNING (R189) -/

def lineAtStart (r : Option Rate) : Line :=
  match r with
  | some rate => { Line.reset with state := .free, rate := rate }
  | none => Line.reset

def enterRunning (b : List Byte) (s : State) : State :=
  let p := profileOf b
  { s with
    mode := .running, profile := p, startWrites := true, startUnderHrst := s.hrst,
    lines := p.lines.map lineAtStart,
    hygiene := { s.hygiene with minute := some s.now },
    report := { s.report with rewriteList := slots.map .oven ++ [.site, .summary] } }

/-! ## PASS_ONLY (R190) -/

/-- R190: the two addresses pass the tests of REPORT_AREA that concern them; for WINDOW and WINDOW_SET, their alignment alone.
After CONTROL or RING the areas they are compared with may themselves be bad: a watched word off word alignment, past its window
or past 2^32, a ring of a bad base or size or past 2^32. They are compared as the record gives them, as plain numbers without wrap (log
66, DESIGN CHOICE); so is the mirror area (log 57). -/
def addressesUsable (b : List Byte) (code : Byte) : Bool :=
  let own := [mirrorArea b, summaryArea b]
  (alignFaults b).isEmpty &&
    (code == 4 || code == 5 ||
      ((placeFaults b own).isEmpty &&
        (meetFaults [ringAreaOf b 0, ringAreaOf b 1, ringAreaOf b 2, ringAreaOf b 3] own).isEmpty))

/-- R190: the diagnostic write follows. -/
def diagnosticWrite (b : List Byte) (addr : Word) (code : Byte) : Bool :=
  decide (3 < code.toNat) && decide (code.toNat ≤ 15) && addressesUsable b code &&
    !overlaps (profMirror b).toNat 1152 addr.toNat 512 && !areasMeet (mirrorArea b) (summaryArea b)

/-- The state in PASS_ONLY with its fault recorded. -/
def passOnlyState (code : Byte) (off : Half) (s : State) : State :=
  { s with mode := .passOnly, faultCode := code, faultOffset := off }

/-- R190: the site record and the summary word are posted, at the addresses the bad record names. -/
def postDiagnostic (b : List Byte) (s : State) : State :=
  let s1 := { s with report := { s.report with pendingSet := eventBit .profileBad, siteCount := 2 }, startWrites := true }
  postWrite { addr := profSummary b, data := [summaryWord s1.report.pendingSet s1.report.overrunSet], kind := .summary }
    (postAll (recordWrites (profMirror b + 1024) 0 s1.siteBytes) s1)

def enterPassOnly (b : List Byte) (code : Byte) (off : Half) (s : State) : State :=
  let s1 := passOnlyState code off s
  if diagnosticWrite b s.profileAddr code then postDiagnostic b s1
  else { s1 with path := { s1.path with portOpen := true } }

/-! ## Reading the record (R187) -/

/-- The next of the 16 reads, when the memory port has room. -/
def issueProfileRead (s : State) : State :=
  if s.startIssued < 16 ∧ s.path.issued.length < Config.issuedMax then
    { issueRequest .profile (ownRead (s.profileAddr + natWord (32 * s.startIssued)) 8) s with
      startIssued := s.startIssued + 1 }
  else s

def issueProfileReads : Nat → State → State
  | 0, s => s
  | n + 1, s => issueProfileReads n (issueProfileRead s)

/-- R188: the record is judged. -/
def judgeProfile (b : List Byte) (s : State) : State :=
  match profileFault b s.profileAddr with
  | none => enterRunning b s
  | some (code, off) => enterPassOnly b code off s

/-- An answer to a start-up read; READ_ERROR is fault 16. -/
def profileAnswer (data : Option (List Word)) (s : State) : State :=
  match data with
  | none =>
    enterPassOnly [] 16 (natHalf s.startBytes.length) (disregardIssued (fun o => o == .profile) s)
  | some ws =>
    let b := s.startBytes ++ bytesOf ws
    let s1 := issueProfileRead { s with startBytes := b }
    if b.length < 512 then s1 else judgeProfile b s1

/-- Such answers are taken during start-up only. -/
def startUpAnswer (data : Option (List Word)) (s : State) : State := if s.mode = .startUp then profileAnswer data s else s

def execProfileReadAnswer (a : MemAnswer) (s : State) : Result :=
  takeAnswer (fun o => o == .profile) a (fun _ d s => startUpAnswer d s) s

/-! ## RESET (R185) -/

/-- Part reset: every block at its part-reset values; what lies outside the part (the queue, the time, the HRST pin, the count
of free values drawn) stays (log 5), and the answers that memory still owes are those of requests issued before (R69). -/
def execPartReset (s : State) : Result :=
  .next { State.reset with
    pending := s.pending, now := s.now, freeCount := s.freeCount, hrst := s.hrst, oldIssued := s.oldIssued ++ s.path.issued }

def strapAddress (psel1 psel0 : Bool) : Word :=
  match psel1, psel0 with
  | false, false => 0x00001000
  | false, true => 0x00100000
  | true, false => 0x04000000
  | true, true => 0x1FF00000

/-- R185, R187: the straps are sampled and the reads of the record begin, up to what the memory port takes (R51). -/
def execResetRelease (psel1 psel0 : Bool) (s : State) : Result :=
  .next (if s.mode = .inReset then
      issueProfileReads Config.issuedMax { s with mode := .startUp, profileAddr := strapAddress psel1 psel0 }
    else s)

/-! ## HRST (R70, R145, R183, R184, R186) -/

/-- R70: the in-flight table is discarded, and answers to its issued requests will be disregarded. -/
def dropInflight (s : State) : State :=
  disregardIssued (fun o => o == .processor)
    { s with path := { s.path with inflight := [], procCount := 0 } }

/-- R183, R181: the assertion in RUNNING. -/
def hostRestart (s : State) : State :=
  let s1 := disregardIssued (fun o => o == .command) (dropInflight s)
  { s1 with
    command := { s1.command with
      fetch := .unset, owed := 0, completions := [], longs := s1.command.longs.map (fun x => { x with orphaned := true }) },
    cache := { s1.cache with aborts := s1.cache.aborts.map (fun a => { a with orphaned := true }) },
    update := { s1.update with
      rollout := { s1.update.rollout with
        orphaned := s1.update.rollout.orphaned || s1.update.rollout.state == .active ||
          s1.update.rollout.state == .halting } },
    report := { s1.report with signalled := 0 } }

def execHrstAssert (s : State) : Result :=
  .next (if s.hrst then s
    else
      let s1 := { s with hrst := true }
      match s.mode with
      | .running => finish s (hostRestart s1)
      | .passOnly => finish s (dropInflight s1)
      | _ => s1)

/-- R184, R145: the release in RUNNING. -/
def hostResume (s : State) : State :=
  unpostAll
    { s with
      command := { s.command with c := 0, p := 0, stopped := false, owed := 0 },
      report := { s.report with
        complProd := 0, complCons := 0, svcProd := 0, svcCons := 0, jrnProd := 0, jrnCons := 0, pendingSet := 0,
        overrunSet := 0, signalled := 0, rewriteList := slots.map .oven ++ [.site, .summary] } }

def execHrstRelease (s : State) : Result :=
  .next (if s.hrst then
      let s1 := { s with hrst := false, startUnderHrst := false }
      match s.mode with
      | .running => finish s (hostResume s1)
      | _ => s1
    else s)

end Sys2Proof.Machine
end

