-- ==== Sys2Proof/Machine/Dispatch.lean ====
section
/-! DEFINITION. Dispatch: one arm per command, each a call of its meaning. -/

namespace Sys2Proof.Machine

def exec (i : Instr) (s : State) : Host.Outcome State Fault Refusal :=
  match i with
  | .partReset => Sys2Proof.Machine.execPartReset s
  | .resetRelease psel1 psel0 => Sys2Proof.Machine.execResetRelease psel1 psel0 s
  | .hrstAssert => Sys2Proof.Machine.execHrstAssert s
  | .hrstRelease => Sys2Proof.Machine.execHrstRelease s
  | .profileReadAnswer a => Sys2Proof.Machine.execProfileReadAnswer a s
  | .processorRequest r => Sys2Proof.Machine.execProcessorRequest r s
  | .arbiterGrant => Sys2Proof.Machine.execArbiterGrant s
  | .commandProducerIndexWrite v => Sys2Proof.Machine.execCommandProducerIndexWrite v s
  | .completionConsumerIndexWrite v => Sys2Proof.Machine.execCompletionConsumerIndexWrite v s
  | .serviceConsumerIndexWrite v => Sys2Proof.Machine.execServiceConsumerIndexWrite v s
  | .journalConsumerIndexWrite v => Sys2Proof.Machine.execJournalConsumerIndexWrite v s
  | .eventAcknowledgeWrite v => Sys2Proof.Machine.execEventAcknowledgeWrite v s
  | .siteClockLoadWrite v => Sys2Proof.Machine.execSiteClockLoadWrite v s
  | .processorAnswer a => Sys2Proof.Machine.execProcessorAnswer a s
  | .postedWriteAnswer a => Sys2Proof.Machine.execPostedWriteAnswer a s
  | .commandFetchAnswer a => Sys2Proof.Machine.execCommandFetchAnswer a s
  | .publishReadAnswer a => Sys2Proof.Machine.execPublishReadAnswer a s
  | .fillReadAnswer l a => Sys2Proof.Machine.execFillReadAnswer l a s
  | .verifyReadAnswer a => Sys2Proof.Machine.execVerifyReadAnswer a s
  | .imageBlockReadAnswer a => Sys2Proof.Machine.execImageBlockReadAnswer a s
  | .commission tag slot line drop serial refLow refHigh => Sys2Proof.Machine.execCommission tag slot line drop serial refLow refHigh s
  | .restore tag slot line drop serial refLow refHigh rawLow rawHigh minutes => Sys2Proof.Machine.execRestore tag slot line drop serial refLow refHigh rawLow rawHigh minutes s
  | .recalibrate tag slot refLow refHigh => Sys2Proof.Machine.execRecalibrate tag slot refLow refHigh s
  | .retire tag slot => Sys2Proof.Machine.execRetire tag slot s
  | .release tag slot => Sys2Proof.Machine.execRelease tag slot s
  | .lineTest tag line => Sys2Proof.Machine.execLineTest tag line s
  | .publish tag recipe => Sys2Proof.Machine.execPublish tag recipe s
  | .withdraw tag recipe => Sys2Proof.Machine.execWithdraw tag recipe s
  | .cook tag oven recipe => Sys2Proof.Machine.execCook tag oven recipe s
  | .abort tag oven => Sys2Proof.Machine.execAbort tag oven s
  | .clean tag oven program => Sys2Proof.Machine.execClean tag oven program s
  | .cancelClean tag oven => Sys2Proof.Machine.execCancelClean tag oven s
  | .ackCall tag source cause => Sys2Proof.Machine.execAckCall tag source cause s
  | .closeCall tag source cause => Sys2Proof.Machine.execCloseCall tag source cause s
  | .stageClose tag length check => Sys2Proof.Machine.execStageClose tag length check s
  | .rollout tag mask downgrade => Sys2Proof.Machine.execRollout tag mask downgrade s
  | .rolloutHalt tag => Sys2Proof.Machine.execRolloutHalt tag s
  | .openProfile tag => Sys2Proof.Machine.execOpenProfile tag s
  | .completionPost => Sys2Proof.Machine.execCompletionPost s
  | .servicePosting => Sys2Proof.Machine.execServicePosting s
  | .journalRecordWrite => Sys2Proof.Machine.execJournalRecordWrite s
  | .mirrorRewrite => Sys2Proof.Machine.execMirrorRewrite s
  | .eventSummaryWrite => Sys2Proof.Machine.execEventSummaryWrite s
  | .siteClockMinuteExpiry => Sys2Proof.Machine.execSiteClockMinuteExpiry s
  | .schedulerChoice l => Sys2Proof.Machine.execSchedulerChoice l s
  | .transmitEnd l => Sys2Proof.Machine.execTransmitEnd l s
  | .replyReceived l chars => Sys2Proof.Machine.execReplyReceived l chars s
  | .replyWindowExpiry l => Sys2Proof.Machine.execReplyWindowExpiry l s
  | .quietEnd l => Sys2Proof.Machine.execQuietEnd l s
  | .turnaroundEnd l => Sys2Proof.Machine.execTurnaroundEnd l s
  | .pollDue k => Sys2Proof.Machine.execPollDue k s
  | .pollOverdue k => Sys2Proof.Machine.execPollOverdue k s
  | .silenceTimerExpiry k => Sys2Proof.Machine.execSilenceTimerExpiry k s
  | .lineTestStart l => Sys2Proof.Machine.execLineTestStart l s
  | .lineTestLoopbackEnd l chars => Sys2Proof.Machine.execLineTestLoopbackEnd l chars s
  | .lineTestWindowExpiry l chars => Sys2Proof.Machine.execLineTestWindowExpiry l chars s
  | .identResendExpiry k => Sys2Proof.Machine.execIdentResendExpiry k s
  | .calibrationLimitExpiry k => Sys2Proof.Machine.execCalibrationLimitExpiry k s
  | .hygieneMinuteExpiry => Sys2Proof.Machine.execHygieneMinuteExpiry s
  | .requeueTimerExpiry k => Sys2Proof.Machine.execRequeueTimerExpiry k s
  | .switchLimitExpiry k => Sys2Proof.Machine.execSwitchLimitExpiry k s
  | .replyStartBitAccepted l => Sys2Proof.Machine.execReplyStartBitAccepted l s
  | .quietStartBitAccepted l => Sys2Proof.Machine.execQuietStartBitAccepted l s
  | .characterGapLimitExpiry l => Sys2Proof.Machine.execCharacterGapLimitExpiry l s

end Sys2Proof.Machine
end

