-- ==== Sys2Proof/Safety.lean ====
section
/-! DEFINITION. The words in which the part's safety is stated: when commands are taken, what an event leaves alone, the sizes
that every queue and table keeps, and the limits that bind the ovens. -/

namespace Sys2Proof.Machine

/-- R55, R170, R183: the states in which software's commands and watched words act. -/
def State.hears (s : State) : Bool := s.running && !s.hrst

/-- `t` is `x` but for what every event brings up to date at its end: the rewrite list with its scratch mark (R176, R178) and the
two starvation counters (R66). Everything else of the two states is equal. -/
def State.EndsAs (t x : State) : Prop :=
  t = { x with
    report := { x.report with rewriteList := t.report.rewriteList, summaryRaised := t.report.summaryRaised },
    path := { x.path with bulkCount := t.path.bulkCount, procCount := t.path.procCount } }

/-- The oldest issued request, whose answer is next (R51), belongs to `o` and is still wanted; memory owes no answer to a request
issued before a part reset (R69). -/
def State.AnswerFor (s : State) (o : IssueOwner) (r : MemRequest) (rest : List Issued) : Prop :=
  s.oldIssued = [] ∧ s.path.issued = { owner := o, req := r, disregard := false } :: rest

/-- The state after the oldest issued request has been answered. -/
def State.answered (s : State) (rest : List Issued) : State := { s with path := { s.path with issued := rest } }

/-- The completion record of a command (R173). -/
def completionOf (tag : Half) (kind : Byte) (r : ResultCode) (d1 d2 d3 : Word) : Completion :=
  { tag := tag, kind := kind, result := r, d1 := d1, d2 := d2, d3 := d3 }

/-- A taken command owes one completion (R170). -/
def State.taken (s : State) : State := { s with command := { s.command with owed := s.command.owed + 1 } }

/-- R179: the pending set and the overrun set after a kind has been raised. -/
def raisedPending (p : BitVec 11) (e : Event) : BitVec 11 := p ||| eventBit e

def raisedOverrun (p o : BitVec 11) (e : Event) : BitVec 11 := if p.getLsbD e.bitNo then o ||| eventBit e else o

/-- The rows in which software speaks: its eighteen commands and its six watched words. -/
def fromSoftware : Instr → Bool
  | .commandProducerIndexWrite _ => true
  | .completionConsumerIndexWrite _ => true
  | .serviceConsumerIndexWrite _ => true
  | .journalConsumerIndexWrite _ => true
  | .eventAcknowledgeWrite _ => true
  | .siteClockLoadWrite _ => true
  | .commission _ _ _ _ _ _ _ => true
  | .restore _ _ _ _ _ _ _ _ _ _ => true
  | .recalibrate _ _ _ _ => true
  | .retire _ _ => true
  | .release _ _ => true
  | .lineTest _ _ => true
  | .publish _ _ => true
  | .withdraw _ _ => true
  | .cook _ _ _ => true
  | .abort _ _ => true
  | .clean _ _ _ => true
  | .cancelClean _ _ => true
  | .ackCall _ _ _ => true
  | .closeCall _ _ _ => true
  | .stageClose _ _ _ => true
  | .rollout _ _ _ => true
  | .rolloutHalt _ => true
  | .openProfile _ => true
  | _ => false

/-- The telegrams that wait to be sent on a line before any poll or block, in the order in which they go (R40, R43). -/
def State.waitingOn (s : State) (l : LineNo) : List Queued := (s.ln l).urgent ++ (s.ln l).waiting

/-- R40: offers wait only while the urgent FIFO is full, so that a telegram queued later goes behind them (R8). -/
def State.OffersWaitInTurn (s : State) (l : LineNo) : Prop := (s.ln l).urgent.length < 16 → (s.ln l).waiting = []

/-- An owner's telegram to an oven (R29). -/
def State.telegramTo (s : State) (i : Slot) (o : Owner) (t : Telegram) : Queued :=
  { tel := t, owner := o, target := some i, about := none, addr := (s.ent i).drop, replyAddr := (s.ent i).drop, void := false }

/-- R118: the cleaning queue after an automatic placement of an oven in service: one that is OVERDUE and not queued joins at the tail,
where auto-cleaning is enabled. -/
def State.autoQueued (s : State) (i : Slot) (level : Level) : List CleanWait :=
  if s.profile.autoClean = true ∧ level = .overdue ∧ ∀ w ∈ s.hygiene.queue, w.slot ≠ i then
    s.hygiene.queue ++ [{ slot := i, program := 1, origin := .auto, queued := s.report.clock, idleWait := false }]
  else s.hygiene.queue

/-- R174: the waiting journal records after one more has been passed, and whether a gap is pending. -/
def ReportWriter.passed (r : ReportWriter) (b : JBody) : List JournalRec × Bool :=
  if r.journal.length < 8 then (r.journal ++ [{ body := b, gap := r.gapPending }], false) else (r.journal, true)

/-- A report with one event kind raised (R179). -/
def ReportWriter.raising (r : ReportWriter) (e : Event) : ReportWriter :=
  { r with pendingSet := raisedPending r.pendingSet e, overrunSet := raisedOverrun r.pendingSet r.overrunSet e }

/-- R50: entries that are ISSUED or ANSWERED are decided; a table whose first entry is ANSWERED has a response to deliver. -/
def Decided (l : List InFlight) : Prop := ∀ x ∈ l, x.state = .issued ∨ x.state = .answered

def NoneReady (l : List InFlight) : Prop := ∀ x, l.head? = some x → x.state ≠ .answered

/-- R61, R68, R179: a refusal with GUARD at an address: the guard capture takes it, and the event is raised while the part hears. -/
def State.guardRefused (s : State) (a : Word) : State :=
  { s with
    report := if s.hears then s.report.raising .guard else s.report,
    path := { s.path with capGuard := s.path.capGuard.offer a } }

/-- R53, R64: the processor requester has been chosen and its head is turned away by its issue-time test, so that the arbiter chooses
again. `z` is the state it chooses in: the head is ANSWERED with ERROR, by GUARD or by CLASH, and the processor side has gone on from
there (R50), or the head is HELD. -/
def State.TurnedAway (s z : State) : Prop :=
  s.chosen = some .proc ∧
  ∃ older e later, s.path.inflight = older ++ e :: later ∧ Decided older ∧ NoneReady older ∧ e.state = .requesting ∧
    (let failed : InFlight :=
       { e with state := .answered, good := false,
                data := if e.req.req.write then [] else List.replicate e.req.req.len 0 }
     let y : State := { s with path := { s.path with inflight := older ++ failed :: later } }
     (s.issueTest e.req.req = .guard ∧ z = settlePort (y.guardRefused e.req.req.addr)) ∨
     (s.issueTest e.req.req = .clash ∧
       z = settlePort { y with report := if s.hears then s.report.raising .clash else s.report }) ∨
     (s.issueTest e.req.req = .hold ∧
       z = { s with path := { s.path with inflight := older ++ { e with state := .held } :: later } }))

/-- An error offered to a capture record raises FAULT when the record latches (R68). -/
def ReportWriter.faulted (r : ReportWriter) (c : Capture) : ReportWriter := if c.latched then r else r.raising .fault

/-- The requests still to be answered after some owner's answers are no longer wanted (R67, R70). -/
def disregarding (p : IssueOwner → Bool) (l : List Issued) : List Issued :=
  l.map (fun x => if p x.owner then { x with disregard := true } else x)

/-- A posted-write queue with one more entry, and the arbiter mode that leads to (R62, R65). -/
def PathUnit.posting (p : PathUnit) (w : PostedWrite) : PathUnit :=
  { p with posted := p.posted ++ [w], arbMode := if 12 ≤ p.posted.length + 1 then .drain else p.arbMode }

/-- Every mirror record and the summary word, in the order of R178. -/
def allRewrites : List RewriteItem := slots.map .oven ++ [.site, .summary]

/-- R178, R183, R186: it is the rewrite list's turn. While HRST is asserted only the own writes of a start-up that ended under
that HRST are served (log 23). -/
def State.rewritesServed (s : State) : Prop :=
  s.mode = .running ∧
    (s.hrst = true → s.startUnderHrst = true) ∧
    (s.hrst = false → s.completionReady = none ∧ s.serviceReady = none ∧ s.journalReady = none)

/-! ## The profile record (R188) -/

/-- Two areas, each a base and a length, have an address in common. -/
def AreasOverlap (a n b m : Nat) : Prop := 0 < n ∧ 0 < m ∧ a < b + m ∧ b < a + n

/-- An area overlaps a window of one of these classes. -/
def InWindowOf (b : List Byte) (classes : List Byte) (a n : Nat) : Prop :=
  ∃ k < 12, profWindowClass b k ∈ classes ∧ AreasOverlap (profWindowBase b k) (profWindowSize b k) a n

/-- R188, with the layout of 11 §11.3: the field at this offset breaks the test of this order number. Which field of several a fault
between them is put to is log 22. -/
def ProfileBreaks (b : List Byte) (addr : Word) (code off : Nat) : Prop :=
  match code with
  | 1 => off = 0 ∧ wordAt b 0 ≠ 0x32165046
  | 2 => off = 4 ∧ halfAt b 4 ≠ 1
  | 3 => off = 508 ∧ wordAt b 508 ≠ crc32 (b.take 508)
  | 4 => ∃ k < 12, profWindowClass b k ≠ 0 ∧
      ((off = 8 + 12 * k ∧ (profWindowBase b k % 4096 ≠ 0 ∨
          ∃ j < k, profWindowClass b j ≠ 0 ∧
            AreasOverlap (profWindowBase b j) (profWindowSize b j) (profWindowBase b k) (profWindowSize b k))) ∨
        (off = 12 + 12 * k ∧ (profWindowSize b k = 0 ∨ profWindowSize b k % 4096 ≠ 0 ∨
          2 ^ 32 < profWindowBase b k + profWindowSize b k ∨
          (profWindowClass b k ∈ [4, 5] ∧ profWindowSize b k ≠ 32768) ∨
          (profWindowClass b k = 6 ∧ profWindowSize b k ≠ 65536) ∨
          (profWindowClass b k = 7 ∧ 1048576 < profWindowSize b k))) ∨
        (off = 16 + 12 * k ∧ 7 < (profWindowClass b k).toNat))
  | 5 =>
      let has := fun c : Byte => ∃ k < 12, profWindowClass b k = c
      (off = 8 ∧ (¬has 1 ∨ ¬has 2 ∨ ((has 4 ∨ has 5 ∨ has 6) ∧ ¬(has 4 ∧ has 5 ∧ has 6)))) ∨
      (∃ k < 12, off = 16 + 12 * k ∧ profWindowClass b k ∈ [1, 4, 5, 6, 7] ∧
        ∃ j < k, profWindowClass b j = profWindowClass b k) ∨
      (∃ k < 12, off = 8 + 12 * k ∧ profWindowClass b k = 1 ∧
        ¬(profWindowBase b k ≤ addr.toNat ∧ addr.toNat + 512 ≤ profWindowBase b k + profWindowSize b k))
  | 6 => ∃ k < 6, off = 192 + 4 * k ∧
      (watchedOffset b k % 4 ≠ 0 ∨ (controlArea b).2 < watchedOffset b k + 4 ∨ ∃ j < k, watchedOffset b j = watchedOffset b k)
  | 7 => ∃ k < 4,
      (off = 152 + 8 * k ∧ (profRing b k).size ≠ 0 ∧ (profRing b k).base.toNat % ringEntry k ≠ 0) ∨
      (off = 156 + 8 * k ∧ ((profRing b k).size ∉ [0, 4, 8, 16, 32, 64, 128, 256] ∨
        ((profRing b k).size ≠ 0 ∧ 2 ^ 32 < (profRing b k).base.toNat + (profRing b k).size * ringEntry k)))
  | 8 =>
      (off = 152 ∧ InWindowOf b [1, 3, 4, 5, 6, 7] (profRing b 0).base.toNat ((profRing b 0).size * 32)) ∨
      (off = 184 ∧ (profMirror b).toNat % 64 ≠ 0) ∨ (off = 188 ∧ (profSummary b).toNat % 4 ≠ 0) ∨
      (∃ x ∈ writtenAreas b, off = x.1 ∧ InWindowOf b [1, 4, 5, 6, 7] x.2.1 x.2.2) ∨
      (∃ k < 6, off = 192 + 4 * k ∧
        ∃ x ∈ writtenAreas b, AreasOverlap x.2.1 x.2.2 ((controlArea b).1 + watchedOffset b k) 4) ∨
      (∃ before x after, ringAreaOf b 0 :: writtenAreas b = before ++ x :: after ∧ off = x.1 ∧
        ∃ y ∈ before, AreasOverlap x.2.1 x.2.2 y.2.1 y.2.2)
  | 9 => off = 216 ∧ 2048 ≤ (wordAt b 216).toNat
  | 10 => ∃ k < 4,
      (off = 220 + 2 * k ∧ 1 < (byteAt b (220 + 2 * k)).toNat) ∨
      (off = 221 + 2 * k ∧ byteAt b (220 + 2 * k) = 1 ∧ byteAt b (221 + 2 * k) ∉ [1, 2, 3])
  | 11 =>
      (off = 228 ∧ ¬((byteAt b 228).toNat ∈ Set.Icc 2 20)) ∨ (off = 229 ∧ ¬((byteAt b 229).toNat ∈ Set.Icc 5 50)) ∨
      (off = 230 ∧ ¬((halfAt b 230).toNat ∈ Set.Icc 10 120)) ∨ (off = 232 ∧ ¬((halfAt b 232).toNat ∈ Set.Icc 30 300)) ∨
      (off = 234 ∧ ¬((halfAt b 234).toNat ∈ Set.Icc 30 600))
  | 12 => (off = 236 ∧ 50 < (byteAt b 236).toNat) ∨ (off = 237 ∧ 80 < (byteAt b 237).toNat)
  | 13 =>
      (off = 238 ∧ ¬((halfAt b 238).toNat ∈ Set.Icc 30 1440)) ∨
      (off = 240 ∧ ¬((halfAt b 238).toNat < (halfAt b 240).toNat ∧ (halfAt b 240).toNat ≤ 2880)) ∨
      (off = 242 ∧ ¬((halfAt b 242).toNat ∈ Set.Icc 700 990)) ∨ (off = 244 ∧ ¬((halfAt b 244).toNat ∈ Set.Icc 60 1800)) ∨
      (off = 246 ∧ ¬((byteAt b 246).toNat ∈ Set.Icc 1 16)) ∨ (off = 247 ∧ ¬((byteAt b 247).toNat ∈ Set.Icc 5 60))
  | 14 => off = 248 ∧ (halfAt b 248 = 0 ∨ (halfAt b 248).getLsbD 0 = true)
  | 15 => (off = 250 ∧ 1 < (byteAt b 250).toNat) ∨ (off = 251 ∧ 1 < (byteAt b 251).toNat)
  | _ => False

/-! ## The sizes of R40, R49, R51, R62, R66, R131 and R174 -/

def State.QueuesFit (s : State) : Prop :=
  s.path.inflight.length ≤ 8 ∧ s.path.issued.length ≤ 8 ∧ s.path.posted.length ≤ 16 ∧
  s.path.bulkCount ≤ 16 ∧ s.path.procCount ≤ 16 ∧
  s.service.calls.length ≤ 32 ∧ s.report.journal.length ≤ 8 ∧
  (∀ l : LineNo, (s.ln l).urgent.length ≤ 16 ∧ s.OffersWaitInTurn l) ∧
  (s.mode = .inReset ∨ s.mode = .startUp → s.path.posted = [])

/-! ## Tables that hold nothing twice -/

/-- R131: no two calls share a key. -/
def State.CallKeysDistinct (s : State) : Prop :=
  s.service.calls.Pairwise (fun a b => ¬(a.source = b.source ∧ a.cause = b.cause))

/-- R117: the cleaning queue never holds an oven twice. -/
def State.QueuedOnce (s : State) : Prop := s.hygiene.queue.Pairwise (fun a b => a.slot ≠ b.slot)

/-- R87: no directory holds two entries of one recipe slot. -/
def State.DirsDistinct (s : State) : Prop := ∀ i : Slot, (s.ent i).dir.Pairwise (fun a b => a.recipe ≠ b.recipe)

/-- R172: an object has at most one long-command record. -/
def State.LongsDistinct (s : State) : Prop := s.command.longs.Pairwise (fun a b => a.obj ≠ b.obj)

/-- R178: the rewrite list holds each record and the summary word at most once, and between events no raise is still to be placed. -/
def State.RewritesOnce (s : State) : Prop := s.report.rewriteList.Nodup ∧ s.report.summaryRaised = false

/-! ## The order of the rewrite list (R178) -/

/-- Mirror records that were not owed before, each once. -/
def NewlyOwed (old joined : List RewriteItem) : Prop := joined.Nodup ∧ ∀ x ∈ joined, x ∉ old ∧ x ≠ .summary

/-- What was listed keeps its place, and what is newly owed stands behind it. -/
def State.RewritesKept (s t : State) : Prop :=
  ∃ joined, NewlyOwed s.report.rewriteList joined ∧ t.report.rewriteList = s.report.rewriteList ++ joined

/-- The records listed keep their order, what is newly owed stands behind them, and the summary word behind all. -/
def State.SummaryMoved (s t : State) : Prop :=
  ∃ joined, NewlyOwed s.report.rewriteList joined ∧
    t.report.rewriteList = s.report.rewriteList.filter (fun x => x != .summary) ++ joined ++ [.summary]

/-! ## Limits -/

/-- R123: ovens CLEANING and offers outstanding are within the profile's limit; there are none of either before RUNNING. -/
def State.CleaningFits (s : State) : Prop :=
  s.capacityInUse ≤ s.profile.maxCleaning ∧ (s.mode = .startUp ∨ s.mode = .inReset → s.capacityInUse = 0)

/-- R66: a starvation counter is 0 while its requester is not asking. -/
def State.CountersRest (s : State) : Prop :=
  (s.bulkAsking = false → s.path.bulkCount = 0) ∧ (s.procAsking = false → s.path.procCount = 0)

/-- R49, R69, R70, R181: nothing is in flight while HRST is asserted, nor before start-up opens the port, and IRQ's set is empty
outside RUNNING and while HRST is asserted. -/
def State.HostQuiet (s : State) : Prop :=
  (s.hrst = true → s.mode ≠ .inReset → s.path.inflight = []) ∧
  (s.mode = .inReset ∨ s.mode = .startUp → s.path.portOpen = false ∧ s.path.inflight = []) ∧
  (s.mode ≠ .running ∨ s.hrst = true → s.report.signalled = 0)

/-- R78, R102: a fill that was abandoned in READING holds its buffer only while the answer to one of its issued reads is still to
come (log 16); there are no fills outside RUNNING. -/
def State.FillsAwaitReads (s : State) : Prop :=
  (∀ (l : LineNo) (f : Fill), (s.ln l).fill = some f → f.abandoned = true → f.streaming = false →
    ∃ q ∈ s.path.issued, q.owner = .fill l ∧ q.disregard = false) ∧
  (s.mode ≠ .running → ∀ l : LineNo, (s.ln l).fill = none)

end Sys2Proof.Machine
end

