-- ==== Sys2Proof/Certificates/Slice0/Obligations.lean ====
section
/-! DEFINITION. The statements for the provers. Most say, for one row of the table, under conditions on the state and the operands
alone, which next state the row answers: `t.EndsAs x` says that the answer `t` is `x` in everything but the rewrite list and the
two starvation counters, which every event brings up to date at its end (R66, R176) and which have statements of their own. -/

open Sys2Proof Sys2Proof.Machine

/-! ## The step, the queue, reset -/

/-- The step takes the command at the front of the queue and runs it on the state with the queue's rest. With nothing in the
queue one microsecond passes (the model's choice, log 2). -/
def Obligations.StepRunsFrontCommand : Prop :=
  (∀ (c : Instr) (rest : List Instr) (s : State), s.pending = c :: rest →
     Sys2Proof.Machine.step s = Sys2Proof.Machine.exec c { s with pending := rest }) ∧
  (∀ s : State, s.pending = [] → Sys2Proof.Machine.step s = .next { s with now := s.now + 1 })

/-- No command touches the queue or the time; only the HRST rows move the HRST pin; the profile changes at part reset and at
the end of start-up alone, and the profile address at part reset and at its release alone. -/
def Obligations.CommandsKeepQueueTimeAndProfile : Prop :=
  ∀ (c : Instr) (s t : State), exec c s = .next t →
    t.pending = s.pending ∧ t.now = s.now ∧
    (c ≠ .hrstAssert → c ≠ .hrstRelease → t.hrst = s.hrst) ∧
    (c ≠ .partReset → (∀ a, c ≠ .profileReadAnswer a) → t.profile = s.profile) ∧
    (c ≠ .partReset → (∀ p q, c ≠ .resetRelease p q) → t.profileAddr = s.profileAddr)

/-- PART_RESET puts every block at its part-reset values; the queue, the time, the HRST pin and the count of free values drawn
lie outside the part (log 5), and the answers memory still owes are those of requests issued before (R69). The part-reset
values that the rules state: roster, lines, recipe slots, call table, image, rings, path, reports. -/
def Obligations.PartResetValues : Prop :=
  (∀ s : State, exec .partReset s =
     .next { State.reset with pending := s.pending, now := s.now, freeCount := s.freeCount, hrst := s.hrst,
                               oldIssued := s.oldIssued ++ s.path.issued }) ∧
  ((∀ i : Slot, (State.reset.ent i).state = .vacant ∧ (State.reset.ent i).activity = .idle ∧
     (State.reset.ent i).offerOut = false ∧ (State.reset.ent i).causes = 0 ∧ (State.reset.ent i).failures = 0 ∧
     (State.reset.ent i).late = false ∧ (State.reset.ent i).toggle = none ∧ (State.reset.ent i).cook = none ∧
     (State.reset.ent i).grant = none ∧ (State.reset.ent i).token = 0 ∧ (State.reset.ent i).dir = [] ∧
     (State.reset.ent i).count = 0 ∧ (State.reset.ent i).level = .clean ∧ (State.reset.ent i).upd.state = .unset) ∧
   (∀ l : LineNo, (State.reset.ln l).state = .off ∧ (State.reset.ln l).trans = none ∧ (State.reset.ln l).urgent = [] ∧
     (State.reset.ln l).streams = [] ∧ (State.reset.ln l).schedule = [] ∧ (State.reset.ln l).fill = none) ∧
   (∀ r : RecipeNo, State.reset.rslot r =
     { state := .empty, bank := 0, version := 0, check := 0, used := 0, written := false, publish := .idle, readers := 0,
       pins := 0, staged := none }) ∧
   State.reset.service = { calls := [], nextRaise := 1, dropped := false } ∧
   State.reset.update.image = { state := .empty, expected := 0, acc := 0, staged := none, head := none, reason := .unset } ∧
   State.reset.hygiene.queue = [] ∧
   (State.reset.command.c = 0 ∧ State.reset.command.p = 0 ∧ State.reset.command.owed = 0 ∧
     State.reset.command.stopped = false) ∧
   (State.reset.report.complProd = 0 ∧ State.reset.report.complCons = 0 ∧ State.reset.report.svcProd = 0 ∧
     State.reset.report.svcCons = 0 ∧ State.reset.report.jrnProd = 0 ∧ State.reset.report.jrnCons = 0 ∧
     State.reset.report.pendingSet = 0 ∧ State.reset.report.overrunSet = 0 ∧ State.reset.report.signalled = 0 ∧
     State.reset.report.journal = [] ∧ State.reset.report.clock = 0) ∧
   (State.reset.path.inflight = [] ∧ State.reset.path.posted = [] ∧ State.reset.path.issued = [] ∧
     State.reset.path.arbMode = .normal ∧ State.reset.path.bulkCount = 0 ∧ State.reset.path.procCount = 0 ∧
     State.reset.path.bulkNext = 0 ∧ State.reset.path.profileOpen = false ∧ State.reset.path.portOpen = false ∧
     State.reset.path.capFetch = ⟨false, 0, false⟩ ∧ State.reset.path.capReport = ⟨false, 0, false⟩ ∧
     State.reset.path.capRecipe = ⟨false, 0, false⟩ ∧ State.reset.path.capImage = ⟨false, 0, false⟩ ∧
     State.reset.path.capGuard = ⟨false, 0, false⟩) ∧
   State.reset.mode = .inReset ∧ State.reset.profile.windows = [] ∧ State.reset.pending = [])

/-- At the release of RESET the straps choose the profile's address and the memory port takes the first eight reads of the
record (log 40); a release outside reset changes nothing (log 4). An answer OK to a start-up read, while the record is not yet
whole: its bytes are kept and the next of the sixteen reads is issued when there is one and the port has room (log 40). -/
def Obligations.StartUpTaken : Prop :=
  (∀ (psel1 psel0 : Bool) (s : State),
     (s.mode = .inReset → s.startIssued = 0 → s.path.issued = [] →
       exec (.resetRelease psel1 psel0) s =
         .next { s with
           mode := .startUp,
           profileAddr := if psel1 then (if psel0 then 0x1FF00000 else 0x04000000) else if psel0 then 0x00100000 else 0x00001000,
           startIssued := 8,
           path := { s.path with
             issued := (List.range 8).map fun k =>
               { owner := .profile,
                 req := { write := false,
                          addr := (if psel1 then (if psel0 then 0x1FF00000 else 0x04000000)
                                   else if psel0 then 0x00100000 else 0x00001000) + BitVec.ofNat 32 (32 * k),
                          len := 8, data := [], enables := [] },
                 disregard := false } } }) ∧
     (s.mode ≠ .inReset → exec (.resetRelease psel1 psel0) s = .next s)) ∧
  (∀ (data : List Word) (r : MemRequest) (rest : List Issued) (s : State),
     s.mode = .startUp → s.AnswerFor .profile r rest → r.write = false → data.length = r.len →
     s.startBytes.length + 4 * data.length < 512 →
     ∃ t, exec (.profileReadAnswer (.ok data)) s = .next t ∧
       (s.startIssued < 16 ∧ rest.length < 8 →
         t.EndsAs { s with
           startBytes := s.startBytes ++ bytesOf data, startIssued := s.startIssued + 1,
           path := { s.path with
             issued := rest ++ [{ owner := .profile,
                                  req := ownRead (s.profileAddr + BitVec.ofNat 32 (32 * s.startIssued)) 8,
                                  disregard := false }] } }) ∧
       (¬(s.startIssued < 16 ∧ rest.length < 8) →
         t.EndsAs { s with startBytes := s.startBytes ++ bytesOf data, path := { s.path with issued := rest } }))

/-! ## Start-up -/

/-- R188: the fifteen tests of the profile record in their order: the fault found is the first test that some field breaks, at
the first field in record order that breaks it, and a record that no field breaks is good. Which field breaks which test is
`ProfileBreaks`; the field of a fault between several fields is the model's reading (log 22), and a mirror area that runs past
the top of memory is judged without wrap-around (log 57). The magic value, the format and the check word are written out as
well. -/
def Obligations.ProfileTestsInOrder : Prop :=
  ∀ (b : List Byte) (addr : Word),
    (profileFault b addr = none ↔ ∀ code off : Nat, ¬ProfileBreaks b addr code off) ∧
    (∀ (code : Byte) (off : Half), profileFault b addr = some (code, off) ↔
      ProfileBreaks b addr code.toNat off.toNat ∧ (∀ n : Nat, n < off.toNat → ¬ProfileBreaks b addr code.toNat n) ∧
      (∀ k n : Nat, k < code.toNat → ¬ProfileBreaks b addr k n)) ∧
    (wordAt b 0 ≠ 0x32165046 → profileFault b addr = some (1, 0)) ∧
    (wordAt b 0 = 0x32165046 → halfAt b 4 ≠ 1 → profileFault b addr = some (2, 4)) ∧
    (wordAt b 0 = 0x32165046 → halfAt b 4 = 1 → wordAt b 508 ≠ crc32 (b.take 508) → profileFault b addr = some (3, 508))

/-- The record's last answer, with no fault in the record: the profile is loaded and the part is RUNNING, with the enabled
lines FREE, the minute timer started, and every mirror record and the summary word owed in the order of R178. The port stays
shut. Whether HRST was asserted then is kept, for start-up's writes under it (the model's reading, log 23). R189 with the
layout of 11 §11.3: the bytes of the record that become the loaded windows, rings, addresses, watched offsets, mask, times,
limits, tolerances, thresholds, class set and enables, and the state and rate of each line. -/
def Obligations.GoodProfileEntersRunning : Prop :=
  ∀ (data : List Word) (r : MemRequest) (rest : List Issued) (s : State),
    s.mode = .startUp → s.AnswerFor .profile r rest → r.write = false → data.length = r.len → s.startIssued = 16 →
    512 ≤ s.startBytes.length + 4 * data.length → profileFault (s.startBytes ++ bytesOf data) s.profileAddr = none →
    ∃ t, exec (.profileReadAnswer (.ok data)) s = .next t ∧
      t.EndsAs { s with
        mode := .running, profile := profileOf (s.startBytes ++ bytesOf data), startBytes := s.startBytes ++ bytesOf data,
        startWrites := true, startUnderHrst := s.hrst, lines := (profileOf (s.startBytes ++ bytesOf data)).lines.map lineAtStart,
        hygiene := { s.hygiene with minute := some s.now }, path := { s.path with issued := rest } } ∧
      t.report.rewriteList = allRewrites ∧
      (let b := s.startBytes ++ bytesOf data
       let p := t.profile
       let byte := fun k : Nat => (byteAt b k).toNat
       let half := fun k : Nat => (halfAt b k).toNat
       let classes : List (Option WindowClass) :=
         [none, some .profile, some .control, some .report, some .recipeLive, some .recipeDraft, some .recipeStore, some .image]
       p.windows = (List.range 12).filterMap (fun k =>
         (classes.getD (byte (16 + 12 * k)) none).map (fun c =>
           { cls := c, base := wordAt b (8 + 12 * k), size := (wordAt b (12 + 12 * k)).toNat })) ∧
       p.command = { base := wordAt b 152, size := half 156 } ∧ p.completion = { base := wordAt b 160, size := half 164 } ∧
       p.service = { base := wordAt b 168, size := half 172 } ∧ p.journal = { base := wordAt b 176, size := half 180 } ∧
       p.mirror = wordAt b 184 ∧ p.summary = wordAt b 188 ∧
       p.watched = [wordAt b 192, wordAt b 196, wordAt b 200, wordAt b 204, wordAt b 208, wordAt b 212] ∧
       (∀ e : Event, p.mask.getLsbD e.bitNo = (wordAt b 216).getLsbD e.bitNo) ∧
       p.replyWindow = byte 228 ∧ p.pollPeriod = byte 229 ∧ p.silenceLimit = half 230 ∧ p.switchLimit = half 232 ∧
       p.calLimit = half 234 ∧ p.tolZero = byte 236 ∧ p.tolSpan = byte 237 ∧ p.tDue = half 238 ∧ p.tOver = half 240 ∧
       p.holdTemp = half 242 ∧ p.holdSecs = half 244 ∧ p.maxCleaning = byte 246 ∧ p.requeue = byte 247 ∧
       p.classes = halfAt b 248 ∧ (p.updates = true ↔ byte 250 = 1) ∧ (p.autoClean = true ↔ byte 251 = 1) ∧
       (∀ l : LineNo,
         (byte (220 + 2 * l.val) ≠ 1 → t.ln l = Line.reset) ∧
         (byte (220 + 2 * l.val) = 1 →
           (byte (221 + 2 * l.val) = 1 → t.ln l = { Line.reset with state := .free, rate := .r62500 }) ∧
           (byte (221 + 2 * l.val) = 2 → t.ln l = { Line.reset with state := .free, rate := .r125000 }) ∧
           (byte (221 + 2 * l.val) = 3 → t.ln l = { Line.reset with state := .free, rate := .r250000 }))))

/-- The record's last answer, with a fault in the record: PASS_ONLY with the code and the offset. R190: a diagnostic write
follows when the fault comes after CHECK, the mirror and the summary address pass the tests of REPORT_AREA that concern them
(their alignment alone where the fault is WINDOW or WINDOW_SET), and the mirror area overlaps neither the record nor the
summary word; then the site record and the summary word are posted at the addresses the record names, with the PROFILE_BAD bit
pending. The model's own: the mirror area is taken without wrap-around (log 57), and so are the watched words and the rings of a
record whose fault is CONTROL or RING, as its fields give them, a bad offset, base or size included (log 66). Where no diagnostic
follows, the port is open at once. An ERROR to a start-up read: PASS_ONLY with READ_ERROR (code 16) at the
offset of the bytes read so far, the port open, the answers still to come disregarded. -/
def Obligations.BadProfileEntersPassOnly : Prop :=
  (∀ (data : List Word) (r : MemRequest) (rest : List Issued) (code : Byte) (off : Half) (s : State),
     s.mode = .startUp → s.AnswerFor .profile r rest → r.write = false → data.length = r.len → s.startIssued = 16 →
     512 ≤ s.startBytes.length + 4 * data.length →
     profileFault (s.startBytes ++ bytesOf data) s.profileAddr = some (code, off) →
     ∃ t, exec (.profileReadAnswer (.ok data)) s = .next t ∧
       t.mode = .passOnly ∧ t.faultCode = code ∧ t.faultOffset = off ∧ t.profile = s.profile ∧ t.lines = s.lines ∧
       t.path.issued = rest ∧
       (let b := s.startBytes ++ bytesOf data
        let mirror := (wordAt b 184).toNat
        let summary := (wordAt b 188).toNat
        let placed := fun a n : Nat =>
          ¬InWindowOf b [1, 4, 5, 6, 7] a n ∧ (∀ k < 6, ¬AreasOverlap a n ((controlArea b).1 + (wordAt b (192 + 4 * k)).toNat) 4) ∧
          (∀ k < 4, ¬AreasOverlap a n (profRing b k).base.toNat ((profRing b k).size * ringEntry k))
        let follows := 4 ≤ code.toNat ∧ code.toNat ≤ 15 ∧ mirror % 64 = 0 ∧ summary % 4 = 0 ∧
          (code ≠ 4 → code ≠ 5 → placed mirror 1152 ∧ placed summary 4) ∧
          ¬AreasOverlap mirror 1152 s.profileAddr.toNat 512 ∧ ¬AreasOverlap mirror 1152 summary 4
        (¬follows → t.path.portOpen = true ∧ t.path.posted = s.path.posted ∧ t.report.pendingSet = s.report.pendingSet) ∧
        (follows →
         t.path.portOpen = s.path.portOpen ∧ t.startWrites = true ∧ t.report.pendingSet = eventBit .profileBad ∧
         t.path.posted = s.path.posted ++
           recordWrites (profMirror (s.startBytes ++ bytesOf data) + 1024) 0
             ({ t with path := { t.path with posted := s.path.posted } } : State).siteBytes ++
           [{ addr := profSummary (s.startBytes ++ bytesOf data),
              data := [summaryWord (eventBit .profileBad) s.report.overrunSet], kind := .summary }]))) ∧
  (∀ (r : MemRequest) (rest : List Issued) (s : State),
     s.mode = .startUp → s.AnswerFor .profile r rest →
     ∃ t, exec (.profileReadAnswer .error) s = .next t ∧
       t.EndsAs { s with
         mode := .passOnly, faultCode := 16, faultOffset := BitVec.ofNat 16 s.startBytes.length,
         path := { s.path with portOpen := true, issued := disregarding (fun o => o == .profile) rest } })

/-! ## HRST -/

/-- The assertion of HRST. RUNNING: the in-flight table is discarded and answers to its requests and to a command fetch will
be disregarded; completions, the owed count and the fetch go; long commands, ABORT records and a rollout in progress are
orphaned; IRQ's set is emptied. PASS_ONLY: the in-flight table goes. During start-up only the pin. Everything else is kept.
The model's choices: an assertion of an asserted pin changes nothing (log 4), and the pin moves while RESET is asserted too
(log 5). The release of HRST. RUNNING: every ring position, C, P and the owed count are 0, the stopped mark is clear, both
event sets and IRQ's set are empty, every open call is UNPOSTED in its place, and every mirror record and the summary word are
owed. Elsewhere only the pin moves. The model's choices: a release of a pin that is not asserted changes nothing (log 4), the
pin moves while RESET is asserted too (log 5), and `startUnderHrst`, by which start-up's own writes are served under HRST, is
a field of the model's, which the release clears (log 23). -/
def Obligations.HostRestarts : Prop :=
  (∀ s : State,
     (s.hrst = false → s.mode = .running →
       ∃ t, exec .hrstAssert s = .next t ∧
         t.EndsAs { s with
           hrst := true,
           path := { s.path with
             inflight := [], procCount := 0, issued := disregarding (fun o => o == .processor || o == .command) s.path.issued },
           command := { s.command with
             fetch := .unset, owed := 0, completions := [],
             longs := s.command.longs.map (fun x => { x with orphaned := true }) },
           cache := { s.cache with aborts := s.cache.aborts.map (fun a => { a with orphaned := true }) },
           update := { s.update with
             rollout := { s.update.rollout with
               orphaned := s.update.rollout.orphaned || s.update.rollout.state == .active ||
                 s.update.rollout.state == .halting } },
           report := { s.report with signalled := 0 } }) ∧
     (s.hrst = false → s.mode = .passOnly →
       ∃ t, exec .hrstAssert s = .next t ∧
         t.EndsAs { s with
           hrst := true,
           path := { s.path with
             inflight := [], procCount := 0, issued := disregarding (fun o => o == .processor) s.path.issued } }) ∧
     (s.hrst = false → s.mode = .inReset ∨ s.mode = .startUp → exec .hrstAssert s = .next { s with hrst := true }) ∧
     (s.hrst = true → exec .hrstAssert s = .next s)) ∧
  (∀ s : State,
     (s.hrst = true → s.mode = .running →
       ∃ t, exec .hrstRelease s = .next t ∧
         t.EndsAs { s with
           hrst := false, startUnderHrst := false,
           command := { s.command with c := 0, p := 0, owed := 0, stopped := false },
           service := { s.service with calls := s.service.calls.map (fun c => { c with state := .unposted }) },
           report := { s.report with
             complProd := 0, complCons := 0, svcProd := 0, svcCons := 0, jrnProd := 0, jrnCons := 0, pendingSet := 0,
             overrunSet := 0, signalled := 0 } } ∧
         t.report.rewriteList = allRewrites) ∧
     (s.hrst = true → s.mode ≠ .running → exec .hrstRelease s = .next { s with hrst := false, startUnderHrst := false }) ∧
     (s.hrst = false → exec .hrstRelease s = .next s))

/-- While HRST is asserted or the part is not RUNNING, no command is taken and no watched word acts (R55, R170, R183; log 1). -/
def Obligations.SoftwareRowsNeedRunningWithoutHrst : Prop :=
  ∀ (c : Instr) (s : State), fromSoftware c = true → s.hears = false → exec c s = .next s

/-! ## The processor port -/

/-- A request that is not of the port's shape is refused (log 8); one presented while the port is not-ready, while HRST is
asserted, before start-up opens the port, or while the table holds eight entries, is not taken. A request taken joins the
table, and the processor side goes on (R50), in RUNNING as in PASS_ONLY. While every older entry is decided, ISSUED or
ANSWERED, it becomes the head and is decided at once: REQUESTING, HELD, or ANSWERED without memory, refused requests and
dropped writes with GUARD at their address (no event is raised in PASS_ONLY); behind a head that is HELD or REQUESTING it
stays WAITING. What `settlePort` does is said for every table: the oldest undecided entry is decided, one answered at once
makes the next one the head, and the ANSWERED entries at the front are delivered in order. -/
def Obligations.RequestTakenAndDecided : Prop :=
  (∀ (r : ProcRequest) (s : State),
     (r.req.wf = false → exec (.processorRequest r) s = .refused .requestShape) ∧
     (r.req.wf = true → s.path.portOpen = false ∨ s.hrst = true ∨ 8 ≤ s.path.inflight.length →
       ∃ t, exec (.processorRequest r) s = .next t ∧ t.EndsAs s)) ∧
  ((∀ (r : ProcRequest) (s : State), r.req.wf = true → s.path.portOpen = true → s.hrst = false → s.path.inflight.length < 8 →
     NoneReady s.path.inflight →
     (∃ t, exec (.processorRequest r) s = .next t ∧
       t.EndsAs (settlePort { s with path := { s.path with
         inflight := s.path.inflight ++ [{ req := r, state := .waiting, good := false, data := [] }] } })) ∧
     (Decided s.path.inflight →
       ∃ t, exec (.processorRequest r) s = .next t ∧
         (s.decision r.req = .request →
           t.EndsAs { s with path := { s.path with
             inflight := s.path.inflight ++ [{ req := r, state := .requesting, good := false, data := [] }] } }) ∧
         (s.decision r.req = .hold →
           t.EndsAs { s with path := { s.path with
             inflight := s.path.inflight ++ [{ req := r, state := .held, good := false, data := [] }] } }) ∧
         (∀ good, s.decision r.req = .answer good → s.path.inflight ≠ [] →
           t.EndsAs { s.guardRefused r.req.addr with
             path := { s.path with
               capGuard := s.path.capGuard.offer r.req.addr,
               inflight := s.path.inflight ++
                 [({ req := r, state := .waiting, good := false, data := [] } : InFlight).answer good []] } }) ∧
         (∀ good, s.decision r.req = .answer good → s.path.inflight = [] →
           t.EndsAs { s.guardRefused r.req.addr with
             path := { s.path with
               capGuard := s.path.capGuard.offer r.req.addr,
               responses := s.path.responses ++
                 [{ tag := r.tag, good := good,
                    data := if r.req.write ∨ good = true then [] else List.replicate r.req.len 0 }] } })) ∧
     (∀ older head waiting, s.path.inflight = older ++ head :: waiting → Decided older →
       head.state = .held ∨ head.state = .requesting →
       ∃ t, exec (.processorRequest r) s = .next t ∧
         t.EndsAs { s with path := { s.path with
           inflight := s.path.inflight ++ [{ req := r, state := .waiting, good := false, data := [] }] } })) ∧
   (∀ s : State,
     (∀ ready rest, s.path.inflight = ready ++ rest → (∀ x ∈ ready, x.state = .answered) → NoneReady rest →
       (Decided rest ∨ ∃ older head later, rest = older ++ head :: later ∧ Decided older ∧
         (head.state = .held ∨ head.state = .requesting)) →
       settlePort s = { s with path := { s.path with
         inflight := rest,
         responses := s.path.responses ++ ready.map (fun x => { tag := x.req.tag, good := x.good, data := x.data }) } }) ∧
     (∀ older e later, s.path.inflight = older ++ e :: later → Decided older → e.state = .waiting →
       (s.decision e.req.req = .request →
         settlePort s = settlePort { s with path := { s.path with
           inflight := older ++ { e with state := .requesting } :: later } }) ∧
       (s.decision e.req.req = .hold →
         settlePort s = settlePort { s with path := { s.path with
           inflight := older ++ { e with state := .held } :: later } }) ∧
       (∀ good, s.decision e.req.req = .answer good →
         (settlePort s).EndsAs (settlePort { s.guardRefused e.req.req.addr with path := { s.path with
           capGuard := s.path.capGuard.offer e.req.req.addr, inflight := older ++ e.answer good [] :: later } })))))

/-- R52, R56: the window of a request. A burst past the top of the address space is refused; in PASS_ONLY every other request
is PLAIN; where no two windows have an address in common, a burst whose words all lie in one window has that window, one with
no word in any window is PLAIN, and one with a word in a window and a word outside it is refused. A read is covered when a
posted write writes a word that it reads; words of a posted burst past the top of the address space are not wrapped to its
bottom (the model's choice, log 60). R58: a request at offset o from its window's base names recipe slot o ÷ 512, and its burst
spans slots when two of its words lie in two slots; bank b of slot s starts (2s + b) × 512 past the store base. What each
window class decides for a request at the head of the processor-side order (R52-R58). What the issue-time test makes of a
request by its window class (R53-R60): where it is issued, or why it is not. -/
def Obligations.DecisionAndIssueTestByWindowClass : Prop :=
  (∀ (s : State) (r : MemRequest),
     (2 ^ 32 < r.addr.toNat + 4 * r.len → s.classify r = .refused) ∧
     (r.addr.toNat + 4 * r.len ≤ 2 ^ 32 → s.mode = .passOnly → s.classify r = .plain) ∧
     (r.addr.toNat + 4 * r.len ≤ 2 ^ 32 → s.mode ≠ .passOnly → 0 < r.len →
       let inW := fun (w : Window) (k : Nat) =>
         w.base.toNat ≤ r.addr.toNat + 4 * k ∧ r.addr.toNat + 4 * k < w.base.toNat + w.size
       ((∀ w ∈ s.profile.windows, ∀ k < r.len, ¬inW w k) → s.classify r = .plain) ∧
       (∀ w ∈ s.profile.windows, (∀ v ∈ s.profile.windows, ∀ k, inW v k → inW w k → v = w) →
         ((∀ k < r.len, inW w k) → s.classify r = .inside w) ∧
         (∀ j < r.len, ∀ k < r.len, inW w j → ¬inW w k → s.classify r = .refused))) ∧
     (s.covered r = true ↔
       ∃ p ∈ s.path.posted, ∃ j < p.data.length, ∃ k < r.len, p.addr.toNat + 4 * j = r.addr.toNat + 4 * k)) ∧
  (∀ (w : Window) (r : MemRequest), w.base.toNat ≤ r.addr.toNat → 0 < r.len →
     let o := r.addr.toNat - w.base.toNat
     (spansSlots w r = true ↔ ∃ j < r.len, ∃ k < r.len, (o + 4 * j) / 512 ≠ (o + 4 * k) / 512) ∧
     (o / 512 < 64 → (recipeNoOf w r).val = o / 512)) ∧
  (∀ (base : Word) (q : RecipeNo) (b : Fin 2),
     bankAddr base q b = base + BitVec.ofNat 32 ((2 * q.val + b.val) * 512) ∧ (otherBank b).val = 1 - b.val) ∧
  (∀ (s : State) (r : MemRequest),
     (s.classify r = .refused → s.decision r = .answer false) ∧
     (s.classify r = .plain → s.decision r = .request) ∧
     ∀ w, s.classify r = .inside w →
       (w.cls = .report → r.write = true → s.decision r = .answer true) ∧
       (w.cls = .report → r.write = false → s.covered r = true → s.decision r = .hold) ∧
       (w.cls = .report → r.write = false → s.covered r = false → s.decision r = .request) ∧
       (w.cls = .recipeStore → s.decision r = .answer false) ∧
       (w.cls = .recipeLive → r.write = true → s.decision r = .answer false) ∧
       (w.cls = .recipeLive ∨ w.cls = .recipeDraft → spansSlots w r = true → s.decision r = .answer false) ∧
       (w.cls = .recipeLive → r.write = false → spansSlots w r = false → s.decision r = .request) ∧
       (w.cls = .recipeDraft → spansSlots w r = false → s.decision r = .request) ∧
       (w.cls = .profile ∨ w.cls = .control ∨ w.cls = .image → s.decision r = .request)) ∧
  (∀ (s : State) (r : MemRequest),
     (s.classify r = .plain → s.issueTest r = .issue r.addr) ∧
     ∀ w, s.classify r = .inside w →
       (w.cls = .profile → r.write = true → s.path.profileOpen = false → s.issueTest r = .guard) ∧
       (w.cls = .profile → r.write = false ∨ s.path.profileOpen = true → s.issueTest r = .issue r.addr) ∧
       (w.cls = .control → s.issueTest r = .issue r.addr) ∧
       (w.cls = .report → s.covered r = true → s.issueTest r = .hold) ∧
       (w.cls = .report → s.covered r = false → s.issueTest r = .issue r.addr) ∧
       (w.cls = .recipeLive → s.issueTest r = .issue (s.storeBase +
         BitVec.ofNat 32 ((2 * (recipeNoOf w r).val + (s.rslot (recipeNoOf w r)).bank.val) * 512) +
         BitVec.ofNat 32 ((r.addr.toNat - w.base.toNat) % 512))) ∧
       (w.cls = .recipeDraft → r.write = true → (s.rslot (recipeNoOf w r)).publish ≠ .idle → s.issueTest r = .clash) ∧
       (w.cls = .recipeDraft → r.write = false ∨ (s.rslot (recipeNoOf w r)).publish = .idle →
         s.issueTest r = .issue (s.storeBase +
           BitVec.ofNat 32 ((2 * (recipeNoOf w r).val + (1 - (s.rslot (recipeNoOf w r)).bank.val)) * 512) +
           BitVec.ofNat 32 ((r.addr.toNat - w.base.toNat) % 512))) ∧
       (w.cls = .image → r.write = true → s.update.image.state = .verifying ∨ s.update.image.state = .inRollout →
         s.issueTest r = .clash) ∧
       (w.cls = .image → r.write = false ∨ (s.update.image.state ≠ .verifying ∧ s.update.image.state ≠ .inRollout) →
         s.issueTest r = .issue r.addr))

/-! ## The arbiter -/

/-- Which requester a grant goes to: a due bulk requester, else a due processor requester, else in the order of the arbiter's
mode (R64, R66). Nothing is granted while eight issued requests await their answers, or while no one asks; and outside RUNNING
and PASS_ONLY the row changes nothing. -/
def Obligations.ArbiterChoosesInOrder : Prop :=
  (∀ s : State,
     (16 ≤ s.path.bulkCount → s.bulkAsking = true → s.chosen = some .bulk) ∧
     (16 ≤ s.path.procCount → s.procAsking = true → s.path.bulkCount < 16 ∨ s.bulkAsking = false → s.chosen = some .proc) ∧
     (s.path.bulkCount < 16 ∨ s.bulkAsking = false → s.path.procCount < 16 ∨ s.procAsking = false →
       (s.path.arbMode = .normal →
         (s.procAsking = true → s.chosen = some .proc) ∧
         (s.procAsking = false → s.path.posted ≠ [] → s.chosen = some .posted) ∧
         (s.procAsking = false → s.path.posted = [] → s.bulkAsking = true → s.chosen = some .bulk)) ∧
       (s.path.arbMode = .drain →
         (s.path.posted ≠ [] → s.chosen = some .posted) ∧
         (s.path.posted = [] → s.procAsking = true → s.chosen = some .proc) ∧
         (s.path.posted = [] → s.procAsking = false → s.bulkAsking = true → s.chosen = some .bulk))) ∧
     (s.procAsking = false → s.path.posted = [] → s.bulkAsking = false → s.chosen = none)) ∧
  (∀ s : State,
     (s.mode = .running ∨ s.mode = .passOnly → 8 ≤ s.path.issued.length ∨ s.chosen = none →
       ∃ t, exec .arbiterGrant s = .next t ∧ t.EndsAs s) ∧
     (s.mode = .inReset ∨ s.mode = .startUp → exec .arbiterGrant s = .next s))

/-- A grant to the posted requester: the oldest posted write leaves the queue and is issued with every byte enabled; seven or
fewer entries left bring the mode back to NORMAL; the counters of the requesters that ask rise; a summary word sets IRQ's set
(R181), and the one of start-up opens the port (R189). A HELD head is tested again, and asks once no posted write covers it.
What no owner of a posted write owns is unchanged. The same grant is made where the processor requester was chosen and its
head was turned away (R53, R64): the processor side is then as the refusal or the hold left it, and the processor counter does
not rise. A grant to the processor requester whose head is a read that its issue-time test lets through: it is issued at the
address the test gives, its entry becomes ISSUED, the processor counter returns to 0, and no owner's state changes; the next
entry becomes the head and is decided (R50). -/
def Obligations.PostedAndReadGrants : Prop :=
  (∀ (w : PostedWrite) (rest : List PostedWrite) (s z : State),
     s.mode = .running ∨ s.mode = .passOnly → s.path.issued.length < 8 → s.path.posted = w :: rest →
     (s.chosen = some .posted ∧ z = s) ∨ s.TurnedAway z →
     ∃ t, exec .arbiterGrant s = .next t ∧
       t.path.issued = s.path.issued ++
         [{ owner := .posted w.kind,
            req := { write := true, addr := w.addr, len := w.data.length, data := w.data,
                     enables := List.replicate w.data.length 0xF },
            disregard := false }] ∧
       t.path.posted = rest ∧
       t.path.arbMode = (if rest.length ≤ 7 then .normal else s.path.arbMode) ∧
       t.path.bulkCount = (if s.bulkAsking then min 16 (s.path.bulkCount + 1) else 0) ∧
       (s.chosen = some .posted → t.path.procCount =
         (if t.procAsking then (if s.procAsking then min 16 (s.path.procCount + 1) else s.path.procCount) else 0)) ∧
       (s.chosen = some .proc → t.path.procCount = (if t.procAsking ∧ z.procAsking then s.path.procCount else 0)) ∧
       t.report.signalled = (if w.kind = .summary ∧ s.hears = true then (w.data.headD 0).setWidth 11 else s.report.signalled) ∧
       t.path.portOpen = (s.path.portOpen || (w.kind == .summary && s.startWrites)) ∧
       t.startWrites = (s.startWrites && w.kind != .summary) ∧
       t.mode = s.mode ∧ t.hrst = s.hrst ∧ t.lines = s.lines ∧ t.roster = s.roster ∧ t.recipe = s.recipe ∧
       t.cache = s.cache ∧ t.hygiene = s.hygiene ∧ t.service = s.service ∧ t.update = s.update ∧ t.command = s.command ∧
       t.path.bulkNext = s.path.bulkNext ∧ t.path.capFetch = s.path.capFetch ∧ t.path.capReport = s.path.capReport ∧
       t.path.capRecipe = s.path.capRecipe ∧ t.path.capImage = s.path.capImage ∧
       (NoneReady z.path.inflight →
         (Decided z.path.inflight → t.path.inflight = z.path.inflight) ∧
         (∀ (older later : List InFlight) (e : InFlight), z.path.inflight = older ++ e :: later → Decided older →
           (∀ x ∈ later, x.state = .waiting) →
           (e.state = .requesting → t.path.inflight = z.path.inflight) ∧
           (e.state = .held → t.path.inflight = older ++ { e with state :=
             if ({ s with path := { s.path with posted := rest } } : State).covered e.req.req then .held
             else .requesting } :: later)) ∧
         (Decided z.path.inflight ∨ (∃ older e later, z.path.inflight = older ++ e :: later ∧ Decided older ∧
             (e.state = .requesting ∨ e.state = .held)) →
           t.path.responses = z.path.responses ∧ t.path.capGuard = z.path.capGuard ∧
           t.report.pendingSet = z.report.pendingSet ∧ t.report.overrunSet = z.report.overrunSet))) ∧
  (∀ (older later : List InFlight) (e : InFlight) (a : Word) (s : State),
     s.mode = .running ∨ s.mode = .passOnly → s.path.issued.length < 8 → s.chosen = some .proc →
     s.path.inflight = older ++ e :: later → Decided older → NoneReady older → e.state = .requesting →
     e.req.req.write = false → s.issueTest e.req.req = .issue a →
     ∃ t, exec .arbiterGrant s = .next t ∧
       t.EndsAs (settlePort { s with path := { s.path with
         issued := s.path.issued ++ [{ owner := .processor, req := { e.req.req with addr := a }, disregard := false }],
         inflight := older ++ { e with state := .issued } :: later } }) ∧
       t.path.issued = s.path.issued ++
         [{ owner := .processor, req := { e.req.req with addr := a }, disregard := false }] ∧
       (∃ tail, t.path.inflight = older ++ { e with state := .issued } :: tail) ∧
       (later = [] → t.path.inflight = older ++ [{ e with state := .issued }]) ∧ t.path.procCount = 0 ∧
       t.path.posted = s.path.posted ∧ t.path.arbMode = s.path.arbMode ∧ t.path.responses = s.path.responses ∧
       t.path.bulkCount = (if s.bulkAsking then min 16 (s.path.bulkCount + 1) else 0) ∧
       t.mode = s.mode ∧ t.hrst = s.hrst ∧ t.lines = s.lines ∧ t.roster = s.roster ∧ t.recipe = s.recipe ∧
       t.cache = s.cache ∧ t.hygiene = s.hygiene ∧ t.service = s.service ∧ t.update = s.update ∧ t.command = s.command)

/-- A grant to the processor requester whose head is a write that its issue-time test lets through: it is issued at the
address the test gives, and its owner learns of it at that moment. A PLAIN or PROFILE write tells no one; a RECIPE_DRAFT write
with a byte enabled marks its slot written; an IMAGE write is taken into the stream watch; the words of a CONTROL write are
handed over in rising order, word k with its data and enables from 4k bytes past the request's address; a watched word with all
four bytes enabled acts as its row does, any other not at all. The image check takes bytes 16 to 19 of the image as 0 and every
other byte as written (R149). A processor request that its issue-time test refuses is answered ERROR, with zero data for a read: GUARD is recorded in the
guard capture, CLASH is not; memory is not asked. It is delivered in its turn, the next entry becomes the head and is decided
(`settlePort`), and the arbiter chooses again without the processor requester: the posted-write queue, else a bulk read (the
grants that follow are said of every TurnedAway head in PostedAndReadGrants and BulkReadGranted), else nothing. One that its
test holds back is HELD again. -/
def Obligations.ProcessorWriteGranted : Prop :=
  ((∀ (older later : List InFlight) (e : InFlight) (a : Word) (s : State),
     s.mode = .running ∨ s.mode = .passOnly → s.path.issued.length < 8 → s.chosen = some .proc →
     s.path.inflight = older ++ e :: later → Decided older → NoneReady older → e.state = .requesting →
     e.req.req.write = true → s.issueTest e.req.req = .issue a →
     let r := e.req.req
     let x : State := { s with path := { s.path with
       issued := s.path.issued ++ [{ owner := .processor, req := { r with addr := a }, disregard := false }],
       inflight := older ++ { e with state := .issued } :: later } }
     ∃ t, exec .arbiterGrant s = .next t ∧ t.path.procCount = 0 ∧
       t.path.bulkCount =
         (if t.bulkAsking then (if s.bulkAsking then min 16 (s.path.bulkCount + 1) else s.path.bulkCount) else 0) ∧
       (later = [] → t.path.inflight = older ++ [{ e with state := .issued }]) ∧ t.path.responses = s.path.responses ∧
       (s.classify r = .plain → t.EndsAs (settlePort x)) ∧
       (∀ w, s.classify r = .inside w →
         (w.cls = .profile → t.EndsAs (settlePort x)) ∧
         (w.cls = .control → t.EndsAs (settlePort ((MemRequest.writtenWords r).foldl watchOne x))) ∧
         (w.cls = .recipeDraft → (∃ b ∈ r.enables, b ≠ 0) →
           t.EndsAs (settlePort (x.setRslot (recipeNoOf w r) { s.rslot (recipeNoOf w r) with written := true }))) ∧
         (w.cls = .recipeDraft → (∀ b ∈ r.enables, b = 0) → t.EndsAs (settlePort x)) ∧
         (w.cls = .image →
           t.EndsAs (settlePort { x with update := { s.update with
             image := s.update.image.takeWrite (r.addr.toNat - w.base.toNat) r.data r.enables } })))) ∧
   (∀ (y : State) (a : Nat) (v : Word) (en : BitVec 4),
     (en ≠ 0xF ∨ (∀ o ∈ y.profile.watched, a ≠ y.controlBase + o.toNat) → watchOne y (a, v, en) = y) ∧
     (y.hears = true → y.profile.watched.Nodup → ∀ (k : Nat) (c : Instr) (o : Word),
       [Instr.commandProducerIndexWrite v, .completionConsumerIndexWrite v, .serviceConsumerIndexWrite v,
         .journalConsumerIndexWrite v, .eventAcknowledgeWrite v, .siteClockLoadWrite v][k]? = some c →
       y.profile.watched[k]? = some o →
       ∃ u, exec c y = .next u ∧ u.EndsAs (watchOne y (y.controlBase + o.toNat, v, 0xF))) ∧
     (∀ before w after, y.profile.windows = before ++ w :: after → (∀ z ∈ before, z.cls ≠ .control) → w.cls = .control →
       y.controlBase = w.base.toNat) ∧
     ((∀ o ∈ y.profile.watched, a ≠ y.controlBase + o.toNat) → y.watchedAt a = none) ∧
     (y.profile.watched.Nodup → ∀ (k : Nat) (o : Word), y.profile.watched[k]? = some o →
       y.watchedAt (y.controlBase + o.toNat) = some k)) ∧
   (∀ q : MemRequest, q.data.length = q.len → q.enables.length = q.len →
     (MemRequest.writtenWords q).length = q.len ∧
     (∀ (k : Nat) (v : Word) (en : BitVec 4), q.data[k]? = some v → q.enables[k]? = some en →
       (MemRequest.writtenWords q)[k]? = some (q.addr.toNat + 4 * k, v, en))) ∧
   (∀ (off : Nat) (l : List Byte) (k : Nat),
     (maskImageBytes off l)[k]? = l[k]?.map (fun b => if 16 ≤ off + k ∧ off + k < 20 then 0 else b)) ∧
   (∀ (m : ImageRec) (off : Nat) (data : List Word) (enables : List (BitVec 4)), data ≠ [] → enables.length = data.length →
     ((∀ b ∈ enables, b = 0) → m.takeWrite off data enables = m) ∧
     ((∀ b ∈ enables, b = 0xF) → off = 0 →
       m.takeWrite off data enables =
         { state := .filling, expected := 4 * data.length, acc := crc32 (maskImageBytes 0 (bytesOf data)), staged := none,
           head := none, reason := .unset }) ∧
     ((∀ b ∈ enables, b = 0xF) → off ≠ 0 → m.state = .filling → off = m.expected →
       m.takeWrite off data enables =
         { m with expected := m.expected + 4 * data.length, acc := imageCheckFrom m.acc off (bytesOf data) }) ∧
     ((∃ b ∈ enables, b ≠ 0) → (∃ b ∈ enables, b ≠ 0xF) ∨ (off ≠ 0 ∧ (m.state ≠ .filling ∨ off ≠ m.expected)) →
       m.takeWrite off data enables =
         { state := .broken, expected := 0, acc := 0, staged := none, head := none, reason := .unset })) ∧
   (∀ l k : List Byte,
     imageCheckFrom (crc32 (maskImageBytes 0 l)) l.length k = crc32 (maskImageBytes 0 (l ++ k)))) ∧
  ((∀ s z : State, s.mode = .running ∨ s.mode = .passOnly → s.path.issued.length < 8 → s.TurnedAway z → s.path.posted = [] →
     s.bulkAsking = false → ∃ t, exec .arbiterGrant s = .next t ∧ t.EndsAs z) ∧
   (∀ (e : InFlight) (s : State), s.hears = true → s.path.issued.length < 8 → s.chosen = some .proc →
     s.path.inflight = [e] → e.state = .requesting → s.path.posted = [] → s.bulkAsking = false →
     ∃ t, exec .arbiterGrant s = .next t ∧
       (s.issueTest e.req.req = .guard →
         t.EndsAs { s with
           report := s.report.raising .guard,
           path := { s.path with
             inflight := [], capGuard := s.path.capGuard.offer e.req.req.addr,
             responses := s.path.responses ++
               [{ tag := e.req.tag, good := false,
                  data := if e.req.req.write then [] else List.replicate e.req.req.len 0 }] } }) ∧
       (s.issueTest e.req.req = .clash →
         t.EndsAs { s with
           report := s.report.raising .clash,
           path := { s.path with
             inflight := [],
             responses := s.path.responses ++
               [{ tag := e.req.tag, good := false,
                  data := if e.req.req.write then [] else List.replicate e.req.req.len 0 }] } })) ∧
   (∀ (e : InFlight) (w : PostedWrite) (rest : List PostedWrite) (s : State), s.hears = true → s.path.issued.length < 8 →
     s.chosen = some .proc → s.path.inflight = [e] → e.state = .requesting → s.path.posted = w :: rest →
     s.issueTest e.req.req = .hold →
     ∃ t, exec .arbiterGrant s = .next t ∧
       t.path.issued = s.path.issued ++
         [{ owner := .posted w.kind,
            req := { write := true, addr := w.addr, len := w.data.length, data := w.data,
                     enables := List.replicate w.data.length 0xF },
            disregard := false }] ∧
       t.path.posted = rest ∧ t.path.responses = s.path.responses ∧
       t.path.inflight = [{ e with state :=
         if ({ s with path := { s.path with posted := rest } } : State).covered e.req.req then .held else .requesting }] ∧
       t.lines = s.lines ∧ t.roster = s.roster ∧ t.recipe = s.recipe ∧ t.cache = s.cache ∧ t.hygiene = s.hygiene ∧
       t.service = s.service ∧ t.update = s.update ∧ t.command = s.command))

/-- A grant to the bulk requester: the first client with a read waiting, in the round that begins after the client granted
last, has its read issued; the round moves on, the bulk counter returns to 0, the processor counter rises while the processor
requester asks, and the client goes on to its next read. The same grant is made where the processor requester was chosen, its
head was turned away and the posted-write queue is empty (R53, R64): the processor side is then as that left it, and the
processor counter does not rise. The reads that the seven clients of R63 have waiting, each with its address and its length of
at most eight words: the entry of the command ring that the consumer position names (R170); the draft at the head of the
publish list, its header and then its steps (R76); the live bank of a fill whose recipe is not read whole yet, unless it is
abandoned (R99, R78; no read of an abandoned fill is log 16); the image in VERIFYING (R151), and else the oldest block read of
the rollout (R157). -/
def Obligations.BulkReadGranted : Prop :=
  (∀ (k : Fin 7) (o : IssueOwner) (r : MemRequest) (s z : State),
     s.mode = .running ∨ s.mode = .passOnly → s.path.issued.length < 8 →
     (s.chosen = some .bulk ∧ z = s) ∨ (s.TurnedAway z ∧ s.path.posted = []) →
     s.clientRead (s.path.bulkNext + k) = some (o, r) →
     (∀ j : Fin 7, j.val < k.val → s.clientRead (s.path.bulkNext + j) = none) →
     ∃ t, exec .arbiterGrant s = .next t ∧
       t.path.issued = s.path.issued ++ [{ owner := o, req := r, disregard := false }] ∧
       t.path.bulkNext = s.path.bulkNext + k + 1 ∧ t.path.bulkCount = 0 ∧
       t.path.procCount = (if z.procAsking then
           (if s.chosen = some .bulk then min 16 (s.path.procCount + 1) else s.path.procCount)
         else 0) ∧
       t.path.inflight = z.path.inflight ∧ t.path.responses = z.path.responses ∧ t.path.capGuard = z.path.capGuard ∧
       t.report.pendingSet = z.report.pendingSet ∧ t.report.overrunSet = z.report.overrunSet ∧
       t.path.posted = s.path.posted ∧ t.path.arbMode = s.path.arbMode ∧ t.roster = s.roster ∧
       t.service = s.service ∧ t.hygiene = s.hygiene ∧ t.cache = s.cache ∧
       t.command = (if o = .command then { s.command with fetch := .issued } else s.command) ∧
       t.recipe = (if o = .publish then
           { s.recipe with engine := s.recipe.engine.map (fun e => { e with issued := e.issued + 1 }) }
         else s.recipe) ∧
       (∀ l : LineNo, t.ln l = (if o = .fill l then
           { s.ln l with fill := (s.ln l).fill.map (fun f => { f with issued := f.issued + 1 }) }
         else s.ln l)) ∧
       (o = .verify →
         t.update = { s.update with verify := s.update.verify.map (fun v => { v with issued := v.issued + 1 }) }) ∧
       (∀ i, o = .block i → t.update = { s.update with blockReads := s.update.blockReads.tail }) ∧
       (o ≠ .verify → (∀ i, o ≠ .block i) → t.update = s.update)) ∧
  (∀ s : State,
     let burst := fun (base : Word) (length n : Nat) =>
       ({ write := false, addr := base + BitVec.ofNat 32 (32 * n), len := min 8 ((length - 32 * n) / 4), data := [],
          enables := [] } : MemRequest)
     (s.command.fetch ≠ .waiting → s.clientRead 0 = none) ∧
     (s.command.fetch = .waiting → s.clientRead 0 = some (.command,
       { write := false, addr := s.profile.command.base + BitVec.ofNat 32 (s.command.c.toNat % s.profile.command.size * 32),
         len := 8, data := [], enables := [] })) ∧
     (s.recipe.engine = none → s.clientRead 1 = none) ∧
     (∀ e, s.recipe.engine = some e →
       (e.header = none → e.issued = 0 → s.clientRead 1 = some (.publish, burst e.base 32 0)) ∧
       (e.header = none → e.issued ≠ 0 → s.clientRead 1 = none) ∧
       (∀ h, e.header = some h →
         (32 * e.issued < 32 + 16 * h.steps →
           s.clientRead 1 = some (.publish, burst e.base (32 + 16 * h.steps) e.issued)) ∧
         (32 + 16 * h.steps ≤ 32 * e.issued → s.clientRead 1 = none))) ∧
     (∀ (l : LineNo) (c : Fin 7), c.val = 2 + l.val →
       ((s.ln l).fill = none → s.clientRead c = none) ∧
       (∀ f, (s.ln l).fill = some f →
         (f.streaming = false → f.abandoned = false → 32 * f.issued < f.used →
           s.clientRead c = some (.fill l, burst f.base f.used f.issued)) ∧
         (f.streaming = true ∨ f.abandoned = true ∨ f.used ≤ 32 * f.issued → s.clientRead c = none))) ∧
     (∀ (v : Verify) (len : Nat) (check : Word), s.update.verify = some v → s.update.image.staged = some (len, check) →
       (32 * v.issued < len → s.clientRead 6 = some (.verify, burst s.imageBase len v.issued)) ∧
       (len ≤ 32 * v.issued → s.clientRead 6 = none)) ∧
     (s.update.verify = none ∨ s.update.image.staged = none →
       (s.update.blockReads = [] → s.clientRead 6 = none) ∧
       (∀ b rest, s.update.blockReads = b :: rest → s.clientRead 6 = some (.block b.slot,
         { write := false, addr := b.addr, len := 8, data := [], enables := [] }))) ∧
     (∀ w, s.profile.windows.find? (fun w => w.cls == .image) = some w → s.imageBase = w.base) ∧
     (∀ w, s.profile.windows.find? (fun w => w.cls == .recipeStore) = some w → s.storeBase = w.base))

/-! ## Memory's answers -/

/-- An answer to a processor request moves the oldest in-flight entry to ANSWERED with memory's status, and its response is
delivered, with the data of a read or zeros for an ERROR. Entries behind it that had their answer already have waited for it:
their responses follow in the order of the table, up to the first that has none (R50). A disregarded answer is dropped. The
answer to a posted write: OK changes nothing more; ERROR latches the REPORT_WRITE capture with the FAULT event, or marks it
overrun, and raises the URGENT site call MEMORY_FAULT with the write's address and the kind of record. Where the call table is
full and holds no acknowledged call, that raise is dropped: the site record is owed, whether or not the dropped flag was set
before, and so is the summary word (R137). An answer row acts on the oldest request that memory still owes an answer when that
request is of the row's owner, and on nothing otherwise (log 7): the row changes nothing where no request is left, and where
the oldest is another owner's. The answer to a request issued before a part reset ends that request and does nothing else
(R69); such requests are older than all issued since (the model's reading, log 50). An answer with another word count than the
read asked for stops the model (log 8). -/
def Obligations.MemoryAnswers : Prop :=
  ((∀ (r : MemRequest) (rest : List Issued) (s : State),
      (∀ (e : InFlight) (ready later : List InFlight) (data : List Word), s.AnswerFor .processor r rest →
        s.path.inflight = e :: (ready ++ later) → e.state = .issued → (∀ x ∈ ready, x.state = .answered) →
        (∀ x, later.head? = some x → x.state ≠ .answered) →
        (∀ x older newer, later = older ++ x :: newer → x.state = .waiting →
          ∃ y ∈ older, y.state = .held ∨ y.state = .requesting) →
        let waited := ready.map (fun x => { tag := x.req.tag, good := x.good, data := x.data : Response })
        data.length = (if r.write then 0 else r.len) →
        (∃ t, exec (.processorAnswer (.ok data)) s = .next t ∧
          t.EndsAs { s with path := { s.path with
            issued := rest, inflight := later,
            responses := s.path.responses ++
              { tag := e.req.tag, good := true, data := if e.req.req.write then [] else data } :: waited } }) ∧
        (∃ t, exec (.processorAnswer .error) s = .next t ∧
          t.EndsAs { s with path := { s.path with
            issued := rest, inflight := later,
            responses := s.path.responses ++
              { tag := e.req.tag, good := false,
                data := if e.req.req.write then [] else List.replicate e.req.req.len 0 } :: waited } })) ∧
      (∀ a : MemAnswer, s.oldIssued = [] → s.path.issued = { owner := .processor, req := r, disregard := true } :: rest →
        ∃ t, exec (.processorAnswer a) s = .next t ∧ t.EndsAs { s with path := { s.path with issued := rest } })) ∧
   (∀ (kind : RecordKind) (r : MemRequest) (rest : List Issued) (s : State), s.AnswerFor (.posted kind) r rest → r.write = true →
      (∃ t, exec (.postedWriteAnswer (.ok [])) s = .next t ∧ t.EndsAs { s with path := { s.path with issued := rest } }) ∧
      (∃ t, exec (.postedWriteAnswer .error) s = .next t ∧
        t.EndsAs (raiseCall .site .memoryFault .urgent [r.addr, kind.code.setWidth 32] (offerFault .report r.addr (s.answered rest)))) ∧
      (∀ (c : Call) (before after : List Call), s.mode = .running → s.CallKeysDistinct → s.service.calls = before ++ c :: after →
        c.source = .site → c.cause = .memoryFault →
        ∃ t, exec (.postedWriteAnswer .error) s = .next t ∧
          t.service = { s.service with
            calls := before ++
              { c with
                repeats := min 255 (c.repeats + 1), details := [r.addr, kind.code.setWidth 32], lastRaised := s.report.clock,
                severity := if c.severity.rank < 2 then .urgent else c.severity,
                escalated := c.escalated || decide (c.severity.rank < 2),
                state := if c.severity.rank < 2 then .unposted else c.state } :: after }) ∧
      (s.hears = true → (∀ c ∈ s.service.calls, ¬(c.source = .site ∧ c.cause = .memoryFault)) →
        s.service.calls.length < 32 →
        ∃ t, exec (.postedWriteAnswer .error) s = .next t ∧
          t.EndsAs { s with
            path := { s.path with issued := rest, capReport := s.path.capReport.offer r.addr },
            report := s.report.faulted s.path.capReport,
            service := { s.service with
              calls := s.service.calls ++
                [{ source := .site, cause := .memoryFault, severity := .urgent, state := .unposted,
                   raiseNo := s.service.nextRaise, raised := s.report.clock, lastRaised := s.report.clock, repeats := 1,
                   escalated := false, postedBefore := false, details := [r.addr, kind.code.setWidth 32] }],
              nextRaise := if s.service.nextRaise = 0xFFFFFFFF then 1 else s.service.nextRaise + 1 } }) ∧
      (s.mode = .running → (∀ c ∈ s.service.calls, ¬(c.source = .site ∧ c.cause = .memoryFault) ∧ c.state ≠ .acknowledged) →
        32 ≤ s.service.calls.length →
        ∃ t, exec (.postedWriteAnswer .error) s = .next t ∧ t.service = { s.service with dropped := true } ∧
          .site ∈ t.report.rewriteList ∧ (s.hrst = false → .summary ∈ t.report.rewriteList)))) ∧
  (∀ (a : MemAnswer) (s : State),
     (s.oldIssued = [] → s.path.issued = [] →
       exec (.profileReadAnswer a) s = .next s ∧ exec (.processorAnswer a) s = .next s ∧
       exec (.postedWriteAnswer a) s = .next s ∧ exec (.commandFetchAnswer a) s = .next s ∧
       exec (.publishReadAnswer a) s = .next s ∧ (∀ l, exec (.fillReadAnswer l a) s = .next s) ∧
       exec (.verifyReadAnswer a) s = .next s ∧ exec (.imageBlockReadAnswer a) s = .next s) ∧
     (∀ (q : Issued) (rest : List Issued), s.oldIssued ++ s.path.issued = q :: rest →
       (q.owner ≠ .profile → exec (.profileReadAnswer a) s = .next s) ∧
       (q.owner ≠ .processor → exec (.processorAnswer a) s = .next s) ∧
       ((∀ k, q.owner ≠ .posted k) → exec (.postedWriteAnswer a) s = .next s) ∧
       (q.owner ≠ .command → exec (.commandFetchAnswer a) s = .next s) ∧
       (q.owner ≠ .publish → exec (.publishReadAnswer a) s = .next s) ∧
       (∀ l, q.owner ≠ .fill l → exec (.fillReadAnswer l a) s = .next s) ∧
       (q.owner ≠ .verify → exec (.verifyReadAnswer a) s = .next s) ∧
       ((∀ i, q.owner ≠ .block i) → exec (.imageBlockReadAnswer a) s = .next s)) ∧
     (∀ (q : Issued) (rest : List Issued), s.oldIssued = q :: rest →
       (q.owner = .profile → exec (.profileReadAnswer a) s = .next { s with oldIssued := rest }) ∧
       (q.owner = .processor → exec (.processorAnswer a) s = .next { s with oldIssued := rest }) ∧
       (∀ k, q.owner = .posted k → exec (.postedWriteAnswer a) s = .next { s with oldIssued := rest }) ∧
       (q.owner = .command → exec (.commandFetchAnswer a) s = .next { s with oldIssued := rest }) ∧
       (q.owner = .publish → exec (.publishReadAnswer a) s = .next { s with oldIssued := rest }) ∧
       (∀ l, q.owner = .fill l → exec (.fillReadAnswer l a) s = .next { s with oldIssued := rest }) ∧
       (q.owner = .verify → exec (.verifyReadAnswer a) s = .next { s with oldIssued := rest }) ∧
       (∀ i, q.owner = .block i → exec (.imageBlockReadAnswer a) s = .next { s with oldIssued := rest })) ∧
     (∀ (r : MemRequest) (rest : List Issued) (data : List Word), r.write = false → data.length ≠ r.len →
       (s.AnswerFor .processor r rest → exec (.processorAnswer (.ok data)) s = .fault .answerShape) ∧
       (s.AnswerFor .profile r rest → exec (.profileReadAnswer (.ok data)) s = .fault .answerShape) ∧
       (s.AnswerFor .command r rest → exec (.commandFetchAnswer (.ok data)) s = .fault .answerShape) ∧
       (s.AnswerFor .publish r rest → exec (.publishReadAnswer (.ok data)) s = .fault .answerShape) ∧
       (∀ l, s.AnswerFor (.fill l) r rest → exec (.fillReadAnswer l (.ok data)) s = .fault .answerShape) ∧
       (s.AnswerFor .verify r rest → exec (.verifyReadAnswer (.ok data)) s = .fault .answerShape) ∧
       (∀ i, s.AnswerFor (.block i) r rest → exec (.imageBlockReadAnswer (.ok data)) s = .fault .answerShape)))

/-! ## The watched words -/

/-- R168 for the three rings whose consumer software is, with the index read in the low half of its word (the model's reading,
log 9): a written index no further behind the producer position than the ring is long becomes the consumer position; any other
raises RING_ERROR and changes nothing. A completion index may begin a fetch. R169: the producer index, read in the low half of
its word (the model's reading, log 9). Within the ring, P takes it, the stopped mark clears and a fetch may begin; beyond it,
fetching stops, P stays and RING_ERROR is raised; with a disabled command ring (R167) nothing happens. When a fetch begins
(R170): RUNNING without HRST, no stop, C not P, none in progress, an enabled command ring, and fewer completions owed than the
completion ring has free entries. Beginning one puts the read before the bulk requester. R180: the named kinds leave the
pending set, the overrun set and IRQ's set; FAULT clears four capture records, GUARD the fifth, SERVICE the call dropped flag;
bits that name no kind do nothing. R182: the load word sets the clock and restarts its minute timer; a minute's expiry
advances a clock that is not 0, with 0xFFFF_FFFF followed by 1, and leaves a clock at 0 there. -/
def Obligations.WatchedWordsTaken : Prop :=
  (∀ (v : Word) (s : State), s.hears = true →
     ((s.report.complProd - v.setWidth 16).toNat ≤ s.profile.completion.size →
       ∃ t, exec (.completionConsumerIndexWrite v) s = .next t ∧
         t.EndsAs (fetchBegin { s with report := { s.report with complCons := v.setWidth 16 } })) ∧
     (s.profile.completion.size < (s.report.complProd - v.setWidth 16).toNat →
       ∃ t, exec (.completionConsumerIndexWrite v) s = .next t ∧ t.EndsAs { s with report := s.report.raising .ringError }) ∧
     ((s.report.svcProd - v.setWidth 16).toNat ≤ s.profile.service.size →
       ∃ t, exec (.serviceConsumerIndexWrite v) s = .next t ∧
         t.EndsAs { s with report := { s.report with svcCons := v.setWidth 16 } }) ∧
     (s.profile.service.size < (s.report.svcProd - v.setWidth 16).toNat →
       ∃ t, exec (.serviceConsumerIndexWrite v) s = .next t ∧ t.EndsAs { s with report := s.report.raising .ringError }) ∧
     ((s.report.jrnProd - v.setWidth 16).toNat ≤ s.profile.journal.size →
       ∃ t, exec (.journalConsumerIndexWrite v) s = .next t ∧
         t.EndsAs { s with report := { s.report with jrnCons := v.setWidth 16 } }) ∧
     (s.profile.journal.size < (s.report.jrnProd - v.setWidth 16).toNat →
       ∃ t, exec (.journalConsumerIndexWrite v) s = .next t ∧ t.EndsAs { s with report := s.report.raising .ringError })) ∧
  ((∀ (v : Word) (s : State), s.hears = true →
      (s.profile.command.size ≠ 0 → (v.setWidth 16 - s.command.c).toNat ≤ s.profile.command.size →
        ∃ t, exec (.commandProducerIndexWrite v) s = .next t ∧
          t.EndsAs (fetchBegin { s with command := { s.command with stopped := false, p := v.setWidth 16 } })) ∧
      (s.profile.command.size ≠ 0 → s.profile.command.size < (v.setWidth 16 - s.command.c).toNat →
        ∃ t, exec (.commandProducerIndexWrite v) s = .next t ∧
          t.EndsAs { s with command := { s.command with stopped := true }, report := s.report.raising .ringError }) ∧
      (s.profile.command.size = 0 → ∃ t, exec (.commandProducerIndexWrite v) s = .next t ∧ t.EndsAs s)) ∧
   (∀ s : State,
      (s.hears = true ∧ s.command.stopped = false ∧ s.command.c ≠ s.command.p ∧ s.command.fetch = .unset ∧
          s.profile.command.size ≠ 0 ∧
          s.command.owed < s.profile.completion.size - (s.report.complProd - s.report.complCons).toNat →
        fetchBegin s = { s with command := { s.command with fetch := .waiting } }) ∧
      (s.hears = false ∨ s.command.stopped = true ∨ s.command.c = s.command.p ∨ s.command.fetch ≠ .unset ∨
          s.profile.command.size = 0 ∨
          s.profile.completion.size - (s.report.complProd - s.report.complCons).toNat ≤ s.command.owed →
        fetchBegin s = s))) ∧
  ((∀ (v : Word) (s : State), s.hears = true →
      ∃ t, exec (.eventAcknowledgeWrite v) s = .next t ∧
        t.EndsAs { s with
          path := { s.path with
            capFetch := if v.getLsbD 7 then ⟨false, 0, false⟩ else s.path.capFetch,
            capReport := if v.getLsbD 7 then ⟨false, 0, false⟩ else s.path.capReport,
            capRecipe := if v.getLsbD 7 then ⟨false, 0, false⟩ else s.path.capRecipe,
            capImage := if v.getLsbD 7 then ⟨false, 0, false⟩ else s.path.capImage,
            capGuard := if v.getLsbD 5 then ⟨false, 0, false⟩ else s.path.capGuard },
          service := { s.service with dropped := s.service.dropped && !v.getLsbD 1 },
          report := { s.report with
            pendingSet := s.report.pendingSet &&& ~~~(v.setWidth 11), overrunSet := s.report.overrunSet &&& ~~~(v.setWidth 11),
            signalled := s.report.signalled &&& ~~~(v.setWidth 11) } }) ∧
   (∀ (v : Word) (s : State),
      (s.hears = true →
        ∃ t, exec (.siteClockLoadWrite v) s = .next t ∧
          t.EndsAs { s with report := { s.report with clock := v, clockTimer := some s.now } }) ∧
      (s.mode = .running → s.report.clockTimer ≠ none →
        ∃ t, exec .siteClockMinuteExpiry s = .next t ∧
          t.EndsAs { s with report := { s.report with
            clockTimer := some s.now,
            clock := if s.report.clock = 0 then 0 else if s.report.clock = 0xFFFFFFFF then 1 else s.report.clock + 1 } })))

/-! ## Fetched commands -/

/-- The answer to a command fetch. ERROR: the FETCH capture latches with FAULT, or is marked overrun, and fetching stops. OK:
C advances, a completion is owed, the record goes to its owner, and the next fetch may begin. R171 and the command records of
chapter 11: which owner the kind byte names, and where its parameters lie; a kind that names no command completes RANGE with
the kind as read. -/
def Obligations.CommandFetchAnswered : Prop :=
  (∀ (r : MemRequest) (rest : List Issued) (s : State), s.AnswerFor .command r rest → r.write = false → s.hears = true →
     (∃ t, exec (.commandFetchAnswer .error) s = .next t ∧
       t.EndsAs { s with
         path := { s.path with issued := rest, capFetch := s.path.capFetch.offer r.addr },
         command := { s.command with stopped := true, fetch := .unset },
         report := s.report.faulted s.path.capFetch }) ∧
     (∀ data : List Word, data.length = r.len →
       ∃ t, exec (.commandFetchAnswer (.ok data)) s = .next t ∧
         t.EndsAs (fetchBegin (route (bytesOf data)
           { s with
             path := { s.path with issued := rest },
             command := { s.command with c := s.command.c + 1, owed := s.command.owed + 1, fetch := .unset } })))) ∧
  (∀ (b : List Byte) (s : State),
     (byteAt b 2 = 0x01 → route b s =
       commission (halfAt b 0) (byteAt b 4) (byteAt b 5) (byteAt b 6) (wordAt b 8) (halfAt b 12) (halfAt b 14) s) ∧
     (byteAt b 2 = 0x02 → route b s =
       restore (halfAt b 0) (byteAt b 4) (byteAt b 5) (byteAt b 6) (wordAt b 8)
         ⟨halfAt b 12, halfAt b 14, halfAt b 16, halfAt b 18⟩ (wordAt b 20) s) ∧
     (byteAt b 2 = 0x03 → route b s = settle (recalibrate (halfAt b 0) (byteAt b 4) (halfAt b 12) (halfAt b 14) s)) ∧
     (byteAt b 2 = 0x04 → route b s = settle (retire (halfAt b 0) (byteAt b 4) s)) ∧
     (byteAt b 2 = 0x05 → route b s = release (halfAt b 0) (byteAt b 4) s) ∧
     (byteAt b 2 = 0x10 → route b s = lineTest (halfAt b 0) (byteAt b 4) s) ∧
     (byteAt b 2 = 0x20 → route b s = publish (halfAt b 0) (byteAt b 4) s) ∧
     (byteAt b 2 = 0x21 → route b s = withdraw (halfAt b 0) (byteAt b 4) s) ∧
     (byteAt b 2 = 0x30 → route b s = settle (cook (halfAt b 0) (byteAt b 4) (byteAt b 5) s)) ∧
     (byteAt b 2 = 0x31 → route b s = abortCommand (halfAt b 0) (byteAt b 4) s) ∧
     (byteAt b 2 = 0x40 → route b s = settle (clean (halfAt b 0) (byteAt b 4) (byteAt b 5) s)) ∧
     (byteAt b 2 = 0x41 → route b s = cancelClean (halfAt b 0) (byteAt b 4) s) ∧
     (byteAt b 2 = 0x50 → route b s = ackCall (halfAt b 0) (byteAt b 4) (byteAt b 5) s) ∧
     (byteAt b 2 = 0x51 → route b s = closeCall (halfAt b 0) (byteAt b 4) (byteAt b 5) s) ∧
     (byteAt b 2 = 0x60 → route b s = stageClose (halfAt b 0) (wordAt b 8) (wordAt b 12) s) ∧
     (byteAt b 2 = 0x61 → route b s = settle (rollout (halfAt b 0) (halfAt b 8) (byteAt b 5) s)) ∧
     (byteAt b 2 = 0x62 → route b s = settle (rolloutHalt (halfAt b 0) s)) ∧
     (byteAt b 2 = 0x70 → route b s = openProfile (halfAt b 0) s) ∧
     (byteAt b 2 ∉ [0x01, 0x02, 0x03, 0x04, 0x05, 0x10, 0x20, 0x21, 0x30, 0x31, 0x40, 0x41, 0x50, 0x51, 0x60, 0x61, 0x62, 0x70] →
       route b s = { s with command := { s.command with
         completions := s.command.completions ++ [completionOf (halfAt b 0) (byteAt b 2) .range 0 0 0] } }))

/-! ## The commands of service calls and of the profile -/

/-- R141: the checks of ACK_CALL in their order, and what an accepted one does. R142: the checks of CLOSE_CALL in their order,
and the removal of an ACKNOWLEDGED call. R191: OPEN_PROFILE is BUSY while a rollout is ACTIVE or the image is VERIFYING; else
the profile-open flag is set, and its former value is the first detail. -/
def Obligations.AckCloseAndOpenTaken : Prop :=
  (∀ (tag : Half) (s : State), s.hears = true → s.CallKeysDistinct →
     (∀ src cau : Byte,
       ¬(src.toNat < 16 ∨ (64 ≤ src.toNat ∧ src.toNat < 128) ∨ src = 0xFF) ∨ ¬(1 ≤ cau.toNat ∧ cau.toNat ≤ 8) →
       ∃ t, exec (.ackCall tag src cau) s = .next t ∧ t.EndsAs (complete tag 0x50 .range 0 0 0 s.taken)) ∧
     (∀ (src : Source) (cau : Cause), (∀ c ∈ s.service.calls, ¬(c.source = src ∧ c.cause = cau)) →
       ∃ t, exec (.ackCall tag src.code cau.code) s = .next t ∧ t.EndsAs (complete tag 0x50 .range 0 0 0 s.taken)) ∧
     (∀ c ∈ s.service.calls, c.state = .unposted →
       ∃ t, exec (.ackCall tag c.source.code c.cause.code) s = .next t ∧
         t.EndsAs (complete tag 0x50 .state 0 0 0 s.taken)) ∧
     (∀ (c : Call) (before after : List Call), s.service.calls = before ++ c :: after → c.state ≠ .unposted →
       ∃ t, exec (.ackCall tag c.source.code c.cause.code) s = .next t ∧
         t.EndsAs (complete tag 0x50 .done (BitVec.ofNat 32 c.repeats) (c.details.getD 0 0x80000000)
           (c.details.getD 1 0x80000000)
           { s.taken with service := { s.service with calls := before ++ { c with state := .acknowledged } :: after } }))) ∧
  (∀ (tag : Half) (s : State), s.hears = true → s.CallKeysDistinct →
     (∀ src cau : Byte,
       ¬(src.toNat < 16 ∨ (64 ≤ src.toNat ∧ src.toNat < 128) ∨ src = 0xFF) ∨ ¬(1 ≤ cau.toNat ∧ cau.toNat ≤ 8) →
       ∃ t, exec (.closeCall tag src cau) s = .next t ∧ t.EndsAs (complete tag 0x51 .range 0 0 0 s.taken)) ∧
     (∀ (src : Source) (cau : Cause), (∀ c ∈ s.service.calls, ¬(c.source = src ∧ c.cause = cau)) →
       ∃ t, exec (.closeCall tag src.code cau.code) s = .next t ∧ t.EndsAs (complete tag 0x51 .state 0 0 0 s.taken)) ∧
     (∀ c ∈ s.service.calls, c.state ≠ .acknowledged →
       ∃ t, exec (.closeCall tag c.source.code c.cause.code) s = .next t ∧
         t.EndsAs (complete tag 0x51 .state 0 0 0 s.taken)) ∧
     (∀ (c : Call) (before after : List Call), s.service.calls = before ++ c :: after → c.state = .acknowledged →
       ∃ t, exec (.closeCall tag c.source.code c.cause.code) s = .next t ∧
         t.EndsAs (complete tag 0x51 .done (BitVec.ofNat 32 c.repeats) c.raiseNo (c.severity.code.setWidth 32)
           { s.taken with service := { s.service with calls := before ++ after } }))) ∧
  (∀ (tag : Half) (s : State), s.hears = true →
     (s.update.rollout.state = .active ∨ s.update.image.state = .verifying →
       ∃ t, exec (.openProfile tag) s = .next t ∧ t.EndsAs (complete tag 0x70 .busy 0 0 0 s.taken)) ∧
     (s.update.rollout.state ≠ .active → s.update.image.state ≠ .verifying →
       ∃ t, exec (.openProfile tag) s = .next t ∧
         t.EndsAs (complete tag 0x70 .done (if s.path.profileOpen then 1 else 0) 0 0
           { s.taken with path := { s.path with profileOpen := true } })))

/-! ## The commands of the roster -/

/-- R23: RELEASE in its checks' order; an accepted one empties the causes, puts the entry in REVALIDATING, makes its notice
toggle absent and queues IDENT_REQ to it; the open calls stay. -/
def Obligations.ReleaseTaken : Prop :=
  ∀ (tag : Half) (s : State), s.hears = true →
    (∀ b : Byte, 16 ≤ b.toNat → ∃ t, exec (.release tag b) s = .next t ∧ t.EndsAs (complete tag 0x05 .range 0 0 0 s.taken)) ∧
    (∀ i : Slot, (s.ent i).state ≠ .suspended →
      ∃ t, exec (.release tag (slotByte i)) s = .next t ∧ t.EndsAs (complete tag 0x05 .state 0 0 0 s.taken)) ∧
    (∀ i : Slot, (s.ent i).state = .suspended → (s.ent i).activity ≠ .idle ∨ (s.ent i).offerOut = true →
      ∃ t, exec (.release tag (slotByte i)) s = .next t ∧ t.EndsAs (complete tag 0x05 .busy 0 0 0 s.taken)) ∧
    (∀ i : Slot, (s.ent i).state = .suspended → (s.ent i).activity = .idle → (s.ent i).offerOut = false →
      ∃ t, exec (.release tag (slotByte i)) s = .next t ∧
        t.EndsAs (complete tag 0x05 .done 0 0 0
          (queueUrgent (s.ent i).line
            { tel := .identReq, owner := .roster, target := some i, about := none, addr := (s.ent i).drop,
              replyAddr := (s.ent i).drop, void := false }
            (s.taken.setEnt i { s.ent i with causes := 0, state := .revalidating, toggle := none }))))

/-- R6, R16: COMMISSION and RESTORE with parameters out of range are RANGE. Then the checks of R6 in their order, each with
its result: a long command holds the slot, BUSY; the entry is not VACANT, STATE; the line is not enabled, DISABLED; another
entry on the line has the drop, STATE; eight entries are on the line, STATE; the serial is another entry's, STATE; no serial
is named while another entry on the line is pairing, BUSY; the reference span is below 100, RANGE. A RESTORE that passes them
but names no serial, or a raw span below 100, or minutes beyond 65535, is RANGE. One that passes begins a long command, puts
the entry in ASSIGNING at its place with the pairing mark, and queues ASSIGN with the serial named. R15: RECALIBRATE in its
checks' order. One accepted, in CAL_FAILED or in service and idle without an offer, begins a long command and enters
CALIBRATING: the probe-running mark is clear, the calibration limit runs, the oven joins the poll schedule and PROBE_CHECK is
queued; an oven queued for a rollout is SKIPPED first, with the ROLLOUT event (R163). -/
def Obligations.CommissioningCommandsTaken : Prop :=
  (∀ (tag : Half) (drop : Byte) (serial : Word) (lo hi : Half) (s : State), s.hears = true →
     (∀ slot line : Byte,
       16 ≤ slot.toNat ∨ 4 ≤ line.toNat ∨ drop = 0 ∨ 31 < drop.toNat ∨ lo.toInt < -400 ∨ 4000 < lo.toInt ∨ hi.toInt < -400 ∨
         4000 < hi.toInt →
       (∃ t, exec (.commission tag slot line drop serial lo hi) s = .next t ∧
         t.EndsAs (complete tag 0x01 .range 0 0 0 s.taken)) ∧
       (∀ (rawLo rawHi : Half) (minutes : Word),
         ∃ t, exec (.restore tag slot line drop serial lo hi rawLo rawHi minutes) s = .next t ∧
           t.EndsAs (complete tag 0x02 .range 0 0 0 s.taken))) ∧
     (∀ (i : Slot) (l : LineNo), 1 ≤ drop.toNat → drop.toNat ≤ 31 → -400 ≤ lo.toInt → lo.toInt ≤ 4000 → -400 ≤ hi.toInt →
       hi.toInt ≤ 4000 →
       (s.held (.oven i) = true →
         ∃ t, exec (.commission tag (slotByte i) (BitVec.ofNat 8 l.val) drop serial lo hi) s = .next t ∧
           t.EndsAs (complete tag 0x01 .busy 0 0 0 s.taken)) ∧
       (s.held (.oven i) = false → (s.ent i).state ≠ .vacant →
         ∃ t, exec (.commission tag (slotByte i) (BitVec.ofNat 8 l.val) drop serial lo hi) s = .next t ∧
           t.EndsAs (complete tag 0x01 .state 0 0 0 s.taken)) ∧
       (s.held (.oven i) = false → (s.ent i).state = .vacant → s.lineEnabled l = false →
         ∃ t, exec (.commission tag (slotByte i) (BitVec.ofNat 8 l.val) drop serial lo hi) s = .next t ∧
           t.EndsAs (complete tag 0x01 .disabled 0 0 0 s.taken)) ∧
       (∀ why, s.commissionRefusal i l drop serial (hi.toInt - lo.toInt) = some why →
         (∃ t, exec (.commission tag (slotByte i) (BitVec.ofNat 8 l.val) drop serial lo hi) s = .next t ∧
           t.EndsAs (complete tag 0x01 why 0 0 0 s.taken)) ∧
         (∀ (rawLo rawHi : Half) (minutes : Word),
           ∃ t, exec (.restore tag (slotByte i) (BitVec.ofNat 8 l.val) drop serial lo hi rawLo rawHi minutes) s = .next t ∧
             t.EndsAs (complete tag 0x02 why 0 0 0 s.taken))) ∧
       (s.held (.oven i) = false → (s.ent i).state = .vacant → s.lineEnabled l = true →
         let onLine := fun k : Slot => (s.ent k).state ≠ .vacant ∧ s.onLine l k = true
         let refusal := s.commissionRefusal i l drop serial (hi.toInt - lo.toInt)
         ((∃ k : Slot, k ≠ i ∧ onLine k ∧ (s.ent k).drop = drop) → refusal = some .state) ∧
         (¬(∃ k : Slot, k ≠ i ∧ onLine k ∧ (s.ent k).drop = drop) →
           (8 ≤ slots.countP (fun k => (s.ent k).state != .vacant && s.onLine l k) → refusal = some .state) ∧
           (slots.countP (fun k => (s.ent k).state != .vacant && s.onLine l k) ≤ 7 →
             (serial ≠ 0 → (∃ (k : Slot) (d : Identity), k ≠ i ∧ (s.ent k).identity = some d ∧ d.serial = serial) →
               refusal = some .state) ∧
             (serial = 0 → (∃ k : Slot, k ≠ i ∧ onLine k ∧ (s.ent k).pairing = true) → refusal = some .busy) ∧
             ((serial ≠ 0 ∧ ∀ (k : Slot) (d : Identity), k ≠ i → (s.ent k).identity = some d → d.serial ≠ serial) ∨
                 (serial = 0 ∧ ∀ k : Slot, k ≠ i → onLine k → (s.ent k).pairing = false) →
               (hi.toInt - lo.toInt < 100 → refusal = some .range) ∧ (100 ≤ hi.toInt - lo.toInt → refusal = none))))) ∧
       (s.commissionRefusal i l drop serial (hi.toInt - lo.toInt) = none →
         ∃ t, exec (.commission tag (slotByte i) (BitVec.ofNat 8 l.val) drop serial lo hi) s = .next t ∧
           t.EndsAs (queueUrgent l
             { tel := .assign serial drop, owner := .roster, target := none, about := some i, addr := 0, replyAddr := 0,
               void := false }
             ((startLong 0x01 tag (.oven i) s.taken).setEnt i { s.ent i with
               state := .assigning, place := some (l, drop), pairing := true, toggle := none,
               job := some { kind := .commission, tag := tag, named := serial, kept := 0, cal := ⟨lo, hi, 0, 0⟩,
                             minutes := 0 } }))) ∧
       (∀ (rawLo rawHi : Half) (minutes : Word),
         s.commissionRefusal i l drop serial (hi.toInt - lo.toInt) = none →
         (serial = 0 ∨ rawHi.toInt - rawLo.toInt < 100 ∨ 65535 < minutes.toNat →
           ∃ t, exec (.restore tag (slotByte i) (BitVec.ofNat 8 l.val) drop serial lo hi rawLo rawHi minutes) s = .next t ∧
             t.EndsAs (complete tag 0x02 .range 0 0 0 s.taken)) ∧
         (serial ≠ 0 → 100 ≤ rawHi.toInt - rawLo.toInt → minutes.toNat ≤ 65535 →
           ∃ t, exec (.restore tag (slotByte i) (BitVec.ofNat 8 l.val) drop serial lo hi rawLo rawHi minutes) s = .next t ∧
             t.EndsAs (queueUrgent l
               { tel := .assign serial drop, owner := .roster, target := none, about := some i, addr := 0, replyAddr := 0,
                 void := false }
               ((startLong 0x02 tag (.oven i) s.taken).setEnt i { s.ent i with
                 state := .assigning, place := some (l, drop), pairing := true, toggle := none,
                 job := some { kind := .restore, tag := tag, named := serial, kept := 0, cal := ⟨lo, hi, rawLo, rawHi⟩,
                               minutes := minutes.setWidth 16 } })))))) ∧
  (∀ (tag : Half) (lo hi : Half) (s : State), s.hears = true →
     (∀ b : Byte, 16 ≤ b.toNat ∨ lo.toInt < -400 ∨ 4000 < lo.toInt ∨ hi.toInt < -400 ∨ 4000 < hi.toInt →
       ∃ t, exec (.recalibrate tag b lo hi) s = .next t ∧ t.EndsAs (settle (complete tag 0x03 .range 0 0 0 s.taken))) ∧
     (∀ i : Slot, -400 ≤ lo.toInt → lo.toInt ≤ 4000 → -400 ≤ hi.toInt → hi.toInt ≤ 4000 →
       (s.held (.oven i) = true →
         ∃ t, exec (.recalibrate tag (slotByte i) lo hi) s = .next t ∧
           t.EndsAs (settle (complete tag 0x03 .busy 0 0 0 s.taken))) ∧
       (s.held (.oven i) = false → (s.ent i).state ≠ .calFailed → (s.ent i).state ≠ .inService →
         ∃ t, exec (.recalibrate tag (slotByte i) lo hi) s = .next t ∧
           t.EndsAs (settle (complete tag 0x03 .state 0 0 0 s.taken))) ∧
       (s.held (.oven i) = false → (s.ent i).state = .inService → (s.ent i).activity ≠ .idle ∨ (s.ent i).offerOut = true →
         ∃ t, exec (.recalibrate tag (slotByte i) lo hi) s = .next t ∧
           t.EndsAs (settle (complete tag 0x03 .busy 0 0 0 s.taken))) ∧
       (s.held (.oven i) = false →
         (s.ent i).state = .calFailed ∨
           ((s.ent i).state = .inService ∧ (s.ent i).activity = .idle ∧ (s.ent i).offerOut = false) →
         (hi.toInt - lo.toInt < 100 →
           ∃ t, exec (.recalibrate tag (slotByte i) lo hi) s = .next t ∧
             t.EndsAs (settle (complete tag 0x03 .range 0 0 0 s.taken))) ∧
         (100 ≤ hi.toInt - lo.toInt → (s.ent i).upd.state ≠ .queued →
           ∃ t, exec (.recalibrate tag (slotByte i) lo hi) s = .next t ∧
             t.EndsAs (settle (sendTo i .roster .probeCheck (joinSchedule i
               ((startLong 0x03 tag (.oven i) s.taken).setEnt i { s.ent i with
                 state := .calibrating, probe := false, calLimit := some s.now,
                 job := some { kind := .recalibrate, tag := tag, named := 0, kept := 0, cal := ⟨lo, hi, 0, 0⟩,
                               minutes := 0 } }))))) ∧
         (100 ≤ hi.toInt - lo.toInt → (s.ent i).upd.state = .queued →
           let raised : State :=
             { startLong 0x03 tag (.oven i) s.taken with
               report := s.report.raising .rollout,
               update := { s.update with
                 rollout := { s.update.rollout with skipped := s.update.rollout.skipped ||| (1 <<< i.val) } } }
           ∃ t, exec (.recalibrate tag (slotByte i) lo hi) s = .next t ∧
             t.EndsAs (settle (sendTo i .roster .probeCheck (joinSchedule i (raised.setEnt i { s.ent i with
                 state := .calibrating, probe := false, calLimit := some s.now,
                 upd := { (s.ent i).upd with state := .skipped },
                 job := some { kind := .recalibrate, tag := tag, named := 0, kept := 0, cal := ⟨lo, hi, 0, 0⟩,
                               minutes := 0 } }))))))))

/-- R17: RETIRE in its checks' order. One accepted queues UNASSIGN to the drop of an oven that is not LATE, removes its place
in the cleaning queue, its telegrams from the urgent FIFO and the waiting offers of every line (R37) and its calls, enters a
QUEUED oven in the skipped mask with the ROLLOUT event (R163), returns the entry to VACANT with every field at its reset
value, and reports how many calls were removed; other ovens and the recipe slots are as before. The ABORT commands whose
telegrams go complete "already ended" (R111), all but the one whose transaction runs; that they complete before RETIRE does,
and RETIRE before a rollout that it ends (`settle`), is the model's choice (log 56). -/
def Obligations.RetireTaken : Prop :=
  ∀ (tag : Half) (s : State), s.hears = true →
    (∀ b : Byte, 16 ≤ b.toNat →
      ∃ t, exec (.retire tag b) s = .next t ∧ t.EndsAs (settle (complete tag 0x04 .range 0 0 0 s.taken))) ∧
    (∀ i : Slot, s.held (.oven i) = true →
      ∃ t, exec (.retire tag (slotByte i)) s = .next t ∧ t.EndsAs (settle (complete tag 0x04 .busy 0 0 0 s.taken))) ∧
    (∀ i : Slot, s.held (.oven i) = false → (s.ent i).state = .vacant ∨ (s.ent i).state = .revalidating →
      ∃ t, exec (.retire tag (slotByte i)) s = .next t ∧ t.EndsAs (settle (complete tag 0x04 .state 0 0 0 s.taken))) ∧
    (∀ i : Slot, s.held (.oven i) = false → (s.ent i).state ≠ .vacant → (s.ent i).state ≠ .revalidating →
      ((s.ent i).activity ≠ .idle ∨ (s.ent i).offerOut = true →
        ∃ t, exec (.retire tag (slotByte i)) s = .next t ∧
          t.EndsAs (settle (complete tag 0x04 .busy 0 0 0 s.taken))) ∧
      ((s.ent i).activity = .idle → (s.ent i).offerOut = false →
        ∃ t x, exec (.retire tag (slotByte i)) s = .next t ∧ t.EndsAs (settle x) ∧
          x.ent i = Entry.reset ∧ (∀ k : Slot, k ≠ i → x.ent k = s.ent k) ∧
          x.service.calls = s.service.calls.filter (fun c => c.source != .oven i) ∧
          x.hygiene.queue = s.hygiene.queue.filter (fun w => w.slot != i) ∧
          (let running := ∃ (l : LineNo) (tr : Transaction), (s.ln l).trans = some tr ∧ tr.q.tel = .abort ∧
             tr.q.owner = .cache ∧ tr.q.target = some i
           let ended := fun l : List PendingAbort => (l.filter (fun a => !a.orphaned)).map
             (fun a => completionOf a.tag 0x31 .done (a.token.setWidth 32) 1 0)
           let mine := s.cache.aborts.filter (fun a => a.slot == i)
           let own := completionOf tag 0x04 .done
             (BitVec.ofNat 32 (s.service.calls.countP (fun c => c.source == .oven i))) 0 0
           (¬running → x.command.completions = s.command.completions ++ ended mine ++ [own]) ∧
           (running → x.command.completions = s.command.completions ++ ended (mine.drop 1) ++ [own])) ∧
          (∀ l : LineNo, ∀ q ∈ x.waitingOn l, q.target ≠ some i) ∧
          ((s.ent i).late = false →
            ∃ q ∈ x.waitingOn (s.ent i).line, q.tel = .unassign ∧ q.addr = (s.ent i).drop) ∧
          ((s.ent i).late = true → ∀ l : LineNo, ∀ q ∈ x.waitingOn l, q ∈ s.waitingOn l) ∧
          ((s.ent i).upd.state = .queued →
            x.update = { s.update with
              rollout := { s.update.rollout with skipped := s.update.rollout.skipped ||| (1 <<< i.val) } } ∧
            x.report.pendingSet = raisedPending s.report.pendingSet .rollout) ∧
          ((s.ent i).upd.state ≠ .queued → x.update = s.update ∧ x.report = s.report) ∧
          x.recipe = s.recipe ∧ x.path = s.path ∧ x.command.longs = s.command.longs))

/-! ## The commands of the recipe unit -/

/-- R75: PUBLISH in its checks' order; an accepted one is a long command whose slot reads at once or waits behind the publish
list's others. R81: WITHDRAW in its checks' order; an accepted one empties the slot, keeps its other fields, and has the cache
unit make its copies stale. -/
def Obligations.PublishAndWithdrawTaken : Prop :=
  (∀ (tag : Half) (s : State), s.hears = true →
     (∀ b : Byte, 64 ≤ b.toNat → ∃ t, exec (.publish tag b) s = .next t ∧ t.EndsAs (complete tag 0x20 .range 0 0 0 s.taken)) ∧
     (∀ r : RecipeNo,
       (s.hasStore = false →
         ∃ t, exec (.publish tag (recipeByte r)) s = .next t ∧ t.EndsAs (complete tag 0x20 .disabled 0 0 0 s.taken)) ∧
       (s.hasStore = true → s.held (.recipe r) = true ∨ (s.rslot r).publish ≠ .idle →
         ∃ t, exec (.publish tag (recipeByte r)) s = .next t ∧ t.EndsAs (complete tag 0x20 .busy 0 0 0 s.taken)) ∧
       (s.hasStore = true → s.held (.recipe r) = false → (s.rslot r).publish = .idle → (s.rslot r).written = false →
         ∃ t, exec (.publish tag (recipeByte r)) s = .next t ∧ t.EndsAs (complete tag 0x20 .state 0 0 0 s.taken)) ∧
       (s.hasStore = true → s.held (.recipe r) = false → (s.rslot r).publish = .idle → (s.rslot r).written = true →
         s.versionHeld r (nextVersion (s.rslot r).version) = true →
         ∃ t, exec (.publish tag (recipeByte r)) s = .next t ∧ t.EndsAs (complete tag 0x20 .busy 1 0 0 s.taken)) ∧
       (s.hasStore = true → s.held (.recipe r) = false → (s.rslot r).publish = .idle → (s.rslot r).written = true →
         s.versionHeld r (nextVersion (s.rslot r).version) = false →
         ∃ t, exec (.publish tag (recipeByte r)) s = .next t ∧
           (s.recipe.engine ≠ none →
             t.EndsAs { (startLong 0x20 tag (.recipe r) s.taken) with
               recipe := { s.recipe with
                 slots := s.recipe.slots.set r { s.rslot r with publish := .reading },
                 publishList := s.recipe.publishList ++ [r] } }) ∧
           (s.recipe.engine = none → s.recipe.publishList = [] →
             t.EndsAs { (startLong 0x20 tag (.recipe r) s.taken) with
               recipe := { s.recipe with
                 slots := s.recipe.slots.set r { s.rslot r with publish := .reading },
                 publishList := [r],
                 engine := some
                   { recipe := r, base := bankAddr s.storeBase r (otherBank (s.rslot r).bank), issued := 0, taken := 0,
                     header := none, reg := 0xFFFFFFFF } } })))) ∧
  (∀ (tag : Half) (s : State), s.hears = true →
     (∀ b : Byte, 64 ≤ b.toNat → ∃ t, exec (.withdraw tag b) s = .next t ∧ t.EndsAs (complete tag 0x21 .range 0 0 0 s.taken)) ∧
     (∀ r : RecipeNo,
       (s.hasStore = false →
         ∃ t, exec (.withdraw tag (recipeByte r)) s = .next t ∧ t.EndsAs (complete tag 0x21 .disabled 0 0 0 s.taken)) ∧
       (s.hasStore = true → s.held (.recipe r) = true ∨ (s.rslot r).publish ≠ .idle →
         ∃ t, exec (.withdraw tag (recipeByte r)) s = .next t ∧ t.EndsAs (complete tag 0x21 .busy 0 0 0 s.taken)) ∧
       (s.hasStore = true → s.held (.recipe r) = false → (s.rslot r).publish = .idle → (s.rslot r).state = .empty →
         ∃ t, exec (.withdraw tag (recipeByte r)) s = .next t ∧ t.EndsAs (complete tag 0x21 .state 0 0 0 s.taken)) ∧
       (s.hasStore = true → s.held (.recipe r) = false → (s.rslot r).publish = .idle → (s.rslot r).state ≠ .empty →
         ∃ t, exec (.withdraw tag (recipeByte r)) s = .next t ∧
           t.EndsAs (complete tag 0x21 .done ((s.rslot r).version.setWidth 32) (BitVec.ofNat 32 (s.rslot r).pins) 0
             (staleRecipe r (s.taken.setRslot r { s.rslot r with state := .empty }))))))

/-! ## The commands of the cache unit -/

/-- R95, R97, R104: COOK. Out of range is RANGE, a held oven BUSY, an oven that is not IN_SERVICE is STATE, a failed start
check is DENIED with its reason; an accepted one claims the oven: on a hit the token advances, the entry's copy moves to the
front and START is queued; on a miss the start waits in its line's fill queue. What the claim makes possible follows
(`settle`). R95: the start checks in their order, with the reason each gives. That a PUBLISHED slot without a gate and an oven
without an identity fail the check of the class is the model's reading (log 39); no run reaches either. R97: a hit is an entry
of the oven's directory for the recipe slot that is not stale and carries the slot's live version. R111: ABORT of a cooking
oven keeps a record with the cook's token and queues ABORT to the oven; of any other oven it is STATE, and out of range RANGE. -/
def Obligations.CookAndAbortTaken : Prop :=
  ((∀ (tag : Half) (s : State), s.hears = true →
      (∀ oven recipe : Byte, 16 ≤ oven.toNat ∨ 64 ≤ recipe.toNat →
        ∃ t, exec (.cook tag oven recipe) s = .next t ∧ t.EndsAs (settle (complete tag 0x30 .range 0 0 0 s.taken))) ∧
      (∀ (i : Slot) (r : RecipeNo),
        (s.held (.oven i) = true →
          ∃ t, exec (.cook tag (slotByte i) (recipeByte r)) s = .next t ∧
            t.EndsAs (settle (complete tag 0x30 .busy 0 0 0 s.taken))) ∧
        (s.held (.oven i) = false → (s.ent i).state ≠ .inService →
          ∃ t, exec (.cook tag (slotByte i) (recipeByte r)) s = .next t ∧
            t.EndsAs (settle (complete tag 0x30 .state 0 0 0 s.taken))) ∧
        (∀ why, s.held (.oven i) = false → (s.ent i).state = .inService → s.startRefusal i r = some why →
          ∃ t, exec (.cook tag (slotByte i) (recipeByte r)) s = .next t ∧
            t.EndsAs (settle (complete tag 0x30 .denied (why.code.setWidth 32) 0 0 s.taken))) ∧
        (∀ d, s.held (.oven i) = false → (s.ent i).state = .inService → s.startRefusal i r = none → s.hit i r = true →
          (s.ent i).dirEntry r = some d →
          ∃ t, exec (.cook tag (slotByte i) (recipeByte r)) s = .next t ∧
            t.EndsAs (settle (queueUrgent (s.ent i).line
              { tel := .start ((s.ent i).token + 1) r d.version, owner := .cache, target := some i, about := none,
                addr := (s.ent i).drop, replyAddr := (s.ent i).drop, void := false }
              ((startLong 0x30 tag (.oven i) s.taken).setEnt i { s.ent i with
                activity := .filling, token := (s.ent i).token + 1,
                dir := d :: (s.ent i).dir.filter (fun y => y.recipe != r),
                grant := some { token := (s.ent i).token + 1, recipe := r, version := d.version, origin := .controller,
                                tag := some tag, confirmed := false },
                start := some { recipe := r, origin := .controller, tag := some tag, fillNeeded := false,
                                stage := .granting } })))) ∧
        (s.held (.oven i) = false → (s.ent i).state = .inService → s.startRefusal i r = none → s.hit i r = false →
          ∃ t, exec (.cook tag (slotByte i) (recipeByte r)) s = .next t ∧
            t.EndsAs (settle (((startLong 0x30 tag (.oven i) s.taken).setEnt i { s.ent i with
                activity := .filling,
                start := some { recipe := r, origin := .controller, tag := some tag, fillNeeded := true,
                                stage := .queued } }).setLn (s.ent i).line
              { s.ln (s.ent i).line with
                fillQueue := (s.ln (s.ent i).line).fillQueue ++ [{ slot := i, waiting := false }] }))))) ∧
   (∀ (s : State) (i : Slot) (r : RecipeNo),
      (s.hit i r = true ↔
        ∃ d ∈ (s.ent i).dir, d.recipe = r ∧ d.stale = false ∧ d.version = (s.rslot r).version) ∧
      ((s.ent i).state ≠ .inService → s.startRefusal i r = some .suspended) ∧
      ((s.ent i).state = .inService →
        ((s.ent i).activity ≠ .idle ∨ (s.ent i).offerOut = true → s.startRefusal i r = some .busy) ∧
        ((s.ent i).activity = .idle → (s.ent i).offerOut = false →
          ((s.ent i).level = .overdue → s.startRefusal i r = some .hygiene) ∧
          ((s.ent i).level ≠ .overdue →
            ((s.rslot r).state = .empty → s.startRefusal i r = some .recipeAbsent) ∧
            ((s.rslot r).state = .quarantined → s.startRefusal i r = some .recipeQuarantined) ∧
            ((s.rslot r).state = .published → s.gate r = none ∨ (s.ent i).identity = none → s.startRefusal i r = some .model) ∧
            (∀ (g : Gate) (d : Identity), (s.rslot r).state = .published → s.gate r = some g → (s.ent i).identity = some d →
              (g.classes.getLsbD d.model.toNat = false → s.startRefusal i r = some .model) ∧
              (g.classes.getLsbD d.model.toNat = true → d.level.toNat < g.minLevel.toNat → s.startRefusal i r = some .level) ∧
              (g.classes.getLsbD d.model.toNat = true → g.minLevel.toNat ≤ d.level.toNat → s.startRefusal i r = none))))))) ∧
  (∀ (tag : Half) (s : State), s.hears = true →
     (∀ b : Byte, 16 ≤ b.toNat → ∃ t, exec (.abort tag b) s = .next t ∧ t.EndsAs (complete tag 0x31 .range 0 0 0 s.taken)) ∧
     (∀ i : Slot, (s.ent i).activity ≠ .cooking →
       ∃ t, exec (.abort tag (slotByte i)) s = .next t ∧ t.EndsAs (complete tag 0x31 .state 0 0 0 s.taken)) ∧
     (∀ (i : Slot) (k : CookRec), (s.ent i).activity = .cooking → (s.ent i).cook = some k →
       ∃ t, exec (.abort tag (slotByte i)) s = .next t ∧
         t.EndsAs (queueUrgent (s.ent i).line
           { tel := .abort, owner := .cache, target := some i, about := none, addr := (s.ent i).drop,
             replyAddr := (s.ent i).drop, void := false }
           { s.taken with cache := { s.cache with
               aborts := s.cache.aborts ++ [{ tag := tag, slot := i, token := k.token, orphaned := false }] } })))

/-! ## The commands of the hygiene unit -/

/-- R119: CLEAN in its checks' order; an oven not queued joins at the tail, one that is queued has its program replaced and
its idle wait cleared, and the queue position is reported. -/
def Obligations.CleanTaken : Prop :=
  ∀ (tag : Half) (program : Byte) (s : State), s.hears = true →
    (∀ b : Byte, 16 ≤ b.toNat ∨ program = 0 ∨ 4 < program.toNat →
      ∃ t, exec (.clean tag b program) s = .next t ∧ t.EndsAs (settle (complete tag 0x40 .range 0 0 0 s.taken))) ∧
    (∀ i : Slot, 1 ≤ program.toNat → program.toNat ≤ 4 →
      ((s.ent i).state ≠ .inService →
        ∃ t, exec (.clean tag (slotByte i) program) s = .next t ∧
          t.EndsAs (settle (complete tag 0x40 .state 0 0 0 s.taken))) ∧
      ((s.ent i).state = .inService → (s.ent i).activity = .cleaning ∨ (s.ent i).offerOut = true →
        ∃ t, exec (.clean tag (slotByte i) program) s = .next t ∧
          t.EndsAs (settle (complete tag 0x40 .busy 0 0 0 s.taken))) ∧
      ((s.ent i).state = .inService → (s.ent i).activity ≠ .cleaning → (s.ent i).offerOut = false →
        (∀ w ∈ s.hygiene.queue, w.slot ≠ i) →
        ∃ t, exec (.clean tag (slotByte i) program) s = .next t ∧
          t.EndsAs (settle
            (let x : State := { s.taken with hygiene := { s.hygiene with
               queue := s.hygiene.queue ++
                 [{ slot := i, program := program, origin := .controller, queued := s.report.clock, idleWait := false }] } }
             complete tag 0x40 .done (BitVec.ofNat 32 (x.queuePos i)) 0 0 x))) ∧
      ((s.ent i).state = .inService → (s.ent i).activity ≠ .cleaning → (s.ent i).offerOut = false →
        (∃ w ∈ s.hygiene.queue, w.slot = i) →
        ∃ t, exec (.clean tag (slotByte i) program) s = .next t ∧
          t.EndsAs (settle
            (let x : State := { s.taken with hygiene := { s.hygiene with
               queue := s.hygiene.queue.map
                 (fun w => if w.slot = i then { w with program := program, idleWait := false } else w) } }
             complete tag 0x40 .done (BitVec.ofNat 32 (x.queuePos i)) 1 0 x))))

/-- R121: CANCEL_CLEAN in its checks' order; an accepted one removes the oven's entry from the cleaning queue and reports its
origin and program. -/
def Obligations.CancelCleanTaken : Prop :=
  ∀ (tag : Half) (s : State), s.hears = true →
    (∀ b : Byte, 16 ≤ b.toNat →
      ∃ t, exec (.cancelClean tag b) s = .next t ∧ t.EndsAs (complete tag 0x41 .range 0 0 0 s.taken)) ∧
    (∀ i : Slot, (s.ent i).activity = .cleaning ∨ (s.ent i).offerOut = true →
      ∃ t, exec (.cancelClean tag (slotByte i)) s = .next t ∧ t.EndsAs (complete tag 0x41 .busy 0 0 0 s.taken)) ∧
    (∀ i : Slot, (s.ent i).activity ≠ .cleaning → (s.ent i).offerOut = false → (∀ w ∈ s.hygiene.queue, w.slot ≠ i) →
      ∃ t, exec (.cancelClean tag (slotByte i)) s = .next t ∧ t.EndsAs (complete tag 0x41 .state 0 0 0 s.taken)) ∧
    (∀ (i : Slot) (w : CleanWait) (before after : List CleanWait), (s.ent i).activity ≠ .cleaning → (s.ent i).offerOut = false →
      s.QueuedOnce → s.hygiene.queue = before ++ w :: after → w.slot = i →
      ∃ t, exec (.cancelClean tag (slotByte i)) s = .next t ∧
        t.EndsAs (complete tag 0x41 .done (w.origin.code.setWidth 32) (w.program.setWidth 32) 0
          { s.taken with hygiene := { s.hygiene with queue := before ++ after } }))

/-! ## The commands of the update unit -/

/-- R150: STAGE_CLOSE in its checks' order; an accepted one is a long command that puts the image in VERIFYING, keeps the
length and the check, and begins the verification. R154: ROLLOUT in its checks' order; an accepted one is a long command that
puts the image in IN_ROLLOUT and sets up the rollout record with its targets; each target is SKIPPED or QUEUED, and every
other oven's update state is cleared. A target is SKIPPED that is not IN_SERVICE or has no identity, is of another class, has
the image's level, or has a higher one where no downgrade is allowed. ROLLOUT is raised, once, if a target was SKIPPED. What
then becomes possible, the first picks or the rollout's end, follows (`settle`). R164: ROLLOUT_HALT while no rollout is ACTIVE
is STATE. Otherwise the rollout is HALTING: QUEUED ovens are SKIPPED; a SENDING oven whose block transaction runs is marked to
stop at its end, any other SENDING oven without a queued SWITCH is SKIPPED at once, its stream and its reads gone and a
STOPPED record passed to the journal (several in slot order, log 32); both kinds enter the skipped mask; ovens whose SWITCH is
queued and SWITCHING ovens go on; the counts of ovens stopped and of ovens left are reported. ROLLOUT is raised, once, if an
oven became SKIPPED at this event. Of the reads of an oven stopped at once R164 has the answers outstanding disregarded; that
its block reads presented or asked for and not yet issued are withdrawn as well is the model's choice (log 52). The halt's own
completion is composed before what the event settles, and so before the HALTED of a rollout that it ends: that order is the
model's choice (log 20). -/
def Obligations.StageCloseAndRolloutTaken : Prop :=
  (∀ (tag : Half) (length check : Word) (s : State), s.hears = true →
     (s.imageWindow = none →
       ∃ t, exec (.stageClose tag length check) s = .next t ∧ t.EndsAs (complete tag 0x60 .disabled 0 0 0 s.taken)) ∧
     (∀ w, s.imageWindow = some w →
       (length.toNat < 64 ∨ length.toNat % 4 ≠ 0 ∨ w.size < length.toNat →
         ∃ t, exec (.stageClose tag length check) s = .next t ∧ t.EndsAs (complete tag 0x60 .range 0 0 0 s.taken)) ∧
       (64 ≤ length.toNat → length.toNat % 4 = 0 → length.toNat ≤ w.size →
         (s.held .image = true →
           ∃ t, exec (.stageClose tag length check) s = .next t ∧ t.EndsAs (complete tag 0x60 .busy 0 0 0 s.taken)) ∧
         (s.held .image = false →
           s.update.image.state ≠ .filling ∨ s.update.image.expected ≠ length.toNat ∨ s.update.image.acc ≠ check →
           ∃ t, exec (.stageClose tag length check) s = .next t ∧
             t.EndsAs (complete tag 0x60 .state (s.update.image.state.code.setWidth 32)
               (BitVec.ofNat 32 s.update.image.expected) s.update.image.acc s.taken)) ∧
         (s.held .image = false → s.update.image.state = .filling → s.update.image.expected = length.toNat →
           s.update.image.acc = check →
           ∃ t, exec (.stageClose tag length check) s = .next t ∧
             t.EndsAs { (startLong 0x60 tag .image s.taken) with
               update := { s.update with
                 image := { s.update.image with state := .verifying, staged := some (length.toNat, check), reason := .unset },
                 verify := some { issued := 0, bytes := 0, reg := 0xFFFFFFFF, header := [] } } })))) ∧
  ((∀ (tag mask : Half) (down : Byte) (s : State), s.hears = true →
      (∀ (e : Entry) (level : Half) (cls : Byte) (allowed : Bool), e.skippedBy level cls allowed = true ↔
        e.state ≠ .inService ∨ e.identity = none ∨
          ∃ d, e.identity = some d ∧
            (d.model ≠ cls ∨ d.level = level ∨ (level.toNat < d.level.toNat ∧ allowed = false))) ∧
      (mask = 0 ∨ 1 < down.toNat →
        ∃ t, exec (.rollout tag mask down) s = .next t ∧ t.EndsAs (settle (complete tag 0x61 .range 0 0 0 s.taken))) ∧
      (mask ≠ 0 → down.toNat ≤ 1 →
        (s.profile.updates = false →
          ∃ t, exec (.rollout tag mask down) s = .next t ∧ t.EndsAs (settle (complete tag 0x61 .disabled 0 0 0 s.taken))) ∧
        (s.profile.updates = true → s.held .image = true →
          ∃ t, exec (.rollout tag mask down) s = .next t ∧ t.EndsAs (settle (complete tag 0x61 .busy 0 0 0 s.taken))) ∧
        (s.profile.updates = true → s.held .image = false → s.update.image.state ≠ .verified →
          ∃ t, exec (.rollout tag mask down) s = .next t ∧
            t.EndsAs (settle (complete tag 0x61 .state (s.update.image.state.code.setWidth 32) 0 0 s.taken))) ∧
        (∀ (h : ImageHead) (len : Nat) (check : Word), s.profile.updates = true → s.held .image = false →
          s.update.image.state = .verified → s.update.image.head = some h → s.update.image.staged = some (len, check) →
          ∃ t x, exec (.rollout tag mask down) s = .next t ∧ t.EndsAs (settle x) ∧
            x = { (startLong 0x61 tag .image s.taken) with
              update := { s.update with
                image := { s.update.image with state := .inRollout },
                rollout :=
                  { state := .active, level := h.level, cls := h.cls, length := len, check := check, downgrade := down == 1,
                    target := mask, done := 0, failed := 0, skipped := x.update.rollout.skipped, orphaned := false } },
              roster := x.roster, report := x.report } ∧
            (let skips := fun i : Slot => mask.getLsbD i.val = true ∧ (s.ent i).skippedBy h.level h.cls (down == 1) = true
             ((∃ i, skips i) → x.report = { s.report.raising .rollout with summaryRaised := true }) ∧
             ((∀ i, ¬skips i) → x.report = s.report)) ∧
            (∀ i : Slot,
              ((x.ent i).upd.state = if mask.getLsbD i.val = false then .unset
                else if (s.ent i).skippedBy h.level h.cls (down == 1) then .skipped else .queued) ∧
              (x.update.rollout.skipped.getLsbD i.val =
                (mask.getLsbD i.val && (s.ent i).skippedBy h.level h.cls (down == 1))) ∧
              x.ent i = { s.ent i with upd := { (s.ent i).upd with state := (x.ent i).upd.state } })))) ∧
   (∀ (tag : Half) (s : State), s.hears = true →
      (s.update.rollout.state ≠ .active →
        ∃ t, exec (.rolloutHalt tag) s = .next t ∧ t.EndsAs (settle (complete tag 0x62 .state 0 0 0 s.taken))) ∧
      (s.update.rollout.state = .active →
        ∃ t x, exec (.rolloutHalt tag) s = .next t ∧ t.EndsAs (settle x) ∧
          (∀ i : Slot,
            ((s.ent i).upd.state = .queued →
              x.ent i = { s.ent i with upd := { (s.ent i).upd with state := .skipped } }) ∧
            ((s.ent i).upd.state = .sending → (s.ent i).upd.switchQueued = false →
              (s.blockRunning (s.ent i).line .image i = true →
                x.ent i = { s.ent i with upd := { (s.ent i).upd with stopMark := true } }) ∧
              (s.blockRunning (s.ent i).line .image i = false →
                x.ent i = { s.ent i with
                  activity := .idle, abortMark := .unset,
                  upd := { (s.ent i).upd with state := .skipped, switchQueued := false, stopMark := false, limit := none,
                                              identAsked := false, blockData := [], readsLeft := 0 } })) ∧
            ((s.ent i).upd.state = .sending → (s.ent i).upd.switchQueued = true → x.ent i = s.ent i) ∧
            ((s.ent i).upd.state ≠ .queued → (s.ent i).upd.state ≠ .sending → x.ent i = s.ent i)) ∧
          (let stops := fun i : Slot => (s.ent i).upd.state = .sending ∧ (s.ent i).upd.switchQueued = false ∧
             s.blockRunning (s.ent i).line .image i = false
           let skips := fun i : Slot => (s.ent i).upd.state = .queued ∨ stops i
           (∀ i, s.stopsAtOnce i = true ↔ stops i) ∧
           ((∃ i, skips i) → x.report.pendingSet = raisedPending s.report.pendingSet .rollout ∧
             x.report.overrunSet = raisedOverrun s.report.pendingSet s.report.overrunSet .rollout) ∧
           ((∀ i, ¬skips i) → x.report.pendingSet = s.report.pendingSet ∧ x.report.overrunSet = s.report.overrunSet) ∧
           (∀ i : Slot, x.update.rollout.skipped.getLsbD i.val = true ↔
             s.update.rollout.skipped.getLsbD i.val = true ∨ skips i)) ∧
          x.update = { s.update with
            rollout := { s.update.rollout with state := .halting, skipped := x.update.rollout.skipped },
            blockReads := s.update.blockReads.filter (fun b => !s.stopsAtOnce b.slot) } ∧
          (let stopped := fun o : IssueOwner => match o with
             | .block i => s.stopsAtOnce i
             | _ => false
           x.path = { s.path with issued := disregarding stopped s.path.issued }) ∧
          (∀ l : LineNo, x.ln l = { s.ln l with streams := (s.ln l).streams.filter (fun z =>
            !(z.kind == .image && (s.stopsAtOnce z.slot && (s.ent z.slot).line == l))) }) ∧
          (x.report.journal, x.report.gapPending) = (slots.filter s.stopsAtOnce).foldl
            (fun p i => ({ s.report with journal := p.1, gapPending := p.2 } : ReportWriter).passed (.update
              { slot := i, outcome := .stopped, level := s.update.rollout.level, check := s.update.rollout.check,
                prev := (s.ent i).upd.prevLevel, reported := none, picked := (s.ent i).upd.picked, stop := s.report.clock,
                blocks := (s.ent i).upd.nextBlock, reason := none }))
            (s.report.journal, s.report.gapPending) ∧
          x.command.longs = s.command.longs ∧
          x.command.completions = s.command.completions ++
            [completionOf tag 0x62 .done
              (BitVec.ofNat 32 (slots.countP (fun i => (s.ent i).upd.state == .queued) +
                slots.countP (fun i => (s.ent i).upd.state == .sending && !(s.ent i).upd.switchQueued)))
              (BitVec.ofNat 32 (slots.countP (fun i =>
                ((s.ent i).upd.state == .sending && (s.ent i).upd.switchQueued) || (s.ent i).upd.state == .switching))) 0] ∧
          x = { s.taken with
            command := x.command, update := x.update, path := x.path, lines := x.lines, roster := x.roster, report := x.report } ∧
          x.report = { s.report with
            journal := x.report.journal, gapPending := x.report.gapPending, pendingSet := x.report.pendingSet,
            overrunSet := x.report.overrunSet, summaryRaised := x.report.summaryRaised })))

/-! ## The report writer -/

/-- What the report writer posts. The completion at the head, when its ring has a free entry (log 30): its record goes to the
completion ring, COMPLETION is raised, one completion fewer is owed, and a fetch may begin. With none to post, the UNPOSTED
call of the highest severity, the oldest of those: its record goes to the service ring, SERVICE is raised, and it is POSTED.
With no call to post either, the journal's head. Who is served first (R178): a completion, then a call, then a journal record,
then the head of the rewrite list; a row that is not the one served changes nothing, whether another is served, nothing of its
own kind is ready, or nothing is served for want of room in the posted-write queue or outside RUNNING (log 4); while HRST is asserted only the own writes of a start-up that ended under that
HRST are served, up to its summary word (log 23). A completion is ready while its ring has a free entry (log 30), and so are a
call to post and a journal record. R172, R173, R183: the records of long commands, by which the statements about them speak. A
command that its owner has accepted appends its record, with its kind, tag and object and no orphaned mark; an object is held
while a record names it. The end of the command removes the record, and the others keep their order: one not orphaned has its
completion composed, behind those that wait, and an orphaned one has none. An end without a record does nothing. -/
def Obligations.RingRecordsPostedInOrder : Prop :=
  (∀ s : State, s.hears = true → s.path.posted.length < 16 →
     (∀ (c : Completion) (rest : List Completion), s.command.completions = c :: rest →
       (s.report.complProd - s.report.complCons).toNat < s.profile.completion.size →
       ∃ t, exec .completionPost s = .next t ∧
         t.EndsAs (fetchBegin { s with
           path := s.path.posting
             { addr := s.profile.completion.base +
                 BitVec.ofNat 32 (s.report.complProd.toNat % s.profile.completion.size * 16),
               data := [((c.result.code ++ c.kind) ++ c.tag : BitVec 32), c.d1, c.d2, c.d3], kind := .completion },
           report := ({ s.report with complProd := s.report.complProd + 1 } : ReportWriter).raising .completion,
           command := { s.command with completions := rest, owed := s.command.owed - 1 } })) ∧
     (∀ (c : Call) (before after : List Call), s.completionReady = none → s.CallKeysDistinct →
       (s.report.svcProd - s.report.svcCons).toNat < s.profile.service.size →
       s.service.calls = before ++ c :: after → c.state = .unposted →
       (∀ x ∈ before, x.state = .unposted → x.severity.rank < c.severity.rank) →
       (∀ x ∈ after, x.state = .unposted → x.severity.rank ≤ c.severity.rank) →
       ∃ t, exec .servicePosting s = .next t ∧
         t.EndsAs { s with
           path := s.path.posting
             { addr := s.profile.service.base + BitVec.ofNat 32 (s.report.svcProd.toNat % s.profile.service.size * 32),
               data := c.words, kind := .service },
           report := ({ s.report with svcProd := s.report.svcProd + 1 } : ReportWriter).raising .service,
           service := { s.service with
             calls := before ++ { c with state := .posted, postedBefore := true } :: after } }) ∧
     (∀ (j : JournalRec) (rest : List JournalRec), s.completionReady = none → s.serviceReady = none →
       (s.report.jrnProd - s.report.jrnCons).toNat < s.profile.journal.size → s.report.journal = j :: rest →
       ∃ t, exec .journalRecordWrite s = .next t ∧
         t.EndsAs { s with
           path := s.path.posting
             { addr := s.profile.journal.base + BitVec.ofNat 32 (s.report.jrnProd.toNat % s.profile.journal.size * 32),
               data := j.words, kind := .journal },
           report :=
             ({ s.report with jrnProd := s.report.jrnProd + 1, journal := rest } : ReportWriter).raising .journal })) ∧
  (∀ s : State,
     (s.completionReady = none ↔ s.command.completions = [] ∨
       s.profile.completion.size ≤ (s.report.complProd - s.report.complCons).toNat) ∧
     (s.serviceReady = none ↔ (∀ c ∈ s.service.calls, c.state ≠ .unposted) ∨
       s.profile.service.size ≤ (s.report.svcProd - s.report.svcCons).toNat) ∧
     (s.journalReady = none ↔ s.report.journal = [] ∨
       s.profile.journal.size ≤ (s.report.jrnProd - s.report.jrnCons).toNat) ∧
     (s.completionReady = none → exec .completionPost s = .next s) ∧
     (s.serviceReady = none → exec .servicePosting s = .next s) ∧
     (s.journalReady = none → exec .journalRecordWrite s = .next s) ∧
     (s.mode ≠ .running ∨ 16 ≤ s.path.posted.length →
       ∀ c ∈ [Instr.completionPost, .servicePosting, .journalRecordWrite, .mirrorRewrite, .eventSummaryWrite],
         exec c s = .next s) ∧
     (s.hrst = true →
       ∀ c ∈ [Instr.completionPost, .servicePosting, .journalRecordWrite], exec c s = .next s) ∧
     (s.hrst = true → s.startUnderHrst = false →
       ∀ c ∈ [Instr.mirrorRewrite, .eventSummaryWrite], exec c s = .next s) ∧
     (s.hrst = false → s.completionReady ≠ none →
       ∀ c ∈ [Instr.servicePosting, .journalRecordWrite, .mirrorRewrite, .eventSummaryWrite], exec c s = .next s) ∧
     (s.hrst = false → s.serviceReady ≠ none →
       ∀ c ∈ [Instr.journalRecordWrite, .mirrorRewrite, .eventSummaryWrite], exec c s = .next s) ∧
     (s.hrst = false → s.journalReady ≠ none →
       ∀ c ∈ [Instr.mirrorRewrite, .eventSummaryWrite], exec c s = .next s) ∧
     (∀ (x : RewriteItem) (rest : List RewriteItem), s.report.rewriteList = x :: rest → 16 < s.path.posted.length + x.room →
       ∀ c ∈ [Instr.mirrorRewrite, .eventSummaryWrite], exec c s = .next s)) ∧
  (∀ (o : LongObj) (s : State),
     (∀ (kind : Byte) (tag : Half),
       startLong kind tag o s = { s with command := { s.command with
         longs := s.command.longs ++ [{ kind := kind, tag := tag, obj := o, orphaned := false }] } }) ∧
     (s.held o = true ↔ ∃ x ∈ s.command.longs, x.obj = o) ∧
     (∀ (r : ResultCode) (d1 d2 d3 : Word),
       (s.held o = false → endLong o r d1 d2 d3 s = s) ∧
       (∀ (x : Long) (before after : List Long), s.LongsDistinct → s.command.longs = before ++ x :: after → x.obj = o →
         (x.orphaned = false →
           endLong o r d1 d2 d3 s = { s with command := { s.command with
             longs := before ++ after,
             completions := s.command.completions ++ [completionOf x.tag x.kind r d1 d2 d3] } }) ∧
         (x.orphaned = true →
           endLong o r d1 d2 d3 s = { s with command := { s.command with longs := before ++ after } }))))

/-- The rewrite list's head is composed and posted when it is its turn and the queue has room; while HRST is asserted that is
so for the own writes of a start-up that ended under that HRST alone, the last of which is its summary word (R186; log 23). A
mirror record is posted as its change count plus 1, its other words in bursts of eight or fewer at rising addresses, and its
change count plus 2, and the count advances by 2; the summary word carries both event sets. The item leaves the list, and the
rest stays in its order (R178; that nothing is listed twice and no raise is still to be placed is the invariant RewritesOnce,
StepKeepsTablesDistinct). A row whose item is not at the list's head changes nothing (log 4): a mirror rewrite while the list
is empty or its head is the summary word, a summary write while the list is empty or its head is a record. -/
def Obligations.RewritesPosted : Prop :=
  (∀ (s : State) (rest : List RewriteItem), s.rewritesServed →
     (∀ i : Slot, s.report.rewriteList = .oven i :: rest → s.path.posted.length + 4 ≤ 16 →
       ∃ t, exec .mirrorRewrite s = .next t ∧
         t.EndsAs { s with
           path := { s.path with
             posted := s.path.posted ++
               [{ addr := s.ovenAddr i, data := [s.report.ovenCounts[i] + 1], kind := .mirror },
                { addr := s.ovenAddr i + 4, data := (wordsOf (s.ovenBytes i)).take 8, kind := .mirror },
                { addr := s.ovenAddr i + 36, data := (wordsOf (s.ovenBytes i)).drop 8, kind := .mirror },
                { addr := s.ovenAddr i, data := [s.report.ovenCounts[i] + 2], kind := .mirror }],
             arbMode := if 12 ≤ s.path.posted.length + 4 then .drain else s.path.arbMode },
           report := { s.report with ovenCounts := s.report.ovenCounts.set i (s.report.ovenCounts[i] + 2) } } ∧
         (wordsOf (s.ovenBytes i)).length = 15 ∧ .oven i ∉ t.report.rewriteList ∧
         (s.RewritesOnce → t.report.rewriteList = rest)) ∧
     (s.report.rewriteList = .site :: rest → s.path.posted.length + 6 ≤ 16 →
       ∃ t, exec .mirrorRewrite s = .next t ∧
         t.EndsAs { s with
           path := { s.path with
             posted := s.path.posted ++
               [{ addr := s.siteAddr, data := [s.report.siteCount + 1], kind := .mirror },
                { addr := s.siteAddr + 4, data := (wordsOf s.siteBytes).take 8, kind := .mirror },
                { addr := s.siteAddr + 36, data := ((wordsOf s.siteBytes).drop 8).take 8, kind := .mirror },
                { addr := s.siteAddr + 68, data := ((wordsOf s.siteBytes).drop 16).take 8, kind := .mirror },
                { addr := s.siteAddr + 100, data := (wordsOf s.siteBytes).drop 24, kind := .mirror },
                { addr := s.siteAddr, data := [s.report.siteCount + 2], kind := .mirror }],
             arbMode := if 12 ≤ s.path.posted.length + 6 then .drain else s.path.arbMode },
           report := { s.report with siteCount := s.report.siteCount + 2 } } ∧
         (wordsOf s.siteBytes).length = 31 ∧ .site ∉ t.report.rewriteList ∧
         (s.RewritesOnce → t.report.rewriteList = rest)) ∧
     (s.report.rewriteList = .summary :: rest → s.path.posted.length < 16 →
       ∃ t, exec .eventSummaryWrite s = .next t ∧
         t.EndsAs { s with
           path := s.path.posting
             { addr := s.profile.summary,
               data := [s.report.pendingSet.setWidth 32 ||| (s.report.overrunSet.setWidth 32 <<< 16)], kind := .summary },
           startUnderHrst := false } ∧
         (s.report.summaryRaised = false → .summary ∉ t.report.rewriteList) ∧
         (s.RewritesOnce → t.report.rewriteList = rest))) ∧
  (∀ s : State,
     (s.report.rewriteList.head? = none ∨ s.report.rewriteList.head? = some .summary → exec .mirrorRewrite s = .next s) ∧
     (s.report.rewriteList.head? ≠ some .summary → exec .eventSummaryWrite s = .next s))

/-! ## The lines -/

/-- R43: what a FREE line with no test does: its oldest urgent telegram, else the overdue poll that began earliest, those of
equal times in the round, else the first ready stream's block, else the first due poll in the round; a line that is not FREE,
or has a test, begins nothing. An IDENT_REQ that begins for an entry in ASSIGNING brings it to IDENTIFYING (R8); no other
telegram that begins changes an entry. A poll that begins sets its entry's time, on the model's clock (log 10), and the
pointer to the slot after. -/
def Obligations.SchedulerChooses : Prop :=
  ∀ (l : LineNo) (s : State), s.mode = .running →
    ((s.ln l).state ≠ .free ∨ (s.ln l).test ≠ .unset → ∃ t, exec (.schedulerChoice l) s = .next t ∧ t.EndsAs s) ∧
    ((s.ln l).state = .free → (s.ln l).test = .unset →
      (∀ (q : Queued) (rest : List Queued), (s.ln l).urgent = q :: rest →
        let x := s.setLn l { s.ln l with
          state := .transmit, trans := some { q := q, attempt := 1, damage := false, gone := false }, window := none,
          quiet := none, urgent := rest ++ (s.ln l).waiting.take 1, waiting := (s.ln l).waiting.drop 1 }
        ∃ t, exec (.schedulerChoice l) s = .next t ∧
          (∀ i, q.tel = .identReq → q.target = some i → (s.ent i).state = .assigning →
            t.EndsAs (x.setEnt i { s.ent i with state := .identifying })) ∧
          (q.tel ≠ .identReq ∨ (∀ i, q.target = some i → (s.ent i).state ≠ .assigning) → t.EndsAs x)) ∧
      (∀ p ∈ (s.ln l).schedule, (s.ln l).urgent = [] →
        (p.overdue = true ∧
          (∀ q ∈ (s.ln l).schedule, q.overdue = true →
            p.begun < q.begun ∨ p.begun = q.begun ∧ roundPos (s.ln l).rr p.slot ≤ roundPos (s.ln l).rr q.slot)) ∨
        ((∀ q ∈ (s.ln l).schedule, q.overdue = false) ∧ (∀ z ∈ (s.ln l).streams, z.ready = false) ∧ p.due = true ∧
          (∀ q ∈ (s.ln l).schedule, q.due = true →
            roundPos (s.ln l).rr p.slot ≤ roundPos (s.ln l).rr q.slot)) →
        ∃ t, exec (.schedulerChoice l) s = .next t ∧
          t.EndsAs (s.setLn l { s.ln l with
            state := .transmit, window := none, quiet := none, rr := p.slot + 1,
            trans := some
              { q := { tel := .poll (s.ent p.slot).toggle, owner := .lineUnit, target := some p.slot, about := none,
                       addr := (s.ent p.slot).drop, replyAddr := (s.ent p.slot).drop, void := false },
                attempt := 1, damage := false, gone := false },
            schedule := (s.ln l).schedule.map fun x =>
              if x.slot = p.slot then
                { x with begun := s.now, due := false, overdue := false }
              else x })) ∧
      (∀ (z : Stream) (before after : List Stream) (tel : Telegram), (s.ln l).urgent = [] →
        (∀ q ∈ (s.ln l).schedule, q.overdue = false) → (s.ln l).streams = before ++ z :: after → z.ready = true →
        (∀ y ∈ before, y.ready = false) → streamTelegram (s.ln l).fill z = some tel →
        ∃ t, exec (.schedulerChoice l) s = .next t ∧
          t.EndsAs (s.setLn l { s.ln l with
            state := .transmit, window := none, quiet := none,
            trans := some
              { q := { tel := tel, owner := if z.kind = .fill then .cache else .update, target := some z.slot,
                       about := none, addr := (s.ent z.slot).drop, replyAddr := (s.ent z.slot).drop, void := false },
                attempt := 1, damage := false, gone := false },
            streams := (s.ln l).streams.map fun y =>
              if y.kind = z.kind ∧ y.slot = z.slot then { y with ready := false } else y })) ∧
      ((s.ln l).urgent = [] → (∀ q ∈ (s.ln l).schedule, q.overdue = false ∧ q.due = false) →
        (∀ z ∈ (s.ln l).streams, z.ready = false) → ∃ t, exec (.schedulerChoice l) s = .next t ∧ t.EndsAs s))

/-- The marks of the poll schedule, and the events inside an attempt: the end of the telegram opens the reply window, an
accepted start bit begins the reply, a gap damages it, a start bit in QUIET restarts the wait, the end of the turnaround frees
the line; in any other state of the line they change nothing (log 4). R42: an entry joins the schedule as due, its last poll
taken to have begun one poll period before on the model's clock, in microseconds, by which no mark is set (logs 3 and 10); it
leaves when it is told to. An attempt that ends unanswered, in the reply window or at the end of QUIET: the telegram is sent
again until it has been sent three times; then the transaction is FAILED and the line FREE, and a POLL's failure is counted,
with OVEN_LATE at the third of an oven in service. The end of the transaction is `endTransaction`, whose owners' part is
stated with the replies. -/
def Obligations.LineEventsAndAttemptsEnd : Prop :=
  (∀ (l : LineNo) (i : Slot) (s : State), s.mode = .running →
     (∀ late : Bool, ∃ t, exec (if late then .pollOverdue i else .pollDue i) s = .next t ∧
       t.EndsAs { s with lines := s.lines.map fun x =>
         { x with schedule := x.schedule.map fun p =>
             if p.slot = i then { p with due := true, overdue := p.overdue || late } else p } }) ∧
     (∃ t, exec (.transmitEnd l) s = .next t ∧
       t.EndsAs (if (s.ln l).state = .transmit then s.setLn l { s.ln l with state := .listen, window := some s.now } else s)) ∧
     (∃ t, exec (.replyStartBitAccepted l) s = .next t ∧
       t.EndsAs (if (s.ln l).state = .listen then s.setLn l { s.ln l with state := .receive, window := none } else s)) ∧
     (∃ t, exec (.quietStartBitAccepted l) s = .next t ∧
       t.EndsAs (if (s.ln l).state = .quiet then s.setLn l { s.ln l with window := some s.now } else s)) ∧
     (∃ t, exec (.turnaroundEnd l) s = .next t ∧
       t.EndsAs (if (s.ln l).state = .turnaround then s.setLn l { s.ln l with state := .free } else s)) ∧
     (∀ tr, (s.ln l).state = .receive → (s.ln l).trans = some tr →
       ∃ t, exec (.characterGapLimitExpiry l) s = .next t ∧
         t.EndsAs (s.setLn l { s.ln l with
           state := .quiet, trans := some { tr with damage := true }, window := some s.now, quiet := some s.now })) ∧
     ((s.ln l).state ≠ .receive → ∃ t, exec (.characterGapLimitExpiry l) s = .next t ∧ t.EndsAs s) ∧
     (let n := (s.ent i).line
      ((∃ p ∈ (s.ln n).schedule, p.slot = i) → joinSchedule i s = s) ∧
      ((∀ p ∈ (s.ln n).schedule, p.slot ≠ i) →
        joinSchedule i s = s.setLn n { s.ln n with schedule := (s.ln n).schedule ++
          [{ slot := i, begun := (s.now : Int) - 100000 * (s.profile.pollPeriod : Int), due := true, overdue := false }] })) ∧
     leaveSchedule i s = { s with
       lines := s.lines.map (fun x => { x with schedule := x.schedule.filter (fun p => p.slot != i) }) }) ∧
  (∀ (l : LineNo) (tr : Transaction) (s : State) (c : Instr), s.mode = .running → (s.ln l).trans = some tr →
     (c = .replyWindowExpiry l ∧ (s.ln l).state = .listen) ∨ (c = .quietEnd l ∧ (s.ln l).state = .quiet) →
     (tr.attempt < 3 →
       ∃ t, exec c s = .next t ∧
         t.EndsAs (settle (s.setLn l { s.ln l with
           state := .transmit, trans := some { tr with attempt := tr.attempt + 1 }, window := none, quiet := none }))) ∧
     (3 ≤ tr.attempt →
       ∃ t x, exec c s = .next t ∧ t.EndsAs (settle x) ∧ (x.ln l).state = .free ∧
         (∀ i : Slot, tr.q.target = some i → tr.gone = false → (∃ a, tr.q.tel = .poll a) → (s.ent i).state ≠ .vacant →
           let goesLate := (s.ent i).state == .inService && (s.ent i).failures == 2 && !(s.ent i).late
           let y : State := (s.setLn l { s.ln l with state := .free, trans := none, window := none, quiet := none }).setEnt i
             { s.ent i with failures := min 3 ((s.ent i).failures + 1), late := (s.ent i).late || goesLate }
           x = if goesLate then raiseEvent .ovenLate y else y) ∧
         x = endTransaction l tr (.failed tr.damage) s))

/-- A reply judged, and what it comes to. A reply that is damaged, or well formed but not allowed for its telegram, sends the
line into QUIET with damage seen; a valid one ends the transaction and the line is in TURNAROUND; one that is not yet whole
leaves the line in RECEIVE. That a row which comes in LISTEN is taken as one in RECEIVE is the model's choice (log 14). At the
end of a transaction its outcome counts for the liveness of the oven it was for (R44) and then goes to the telegram's owner
(R36); the outcome for an entry that is VACANT or gone reaches only the clean-up of what it leaves; a valid outcome from a
SWITCHING oven has its identity asked for, after its owner has acted (the model's reading, log 49). In the model's order (log
15) a STATUS gives the oven's readings (R33), has a FLUSH that is owed (R93) and evictions that are DUE (R91) sent again, ends
the wait of its cleaning for an idle oven when it reports idle (R125), and hands a notice whose toggle is new to its owner
(R38). Readings from an oven in CAL_FAILED are not kept (the model's reading, log 17). A valid STATUS without a notice, from a
polled oven that owes no FLUSH and no DUE eviction, resets the oven's liveness and keeps its readings. -/
def Obligations.RepliesJudged : Prop :=
  ∀ (l : LineNo) (chars : List RawChar) (tr : Transaction) (s : State),
    (s.mode = .running → (s.ln l).state = .listen ∨ (s.ln l).state = .receive → (s.ln l).trans = some tr →
      (judgeReply tr.q.replyAddr (sampleChars chars) = .damaged ∨
        (∃ k p, judgeReply tr.q.replyAddr (sampleChars chars) = .wellFormed k p ∧ replyTo tr.q.tel k p = none) →
        ∃ t, exec (.replyReceived l chars) s = .next t ∧
          t.EndsAs (settle (s.setLn l { s.ln l with
            state := .quiet, trans := some { tr with damage := true }, window := some s.now, quiet := some s.now }))) ∧
      (judgeReply tr.q.replyAddr (sampleChars chars) = .incomplete →
        (sampleChars chars = [] ∨ (s.ln l).state = .receive →
          ∃ t, exec (.replyReceived l chars) s = .next t ∧ t.EndsAs (settle s)) ∧
        (sampleChars chars ≠ [] → (s.ln l).state = .listen →
          ∃ t, exec (.replyReceived l chars) s = .next t ∧
            t.EndsAs (settle (s.setLn l { s.ln l with state := .receive, window := none })))) ∧
      (∀ k p r, judgeReply tr.q.replyAddr (sampleChars chars) = .wellFormed k p → replyTo tr.q.tel k p = some r →
        ∃ t x, exec (.replyReceived l chars) s = .next t ∧ t.EndsAs (settle x) ∧ (x.ln l).state = .turnaround ∧
          x = endTransaction l tr (.valid r) s ∧
          (∀ (i : Slot) (st : StatusReply), tr.q.target = some i → tr.gone = false → r = .status st → st.notice = none →
            (∃ a, tr.q.tel = .poll a) → (s.ent i).state.polled = true → (s.ent i).flushDue = false →
            (∀ d ∈ (s.ent i).dir, d.eviction ≠ .due) → (s.ent i).upd.state ≠ .switching →
            x = { s.setEnt i { s.ent i with
                    failures := 0, late := false, lastReply := some s.report.clock, silence := some s.now,
                    readings := some { cabinet := st.cabinet, core := st.core, reported := st.activity } } with
                  lines := s.lines.set l { s.ln l with state := .turnaround, trans := none, window := none, quiet := none },
                  hygiene := { s.hygiene with
                    queue := if st.activity = .idle then
                      s.hygiene.queue.map (fun w => if w.slot = i then { w with idleWait := false } else w)
                    else s.hygiene.queue } }))) ∧
    (∀ o : Outcome,
      let y := s.setLn l { s.ln l with trans := none, window := none, quiet := none }
      let ends := fun z : State => z.setLn l { z.ln l with state := if o.isValid then .turnaround else .free }
      (tr.q.target = none → endTransaction l tr o s = ends (deliverUntargeted tr.q o y)) ∧
      (∀ i : Slot, tr.q.target = some i →
        (tr.gone = true ∨ (s.ent i).state = .vacant → endTransaction l tr o s = ends (deliverGone l tr.q i o y)) ∧
        (tr.gone = false → (s.ent i).state ≠ .vacant →
          ((s.ent i).upd.state ≠ .switching ∨ o.isValid = false →
            endTransaction l tr o s = ends (deliverTo l tr.q i o (liveness i o.isValid y))) ∧
          ((s.ent i).upd.state = .switching → o.isValid = true →
            endTransaction l tr o s = ends (askIdentity i (deliverTo l tr.q i o (liveness i true y))))))) ∧
    (∀ (i : Slot) (q : Queued) (o : Outcome),
      ((∃ t r v, q.tel = .grant t r v) ∨ (∃ t r v, q.tel = .start t r v) ∨ (∃ a, q.tel = .poll a) ∨
        q.tel = .identReq ∨ q.tel = .probeCheck ∨ q.tel = .flush ∨ (∃ r, q.tel = .evict r) ∨
        (q.tel = .abort ∧ q.owner ≠ .cache) → deliverGone l q i o s = s) ∧
      (q.tel = .abort → q.owner = .cache → deliverGone l q i o s = abortOutcome i true o s)) ∧
    (∀ i : Slot,
      liveness i true s = s.setEnt i { s.ent i with
        failures := 0, late := false, lastReply := some s.report.clock, silence := some s.now } ∧
      ((s.ent i).failures < 2 ∨ (s.ent i).state ≠ .inService → (s.ent i).failures ≤ 3 →
        liveness i false s = s.setEnt i { s.ent i with failures := min 3 ((s.ent i).failures + 1) }) ∧
      ((s.ent i).failures = 2 → (s.ent i).state = .inService → (s.ent i).late = false →
        liveness i false s = raiseEvent .ovenLate (s.setEnt i { s.ent i with failures := 3, late := true }))) ∧
    (∀ (i : Slot) (q : Queued) (st : StatusReply), (∃ a, q.tel = .poll a) →
      let y := resendEvictions i (resendFlush i (takeReadings i st s))
      let z := if st.activity = .idle then setIdleWait i false y else y
      let x := deliverTo l q i (.valid (.status st)) s
      (st.notice = none → x = z) ∧
      (∀ (tg : Bool) (n : Notice), st.notice = some (tg, n) →
        ((z.ent i).toggle = some tg → x = z) ∧
        ((z.ent i).toggle ≠ some tg → x = takeNotice i n (z.setEnt i { z.ent i with toggle := some tg }))) ∧
      ((s.ent i).state.polled = true ∨ (s.ent i).state = .assigning →
        takeReadings i st s = s.setEnt i { s.ent i with
          readings := some { cabinet := st.cabinet, core := st.core, reported := st.activity } }) ∧
      ((s.ent i).state.polled = false → (s.ent i).state ≠ .assigning → takeReadings i st s = s) ∧
      setIdleWait i false s = { s with hygiene := { s.hygiene with
        queue := s.hygiene.queue.map (fun w => if w.slot = i then { w with idleWait := false } else w) } })

/-- R46, R47: LINE_TEST of an enabled line that no long command holds makes the test pending; it starts when the line is FREE,
ends at its first fault or with the last of its 69 characters, or at the end of the window after the last, and completes with
the verdict, the count of characters that came back, and the fault. A start row out of place, and a loopback row before the
test has ended, change nothing (the model's choice, log 4); which of several damages of one character is reported as its fault
is the model's free choice (log 13), and nothing here rests on it. The test's telegram is address 0 with the mark, kind 0x1F,
length 64, bytes i exclusive-or 0x5A, and the check word. -/
def Obligations.LineTestRuns : Prop :=
  (let body : List Byte := 0x1F :: 64 :: (List.range 64).map (fun k => BitVec.ofNat 8 k ^^^ 0x5A)
   testChars = 0x100 :: (body ++ [(crc16 body).extractLsb' 0 8, (crc16 body).extractLsb' 8 8]).map (fun b => b.setWidth 9)) ∧
  (∀ (sent : List (BitVec 9)) (got : List RxChar) (n : Nat) (f : FirstFault), loopRun sent got 0 = (n, f) →
    let good := fun k : Nat => ∃ x c, sent[k]? = some x ∧ got[k]? = some c ∧ c.damaged = false ∧ c.data = x
    (∀ k, k < n → good k) ∧ ¬good n ∧
    (f = .none ↔ sent.length ≤ n ∨ got.length ≤ n) ∧
    (f ≠ .none → ∃ x c, sent[n]? = some x ∧ got[n]? = some c ∧
      ((f = .parity ∧ c.parity = true) ∨ (f = .framing ∧ c.framing = true) ∨ (f = .noise ∧ c.noise = true) ∨
        (f = .unequal ∧ c.data ≠ x)))) ∧
  ∀ (l : LineNo) (chars : List RawChar) (s : State),
    (s.hears = true → ∀ tag : Half,
      (∀ b : Byte, 4 ≤ b.toNat →
        ∃ t, exec (.lineTest tag b) s = .next t ∧ t.EndsAs (complete tag 0x10 .range 0 0 0 s.taken)) ∧
      (s.held (.line l) = true →
        ∃ t, exec (.lineTest tag (BitVec.ofNat 8 l.val)) s = .next t ∧ t.EndsAs (complete tag 0x10 .busy 0 0 0 s.taken)) ∧
      (s.held (.line l) = false → s.lineEnabled l = false →
        ∃ t, exec (.lineTest tag (BitVec.ofNat 8 l.val)) s = .next t ∧
          t.EndsAs (complete tag 0x10 .disabled 0 0 0 s.taken)) ∧
      (s.held (.line l) = false → s.lineEnabled l = true →
        ∃ t, exec (.lineTest tag (BitVec.ofNat 8 l.val)) s = .next t ∧
          t.EndsAs ((startLong 0x10 tag (.line l) s.taken).setLn l { s.ln l with test := .pending }))) ∧
    (s.mode = .running →
      (∃ t, exec (.lineTestStart l) s = .next t ∧
        t.EndsAs (if (s.ln l).state = .free ∧ (s.ln l).test = .pending then
          s.setLn l { s.ln l with state := .test, test := .running } else s)) ∧
      (∀ (n : Nat) (f : FirstFault), (s.ln l).state = .test → loopRun testChars (sampleChars chars) 0 = (n, f) →
        (f ≠ .none ∨ n = 69 →
          ∃ t, exec (.lineTestLoopbackEnd l chars) s = .next t ∧
            t.EndsAs (endLong (.line l) .done (if f = .none then 1 else 2) (BitVec.ofNat 32 n) (f.code.setWidth 32)
              (s.setLn l { s.ln l with state := .free, test := .unset, window := none }))) ∧
        (f = .none → n ≠ 69 → ∃ t, exec (.lineTestLoopbackEnd l chars) s = .next t ∧ t.EndsAs s) ∧
        (f = .none → n < 69 →
          ∃ t, exec (.lineTestWindowExpiry l chars) s = .next t ∧
            t.EndsAs (endLong (.line l) .done 2 (BitVec.ofNat 32 n) 5
              (s.setLn l { s.ln l with state := .free, test := .unset, window := none }))) ∧
        (f ≠ .none →
          ∃ t, exec (.lineTestWindowExpiry l chars) s = .next t ∧
            t.EndsAs (endLong (.line l) .done 2 (BitVec.ofNat 32 n) (f.code.setWidth 32)
              (s.setLn l { s.ln l with state := .free, test := .unset, window := none })))))

/-! ## The timers -/

/-- The roster's timers. Silence of an oven in service raises SILENT (STOP) and suspends it, whatever it is doing (what a
suspension does is `SuspensionTaken`; an idle one's is written out here); a SWITCHING oven is exempt (R45). Silence of a
SUSPENDED oven closes its cook or its cleaning UNKNOWN, with no cause and no call, and does nothing to an idle one (R22). The
re-send of IDENT_REQ queues it once more. The calibration limit fails the calibration with CAL_FAIL. The switch limit fails
the oven in the rollout with its journal record, suspends it, and raises UPDATE_FAIL (STOP) with the reason, no block index
(log 21), the image level and the failed-ident count (R161, R166). A timer that does not run does not expire (log 3). Two more
are the model's choices: a calibration that ends leaves the probe-running mark as it stands (log 44), and SILENT is raised
before the UPDATE_FAIL or RECIPE_CORRUPT that the suspension brings (log 55; R132 leaves the order free). -/
def Obligations.RosterTimersExpire : Prop :=
  ∀ (i : Slot) (s : State), s.mode = .running →
    ((s.ent i).silence ≠ none →
      ((s.ent i).state = .inService → (s.ent i).upd.state ≠ .switching → (s.ent i).upd.state ≠ .queued →
        (s.ent i).activity = .idle →
        ∃ t, exec (.silenceTimerExpiry i) s = .next t ∧
          t.EndsAs (settle (leaveCleaning i ((raiseCall (.oven i) .silent .stop
            [(s.ent i).lastReply.getD 0x80000000, BitVec.ofNat 32 (s.ent i).failures, 5] s).setEnt i
              { s.ent i with silence := none, state := .suspended, causes := (s.ent i).causes ||| causeBit .silent,
                             dir := [] })))) ∧
      ((s.ent i).state ≠ .inService → (s.ent i).state ≠ .suspended →
        ∃ t, exec (.silenceTimerExpiry i) s = .next t ∧ t.EndsAs (settle (s.setEnt i { s.ent i with silence := none }))) ∧
      ((s.ent i).state = .inService → (s.ent i).upd.state ≠ .switching →
        ∃ t, exec (.silenceTimerExpiry i) s = .next t ∧
          t.EndsAs (settle (suspend i .silent (raiseCall (.oven i) .silent .stop
            [(s.ent i).lastReply.getD 0x80000000, BitVec.ofNat 32 (s.ent i).failures, 5]
            (s.setEnt i { s.ent i with silence := none }))))) ∧
      ((s.ent i).state = .inService → (s.ent i).upd.state = .switching →
        ∃ t, exec (.silenceTimerExpiry i) s = .next t ∧ t.EndsAs (settle (s.setEnt i { s.ent i with silence := none }))) ∧
      ((s.ent i).state = .suspended → (s.ent i).activity ≠ .cooking → (s.ent i).activity ≠ .cleaning →
        ∃ t, exec (.silenceTimerExpiry i) s = .next t ∧ t.EndsAs (settle (s.setEnt i { s.ent i with silence := none }))) ∧
      (∀ k, (s.ent i).state = .suspended → (s.ent i).activity = .cooking → (s.ent i).cook = some k →
        ∃ t x, exec (.silenceTimerExpiry i) s = .next t ∧ t.EndsAs (settle x) ∧
          x.ent i = { s.ent i with silence := none, activity := .idle, abortMark := .unset, cook := none, dir := [] } ∧
          x.rslot k.recipe = { s.rslot k.recipe with pins := (s.rslot k.recipe).pins - 1 } ∧
          (x.report.journal, x.report.gapPending) = s.report.passed (.cook
            { slot := i, origin := k.origin, tag := k.tag, recipe := k.recipe, version := k.version, token := k.token,
              start := k.start, stop := s.report.clock, outcome := .unknown, steps := k.step }) ∧
          x.service = s.service ∧ x.lines = s.lines) ∧
      (∀ k, (s.ent i).state = .suspended → (s.ent i).activity = .cleaning → (s.ent i).cleaning = some k →
        ∃ t x, exec (.silenceTimerExpiry i) s = .next t ∧ t.EndsAs (settle x) ∧
          x.ent i = { s.ent i with silence := none, activity := .idle, abortMark := .unset, cleaning := none } ∧
          (x.report.journal, x.report.gapPending) = s.report.passed (.clean
            { slot := i, origin := k.origin, program := k.program, queued := k.queued, start := some k.start,
              stop := s.report.clock, outcome := .unknown, phases := k.phases, maximum := k.maximum, seconds := k.seconds,
              count := (s.ent i).count }) ∧
          x.service = s.service ∧ x.lines = s.lines)) ∧
    ((s.ent i).identResend ≠ none →
      ((s.ent i).state = .identifying ∨ (s.ent i).state = .revalidating →
        ∃ t, exec (.identResendExpiry i) s = .next t ∧
          t.EndsAs (settle (queueUrgent (s.ent i).line
            { tel := .identReq, owner := .roster, target := some i, about := none, addr := (s.ent i).drop,
              replyAddr := (s.ent i).drop, void := false }
            (s.setEnt i { s.ent i with identResend := none })))) ∧
      ((s.ent i).state ≠ .identifying → (s.ent i).state ≠ .revalidating →
        ∃ t, exec (.identResendExpiry i) s = .next t ∧
          t.EndsAs (settle (s.setEnt i { s.ent i with identResend := none })))) ∧
    ((s.ent i).calLimit ≠ none → (s.ent i).state = .calibrating →
      ∃ t, exec (.calibrationLimitExpiry i) s = .next t ∧
        t.EndsAs (settle (endLong (.oven i) .calFail 0x80000000 0x80000000 0
          (raiseCall (.oven i) .calibration .urgent [0x80000000, 0x80000000, 4]
            (leaveSchedule i (s.setEnt i { s.ent i with state := .calFailed, calLimit := none, job := none })))))) ∧
    ((s.ent i).upd.limit ≠ none → (s.ent i).upd.state = .switching →
      ∃ t x, exec (.switchLimitExpiry i) s = .next t ∧ t.EndsAs (settle x) ∧
        (x.ent i).state = .suspended ∧ (x.ent i).causes = (s.ent i).causes ||| causeBit .update ∧
        (x.ent i).activity = .idle ∧ (x.ent i).upd.state = .failed ∧ (x.ent i).upd.reason = some .switchLimit ∧
        (x.ent i).upd.limit = none ∧ (x.ent i).dir = [] ∧
        x.update.rollout.failed = s.update.rollout.failed ||| (1 <<< i.val) ∧
        x.service = (raiseCall (.oven i) .updateFail .stop
          [8, 0x80000000, s.update.rollout.level.setWidth 32, BitVec.ofNat 32 (s.ent i).upd.failedIdents] s).service ∧
        (x.report.journal, x.report.gapPending) = s.report.passed (.update
          { slot := i, outcome := .failed, level := s.update.rollout.level, check := s.update.rollout.check,
            prev := (s.ent i).upd.prevLevel, reported := none, picked := (s.ent i).upd.picked, stop := s.report.clock,
            blocks := (s.update.rollout.length + 63) / 64, reason := some .switchLimit }) ∧
        (s.hrst = false → x.report.pendingSet = raisedPending s.report.pendingSet .rollout)) ∧
    ((s.ent i).silence = none → ∃ t, exec (.silenceTimerExpiry i) s = .next t ∧ t.EndsAs (settle s)) ∧
    ((s.ent i).identResend = none → ∃ t, exec (.identResendExpiry i) s = .next t ∧ t.EndsAs (settle s)) ∧
    ((s.ent i).calLimit = none → ∃ t, exec (.calibrationLimitExpiry i) s = .next t ∧ t.EndsAs (settle s)) ∧
    ((s.ent i).upd.limit = none → ∃ t, exec (.switchLimitExpiry i) s = .next t ∧ t.EndsAs (settle s))

/-- The hygiene timers. Each minute every COOKING oven's count of cook-minutes rises by one, to 65535 at most, and its level
follows the profile's thresholds; a rise in level raises HYGIENE, and an oven in service that reaches OVERDUE is placed in the
cleaning queue where the profile cleans automatically. A requeue timer's expiry places its oven again. A timer that is stopped
does not expire: its row changes nothing (the model's choices, logs 3 and 4). -/
def Obligations.HygieneTimersExpire : Prop :=
  ∀ s : State, s.mode = .running →
    (s.hygiene.minute ≠ none →
      ∃ t x, exec .hygieneMinuteExpiry s = .next t ∧ t.EndsAs (settle x) ∧ x.hygiene.minute = some s.now ∧
        (∀ i : Slot,
          ((s.ent i).activity ≠ .cooking → x.ent i = s.ent i) ∧
          ((s.ent i).activity = .cooking →
            x.ent i = { s.ent i with
              count := min 65535 ((s.ent i).count + 1),
              level := if min 65535 ((s.ent i).count + 1) < s.profile.tDue then .clean
                else if min 65535 ((s.ent i).count + 1) < s.profile.tOver then .due else .overdue } ∧
            (s.hrst = false → (s.ent i).level.rank < (x.ent i).level.rank →
              x.report.pendingSet.getLsbD Event.hygiene.bitNo = true) ∧
            (s.profile.autoClean = true → (s.ent i).state = .inService → (s.ent i).level ≠ .overdue →
              (x.ent i).level = .overdue → ∃ w ∈ x.hygiene.queue, w.slot = i)))) ∧
    (s.hygiene.minute = none → ∃ t, exec .hygieneMinuteExpiry s = .next t ∧ t.EndsAs (settle s)) ∧
    (∀ i : Slot,
      ((s.ent i).requeue = none → ∃ t, exec (.requeueTimerExpiry i) s = .next t ∧ t.EndsAs (settle s)) ∧
      ((s.ent i).requeue ≠ none →
        (s.profile.autoClean = true → (s.ent i).state = .inService → (s.ent i).level = .overdue →
          (s.ent i).activity ≠ .cleaning → (∀ w ∈ s.hygiene.queue, w.slot ≠ i) →
          ∃ t, exec (.requeueTimerExpiry i) s = .next t ∧
            t.EndsAs (settle { s.setEnt i { s.ent i with requeue := none } with
              hygiene := { s.hygiene with
                queue := s.hygiene.queue ++
                  [{ slot := i, program := 1, origin := .auto, queued := s.report.clock, idleWait := false }] } })) ∧
        (s.profile.autoClean = false ∨ (s.ent i).state ≠ .inService ∨ (s.ent i).level ≠ .overdue ∨
            (s.ent i).activity = .cleaning ∨ (∃ w ∈ s.hygiene.queue, w.slot = i) →
          ∃ t, exec (.requeueTimerExpiry i) s = .next t ∧
            t.EndsAs (settle (s.setEnt i { s.ent i with requeue := none })))))

/-- What follows an event of its own accord: fills register, offers and picks are made, a rollout with nothing left ends. That
lines are taken in the order 0 to 3 is the model's choice (log 32). Where the offers and the picks of one event would take the
same oven, which come first is free (log 12): one of the two orders holds, and nothing here says which. With nothing waiting,
nothing follows. Fills waiting on a free buffer register, the first that is able to: it takes the buffer and counts as a
reader, is told to wait for a commit, or has its start refused (R98). Offers are made in offer order while the capacity
allows, each with its record and CLEAN_GO (R123, R124; one for an oven without a calibration record carries a free value, log
26). On each line where no oven is updating, the first claimable QUEUED oven is picked and the read of its block 0 begins
(R156, R157). A rollout with nothing left ends (R165). -/
def Obligations.EventsSettle : Prop :=
  (∀ s : State, settle s =
    endRollout (makeClaims (([0, 1, 2, 3] : List LineNo).foldl (fun s l => registerFills l (s.ln l).fillQueue s) s))) ∧
  (∀ s : State,
    let offers := makeOffers
    let picks := fun s : State => ([0, 1, 2, 3] : List LineNo).foldl pickOn s
    let clash := ∃ i : Slot, (s.ent i).offerOut = false ∧ (s.ent i).activity = .idle ∧
      ((offers s).ent i).offerOut = true ∧ ((picks s).ent i).activity = .updating
    let drawn := { s with freeCount := s.freeCount + 1 }
    (¬clash → makeClaims s = picks (offers s)) ∧
    (clash → makeClaims s = picks (offers drawn) ∨ makeClaims s = offers (picks drawn))) ∧
  (∀ s : State, (∀ l : LineNo, (s.ln l).fillQueue = []) → s.hygiene.queue = [] →
    s.update.rollout.state ≠ .active → s.update.rollout.state ≠ .halting → settle s = s) ∧
  (∀ s : State, s.hygiene.queue = [] → s.update.rollout.state ≠ .active → s.update.rollout.state ≠ .halting →
    settle s = lineNos.foldl (fun s l => registerFills l (s.ln l).fillQueue s) s) ∧
  (∀ s : State, (∀ l : LineNo, (s.ln l).fillQueue = []) → s.update.rollout.state ≠ .active →
    s.update.rollout.state ≠ .halting → settle s = makeOffers s) ∧
  (∀ s : State, (∀ l : LineNo, (s.ln l).fillQueue = []) → s.hygiene.queue = [] →
    settle s = endRollout (lineNos.foldl pickOn s)) ∧
  (∀ (l : LineNo) (w : FillWait) (rest : List FillWait) (p : PendingStart) (s : State),
    (s.ent w.slot).start = some p →
    let able := w.waiting = false ∧ ∀ d, (s.ent w.slot).dirEntry p.recipe = some d → d.eviction ≠ .outstanding
    let x := registerFills l (w :: rest) s
    let left := s.setLn l { s.ln l with fillQueue := (s.ln l).fillQueue.filter (fun v => v.slot != w.slot) }
    ((s.ln l).fill ≠ none → x = s) ∧
    ((s.ln l).fill = none →
      (¬able → x = registerFills l rest s) ∧
      (able → (s.rslot p.recipe).state = .published → (s.rslot p.recipe).publish ≠ .commitWait →
        x.ln l = { left.ln l with
          fill := some
            { slot := w.slot, recipe := p.recipe,
              base := s.storeBase + BitVec.ofNat 32 ((2 * p.recipe.val + (s.rslot p.recipe).bank.val) * 512),
              version := (s.rslot p.recipe).version, used := (s.rslot p.recipe).used, check := (s.rslot p.recipe).check,
              issued := 0, data := [], streaming := false, victim := none, stale := false, abandoned := false,
              failed := false } } ∧
        x.rslot p.recipe = { s.rslot p.recipe with readers := (s.rslot p.recipe).readers + 1 } ∧
        x.ent w.slot = { s.ent w.slot with start := some { p with stage := .reading } }) ∧
      (able → (s.rslot p.recipe).state = .published → (s.rslot p.recipe).publish = .commitWait →
        x = registerFills l rest (s.setLn l { s.ln l with
          fillQueue := (s.ln l).fillQueue.map (fun v => if v.slot = w.slot then { v with waiting := true } else v) })) ∧
      (able → (s.rslot p.recipe).state = .empty → x = registerFills l rest (refuseStart w.slot .recipeAbsent left)) ∧
      (able → (s.rslot p.recipe).state = .quarantined →
        x = registerFills l rest (refuseStart w.slot .recipeQuarantined left)))) ∧
  (∀ s : State,
    let free := fun (v : CleanWait) => v.idleWait = false ∧ (s.ent v.slot).state = .inService ∧
      (s.ent v.slot).activity = .idle ∧ (s.ent v.slot).offerOut = false
    let late := fun (v : CleanWait) => (s.ent v.slot).level = .overdue
    (s.profile.maxCleaning ≤ s.capacityInUse ∨ (∀ v ∈ s.hygiene.queue, ¬free v) → makeOffers s = s) ∧
    (∀ before w after, s.capacityInUse < s.profile.maxCleaning → s.hygiene.queue = before ++ w :: after → free w →
      (∀ v ∈ before, free v → late w ∧ ¬late v) → (∀ v ∈ after, free v → late v → late w) →
      makeOffers s = makeOffers (makeOffer w s)) ∧
    (∀ (w : CleanWait) (c : Cal), (s.ent w.slot).cal = some c →
      makeOffer w s = sendTo w.slot .hygiene
        (.cleanGo w.program (c.threshold s.profile.holdTemp) (BitVec.ofNat 16 s.profile.holdSecs))
        (s.setEnt w.slot { s.ent w.slot with
          offerOut := true,
          offer := some { program := w.program, origin := w.origin, queued := w.queued,
                          threshold := c.threshold s.profile.holdTemp } }))) ∧
  (∀ (l : LineNo) (s : State),
    let busy := ∃ k : Slot, s.onLine l k = true ∧ ((s.ent k).upd.state = .sending ∨ (s.ent k).upd.state = .switching)
    let free := fun (k : Slot) => s.onLine l k = true ∧ (s.ent k).upd.state = .queued ∧ (s.ent k).state = .inService ∧
      (s.ent k).activity = .idle ∧ (s.ent k).offerOut = false
    (s.update.rollout.state ≠ .active ∨ busy ∨ (∀ k, ¬free k) → pickOn s l = s) ∧
    (∀ (i : Slot) (d : Identity), s.update.rollout.state = .active → ¬busy → free i → (∀ k < i, ¬free k) →
      (s.ent i).identity = some d →
      let x := pickOn s l
      let two := 32 < s.update.rollout.length
      x.ent i = { s.ent i with
        activity := .updating,
        upd := { (s.ent i).upd with
          state := .sending, nextBlock := 0, switchQueued := false, stopMark := false, identAsked := false,
          failedIdents := 0, prevLevel := d.level, picked := s.report.clock, blockData := [],
          readsLeft := if two then 2 else 1 } } ∧
      x.ln l = { s.ln l with
        streams := (s.ln l).streams.filter (fun z => z.kind == .fill) ++ (s.ln l).streams.filter (fun z => z.kind == .image) ++
          [{ kind := .image, slot := i, next := 0, ready := false, data := [], drop := false }] } ∧
      x.update = { s.update with blockReads := s.update.blockReads ++ { slot := i, addr := s.imageBase } ::
        (if two then [{ slot := i, addr := s.imageBase + 32 }] else []) })) ∧
  (∀ s : State,
    let left := ∃ k : Slot, (s.ent k).upd.state = .queued ∨ (s.ent k).upd.state = .sending ∨ (s.ent k).upd.state = .switching
    ((s.update.rollout.state ≠ .active ∧ s.update.rollout.state ≠ .halting) ∨ left → endRollout s = s) ∧
    (∀ c, (s.update.rollout.state = .active ∧ c = ResultCode.done) ∨ (s.update.rollout.state = .halting ∧ c = .halted) →
      ¬left →
      endRollout s = endLong .image c (s.update.rollout.done.setWidth 32) (s.update.rollout.failed.setWidth 32)
        (s.update.rollout.skipped.setWidth 32)
        { s with update := { s.update with
          rollout := { s.update.rollout with state := .ended }, image := { s.update.image with state := .verified } } }))

/-! ## What the owners make of the outcomes and of the notices they are told -/

/-- Commissioning and restore: what the roster makes of the outcomes of ASSIGN (R7), CONFIRM (R8) and IDENT_REQ (R9, R16). A
command that ends without success completes with the result shown, its entry returns to VACANT, its telegrams and its place in
the poll schedule go, and a COMMISSION that had got past ASSIGN sends UNASSIGN. A COMMISSION with a good IDENT of an idle oven
enters CALIBRATING; a RESTORE enters IN_SERVICE with its record and its count, and adopts a cook in progress; a RESTORE of an
oven that is cleaning asks again later. An entry that enters IN_SERVICE has its level derived from its count, and an OVERDUE
one joins the cleaning queue where auto-cleaning is enabled (R12, R118). A telegram to an oven joins the urgent FIFO of its
line, or waits while the FIFO is full (R40), behind all that wait there; a removal keeps the order of the others, so that an
UNASSIGN reaches the line before any later ASSIGN (R8). The model's choices and readings: an IDENT of CLEANING under RESTORE
writes no identity (log 27), the update record is kept when a commissioning fails (log 28), waiting offers take the places
that a removal frees (log 29), and RESTORE's DONE shows its details as 0 (log 48). -/
def Obligations.CommissioningOutcomes : Prop :=
  ∀ (l : LineNo) (i : Slot) (j : Job) (q : Queued) (s : State),
    (∀ (x : Word) (d : Byte), q.tel = .assign x d → q.about = some i → (s.ent i).state = .assigning →
      (s.ent i).job = some j →
      (∀ serial : Word,
        let y := s.setEnt i { s.ent i with pairing := false, job := some { j with kept := serial } }
        let taken := ∃ (k : Slot) (e : Identity), k ≠ i ∧ (s.ent k).state ≠ .vacant ∧ (s.ent k).identity = some e ∧
          e.serial = serial
        (taken → deliverUntargeted q (.valid (.pair serial)) s = failCommission i .identity 0 false y) ∧
        (¬taken →
          deliverUntargeted q (.valid (.pair serial)) s = joinSchedule i (queueUrgent (s.ent i).line
            { tel := .confirm serial (s.ent i).drop, owner := .roster, target := none, about := some i, addr := 0,
              replyAddr := (s.ent i).drop, void := false } y))) ∧
      deliverUntargeted q (.failed true) s = failCommission i .collision 0 false s ∧
      deliverUntargeted q (.failed false) s = failCommission i .noOven 0 false s) ∧
    (∀ (x : Word) (d : Byte), q.tel = .confirm x d → q.about = some i → (s.ent i).state = .assigning →
      deliverUntargeted q (.valid .ack) s = sendTo i .roster .identReq (s.setEnt i { s.ent i with
        late := false, failures := 0, lastReply := some s.report.clock, silence := some s.now }) ∧
      (∀ o, o ≠ .valid .ack → deliverUntargeted q o s = failCommission i .noOven 0 true s)) ∧
    (q.tel = .identReq → q.owner = .roster → q.void = false → (s.ent i).state = .identifying → (s.ent i).job = some j →
      (∀ o, (∀ d, o ≠ .valid (.ident d)) → deliverTo l q i o s = failCommission i .noOven 0 true s) ∧
      (∀ d : IdentReply,
        (d.serial ≠ j.kept → deliverTo l q i (.valid (.ident d)) s = failCommission i .identity 0 true s) ∧
        (d.serial = j.kept → s.profile.classes.getLsbD d.model.toNat = false →
          deliverTo l q i (.valid (.ident d)) s = failCommission i .model 0 true s) ∧
        (d.serial = j.kept → s.profile.classes.getLsbD d.model.toNat = true →
          (j.kind ≠ .restore → d.activity ≠ .idle →
            deliverTo l q i (.valid (.ident d)) s = failCommission i .state (d.activity.code.setWidth 32) true s) ∧
          (j.kind ≠ .restore → d.activity = .idle →
            deliverTo l q i (.valid (.ident d)) s =
              sendTo i .roster .probeCheck (joinSchedule i (s.setEnt i { s.ent i with
                identity := some ⟨d.serial, d.model, d.level⟩, state := .calibrating, probe := false,
                calLimit := some s.now }))) ∧
          (j.kind = .restore → d.activity = .cleaning →
            deliverTo l q i (.valid (.ident d)) s = s.setEnt i { s.ent i with identResend := some s.now }) ∧
          (j.kind = .restore → d.activity ≠ .cleaning → (s.ent i).activity = .idle → (s.ent i).dir = [] →
            (s.ent i).grant = none →
            let x := deliverTo l q i (.valid (.ident d)) s
            (x.ent i).state = .inService ∧ (x.ent i).identity = some ⟨d.serial, d.model, d.level⟩ ∧
            (x.ent i).cal = some j.cal ∧ (x.ent i).job = none ∧ (x.ent i).count = j.minutes.toNat ∧
            (x.ent i).late = false ∧ (x.ent i).failures = 0 ∧ (x.ent i).silence = some s.now ∧
            x.command = (endLong (.oven i) .done 0 0 0 s).command ∧
            (x.report.journal, x.report.gapPending) = s.report.passed (.commission
              { slot := i, mark := .restore, tag := j.tag, line := (s.ent i).line, drop := (s.ent i).drop,
                ident := ⟨d.serial, d.model, d.level⟩, cal := j.cal, errors := none, count := j.minutes.toNat,
                time := s.report.clock }) ∧
            s.telegramTo i .cache .flush ∈ x.waitingOn (s.ent i).line ∧
            (x.ent i).level = levelOf s.profile j.minutes.toNat ∧
            x.hygiene.queue = s.autoQueued i (levelOf s.profile j.minutes.toNat) ∧
            (d.activity ≠ .cooking → (x.ent i).activity = .idle ∧ (x.ent i).dir = [] ∧ (x.ent i).token = (s.ent i).token) ∧
            (d.activity = .cooking →
              (x.ent i).activity = .cooking ∧ (x.ent i).token = d.token ∧
              (x.ent i).cook = some { recipe := d.recipe, version := d.version, origin := .adopted, token := d.token,
                                      start := s.report.clock, step := 0, tag := none } ∧
              (∃ e, (x.ent i).dir = [e] ∧ e.recipe = d.recipe ∧ e.version = d.version ∧
                e.stale = !((s.rslot d.recipe).state == .published && (s.rslot d.recipe).version == d.version)) ∧
              (x.rslot d.recipe).pins = (s.rslot d.recipe).pins + 1))))) ∧
    (∀ (r : ResultCode) (d1 : Word) (un : Bool), (∀ a ∈ s.cache.aborts, a.slot ≠ i) →
      let x := failCommission i r d1 un s
      let sends := un = true ∧ ∃ j, (s.ent i).job = some j ∧ j.kind = .commission
      x.ent i = { Entry.reset with upd := (s.ent i).upd } ∧ (∀ k, k ≠ i → x.ent k = s.ent k) ∧
      x.command = (endLong (.oven i) r d1 0 0 s).command ∧
      (∀ (n : LineNo), ∀ p ∈ (x.ln n).schedule, p.slot ≠ i) ∧
      (∀ n : LineNo, s.OffersWaitInTurn n →
        let left := (s.waitingOn n).filter (fun m => m.target != some i)
        x.OffersWaitInTurn n ∧
        (sends → n = (s.ent i).line → x.waitingOn n = left ++
          [{ tel := .unassign, owner := .roster, target := none, about := none, addr := (s.ent i).drop,
             replyAddr := (s.ent i).drop, void := false }]) ∧
        (¬sends ∨ n ≠ (s.ent i).line → x.waitingOn n = left))) ∧
    (∀ (o : Owner) (tel : Telegram), sendTo i o tel s = queueUrgent (s.ent i).line (s.telegramTo i o tel) s) ∧
    (((s.ln l).urgent.length < 16 → queueUrgent l q s = s.setLn l { s.ln l with urgent := (s.ln l).urgent ++ [q] }) ∧
      (16 ≤ (s.ln l).urgent.length → queueUrgent l q s = s.setLn l { s.ln l with waiting := (s.ln l).waiting ++ [q] }) ∧
      (s.OffersWaitInTurn l →
        (queueUrgent l q s).waitingOn l = s.waitingOn l ++ [q] ∧ (queueUrgent l q s).OffersWaitInTurn l)) ∧
    (∀ p : Queued → Bool,
      let left := (s.waitingOn l).filter (fun m => !p m)
      (removeTelegrams p s).ln l = { s.ln l with urgent := left.take 16, waiting := left.drop 16 })

/-- Calibration and revalidation: what the roster makes of the outcome of PROBE_CHECK and of the probe notices (R10, R11), of
the IDENT of a released oven (R24), and of its own ABORTs (R20). A failed calibration enters CAL_FAILED with a CALIBRATION
call and completes CAL_FAIL; a pass enters IN_SERVICE. A released oven comes back into service, with the cook it reports
adopted (R108), asks again later, or returns to SUSPENDED with its STOP call. An oven that enters IN_SERVICE has its level
derived from its count, and an OVERDUE one joins the cleaning queue where auto-cleaning is enabled (R12, R118). CAL_BUSY or
PROBE_RESULT from an oven that is not CALIBRATING raises the protocol call of R3. The model's choices and readings: an IDENT
of CLEANING in revalidation writes no identity (log 27), the outcome of a voided IDENT_REQ changes nothing (log 42), the
probe-running mark is kept when a calibration ends (log 44), the outcome of a roster ABORT counts only while the abort mark
says that one is outstanding (log 53), and the outcome of any PROBE_CHECK counts in CALIBRATING, whichever calibration queued
it (log 62). -/
def Obligations.CalibrationAndRevalidationOutcomes : Prop :=
  ∀ (l : LineNo) (i : Slot) (q : Queued) (s : State),
    (let failed := fun (e0 es : Word) (why : Word) =>
       endLong (.oven i) .calFail e0 es 0 (raiseCall (.oven i) .calibration .urgent [e0, es, why]
         (leaveSchedule i (s.setEnt i { s.ent i with state := .calFailed, calLimit := none, job := none })))
     ((s.ent i).state = .calibrating → q.tel = .probeCheck →
       deliverTo l q i (.valid .ack) s = s ∧
       (∀ n, deliverTo l q i (.valid (.nak n)) s = failed 0x80000000 0x80000000 2) ∧
       (∀ b, deliverTo l q i (.failed b) s = failed 0x80000000 0x80000000 3)) ∧
     ((s.ent i).state = .calibrating → takeNotice i .calBusy s = s.setEnt i { s.ent i with probe := true }) ∧
     (∀ (rawLow rawHigh : Half) (j : Job) (e0 es : Int), (s.ent i).state = .calibrating → (s.ent i).job = some j →
       e0 = rawLow.toInt - j.cal.refLow.toInt →
       es = (rawHigh.toInt - rawLow.toInt) - (j.cal.refHigh.toInt - j.cal.refLow.toInt) →
       (s.profile.tolZero < e0.natAbs ∨ s.profile.tolSpan < es.natAbs ∨ rawHigh.toInt - rawLow.toInt < 100 →
         takeNotice i (.probeResult rawLow rawHigh) s = failed (BitVec.ofInt 32 e0) (BitVec.ofInt 32 es) 1) ∧
       (e0.natAbs ≤ s.profile.tolZero → es.natAbs ≤ s.profile.tolSpan → 100 ≤ rawHigh.toInt - rawLow.toInt →
         ∀ d, (s.ent i).identity = some d →
         let x := takeNotice i (.probeResult rawLow rawHigh) s
         (x.ent i).state = .inService ∧ (x.ent i).cal = some ⟨j.cal.refLow, j.cal.refHigh, rawLow, rawHigh⟩ ∧
         (x.ent i).calLimit = none ∧ (x.ent i).job = none ∧ (x.ent i).late = false ∧ (x.ent i).failures = 0 ∧
         (x.ent i).silence = some s.now ∧
         x.command = (endLong (.oven i) .done (BitVec.ofInt 32 e0) (BitVec.ofInt 32 es) 0 s).command ∧
         (x.report.journal, x.report.gapPending) = s.report.passed (.commission
           { slot := i, mark := j.kind, tag := j.tag, line := (s.ent i).line, drop := (s.ent i).drop, ident := d,
             cal := ⟨j.cal.refLow, j.cal.refHigh, rawLow, rawHigh⟩, errors := some (e0, es), count := (s.ent i).count,
             time := s.report.clock }) ∧
         (x.ent i).level = levelOf s.profile (s.ent i).count ∧
         x.hygiene.queue = s.autoQueued i (levelOf s.profile (s.ent i).count) ∧
         s.telegramTo i .cache .flush ∈ x.waitingOn (s.ent i).line))) ∧
    ((s.ent i).state ≠ .calibrating →
      takeNotice i .calBusy s = raiseCall (.oven i) .ovenFault .urgent [0x00010000, 8] s ∧
      (∀ a b, takeNotice i (.probeResult a b) s = raiseCall (.oven i) .ovenFault .urgent [0x00010000, 9] s)) ∧
    (∀ k, q.tel = .identReq → q.owner = .roster → q.void = false → (s.ent i).state = .revalidating →
      (s.ent i).activity = .idle → (s.ent i).identity = some k →
      let back := fun (c : StopCause) => leaveCleaning i (s.setEnt i { s.ent i with
        state := .suspended, causes := (s.ent i).causes ||| causeBit c, identResend := none, dir := [] })
      (∀ d : IdentReply,
        (d.serial ≠ k.serial →
          deliverTo l q i (.valid (.ident d)) s =
            raiseCall (.oven i) .identity .stop [d.serial, k.serial] (back .identity)) ∧
        (d.serial = k.serial → d.activity = .cleaning →
          deliverTo l q i (.valid (.ident d)) s = s.setEnt i { s.ent i with identResend := some s.now }) ∧
        (d.serial = k.serial → d.activity ≠ .cleaning →
          let x := deliverTo l q i (.valid (.ident d)) s
          (x.ent i).state = .inService ∧ (x.ent i).identity = some ⟨d.serial, d.model, d.level⟩ ∧
          (x.ent i).late = false ∧ (x.ent i).failures = 0 ∧ (x.ent i).silence = some s.now ∧
          (x.ent i).activity = (if d.activity = .cooking then .cooking else .idle) ∧
          (x.ent i).count = (s.ent i).count ∧ (x.ent i).level = levelOf s.profile (s.ent i).count ∧
          x.hygiene.queue = s.autoQueued i (levelOf s.profile (s.ent i).count) ∧
          s.telegramTo i .cache .flush ∈ x.waitingOn (s.ent i).line ∧
          (d.activity ≠ .cooking → (x.ent i).dir = [] ∧ (x.ent i).grant = (s.ent i).grant ∧ x.recipe = s.recipe) ∧
          (d.activity = .cooking →
            let m := (s.ent i).grant.filter (fun g => g.names d.token d.recipe d.version)
            let stale := !((s.rslot d.recipe).state == .published && (s.rslot d.recipe).version == d.version)
            (x.ent i).cook = some { recipe := d.recipe, version := d.version, origin := (m.map (fun g => g.origin)).getD .adopted,
                                    token := d.token, start := s.report.clock, step := 0, tag := m.bind (fun g => g.tag) } ∧
            (x.ent i).grant =
              (if m.isSome then (s.ent i).grant.map (fun g => { g with confirmed := true }) else (s.ent i).grant) ∧
            (∃ e, (x.ent i).dir = [e] ∧ e.recipe = d.recipe ∧ e.version = d.version ∧ e.stale = stale) ∧
            (x.rslot d.recipe).pins = (s.rslot d.recipe).pins + 1))) ∧
      (∀ o, (∀ d, o ≠ .valid (.ident d)) →
        deliverTo l q i o s = raiseCall (.oven i) .silent .stop
          [(s.ent i).lastReply.getD 0x80000000, BitVec.ofNat 32 (s.ent i).failures, 7] (back .silent))) ∧
    (∀ o, q.tel = .identReq → q.owner = .roster → q.void = true → deliverTo l q i o s = s) ∧
    (q.tel = .abort → q.owner = .roster →
      ((s.ent i).abortMark = .outstanding →
        deliverTo l q i (.valid .ack) s = s.setEnt i { s.ent i with abortMark := .acknowledged } ∧
        (∀ o, o ≠ .valid .ack → deliverTo l q i o s = s.setEnt i { s.ent i with abortMark := .unset })) ∧
      (∀ o, (s.ent i).abortMark ≠ .outstanding → deliverTo l q i o s = s))

/-- Evictions and fills: what the cache unit makes of the outcomes of EVICT and FLUSH (R91, R93) and of a fill's blocks (R101,
R102), and what a STATUS and the end of a use have it send (R88, R91, R92; the order at the end of a use is the model's
choice, log 51). An EVICT that held a refill back lets it register again, whatever its outcome, and its outcome acts on the
directory as any (R101). An entry whose eviction is DUE is sent EVICT again at a STATUS, from the tail, unless a fill of it is
in progress or the oven is using it: then the mark evict-at-end is set (the model's reading for an entry left DUE, log 59). An
EVICT acknowledged while the oven uses the recipe keeps the entry, with evict-at-end set (the model's choice, log 18; the row
of R91 itself has the entry leave). The last block of a fill brings the entry to the front and the grant, or, for a stale one,
its EVICT and a refill; a refused block ends the start with LINE. A start that is refused after its claim returns the oven to
IDLE, and the EVICTs of that return stand before the DENY (the model's choice, log 61). FLUSHes that failed by the next STATUS
are sent again as one (the model's choice, log 63). -/
def Obligations.EvictionsAndFillsEnd : Prop :=
  ∀ (l : LineNo) (i : Slot) (q : Queued) (s : State),
    (∀ r, q.tel = .evict r →
      let after := fun d : List DirEntry => s.setEnt i { s.ent i with
        dir := d,
        start := (s.ent i).start.map (fun p => if p.stage = .evictWait ∧ p.recipe = r then { p with stage := .queued } else p) }
      let mapped := fun (f : DirEntry → DirEntry) => after ((s.ent i).dir.map (fun x => if x.recipe = r then f x else x))
      ((s.ent i).usesRecipe r = false → deliverTo l q i (.valid .ack) s = after ((s.ent i).dir.filter (fun x => x.recipe != r))) ∧
      ((s.ent i).usesRecipe r = true →
        deliverTo l q i (.valid .ack) s = mapped (fun x => { x with eviction := .unset, evictAtEnd := true })) ∧
      deliverTo l q i (.valid (.nak .busy)) s = mapped (fun x => { x with eviction := .unset, evictAtEnd := true }) ∧
      (∀ n, n ≠ .busy → deliverTo l q i (.valid (.nak n)) s = mapped (fun x => { x with eviction := .due })) ∧
      (∀ b, deliverTo l q i (.failed b) s = mapped (fun x => { x with eviction := .due }))) ∧
    (q.tel = .flush →
      (∀ r, deliverTo l q i (.valid r) s = s) ∧
      (∀ b, deliverTo l q i (.failed b) s = s.setEnt i { s.ent i with flushDue := true })) ∧
    ((s.ent i).flushDue = false → resendFlush i s = s) ∧
    ((s.ent i).flushDue = true → resendFlush i s = sendTo i .cache .flush (s.setEnt i { s.ent i with flushDue := false })) ∧
    (s.OffersWaitInTurn (s.ent i).line → (s.ent i).dir.Pairwise (fun a b => a.recipe ≠ b.recipe) →
      ((resendEvictions i s).ent i = { s.ent i with dir := (s.ent i).dir.map (fun d =>
          if d.eviction ≠ .due then d
          else if (s.ent i).usesRecipe d.recipe then { d with evictAtEnd := true }
          else if (s.ent i).fills d.recipe then d else { d with eviction := .outstanding }) } ∧
        (resendEvictions i s).waitingOn (s.ent i).line = s.waitingOn (s.ent i).line ++
          ((s.ent i).dir.reverse.filter (fun d => d.eviction == .due && !(s.ent i).usesRecipe d.recipe &&
            !(s.ent i).fills d.recipe)).map (fun d => s.telegramTo i .cache (.evict d.recipe))) ∧
      ((evictAtEnd i s).ent i = { s.ent i with dir := (s.ent i).dir.map (fun d =>
          if d.evictAtEnd then { d with evictAtEnd := false, eviction := .outstanding } else d) } ∧
        (evictAtEnd i s).waitingOn (s.ent i).line = s.waitingOn (s.ent i).line ++
          ((s.ent i).dir.filter (fun d => d.evictAtEnd)).map (fun d => s.telegramTo i .cache (.evict d.recipe)))) ∧
    (∀ r v n last victim data f x, q.tel = .fillBlock r v n last victim data → (s.ln l).fill = some f → f.slot = i →
      s.streamOf l .fill i = some x →
      let ended := endFillStream l i s
      ended = s.setLn l { s.ln l with
        fill := none, streams := (s.ln l).streams.filter (fun z => !(z.kind == .fill && z.slot == i)) } ∧
      (x.drop = true → ∀ o, deliverTo l q i o s = ended) ∧
      (x.drop = false →
        (last = false → deliverTo l q i (.valid .ack) s = s.setLn l { s.ln l with
          streams := (s.ln l).streams.map (fun z =>
            if z.kind = .fill ∧ z.slot = i then { z with next := z.next + 1, ready := true } else z) }) ∧
        (∀ p, last = true → (s.ent i).start = some p → p.recipe = f.recipe →
          let rest := (s.ent i).dir.filter (fun d => d.recipe != f.recipe && some d.recipe != f.victim)
          (f.stale = false →
            deliverTo l q i (.valid .ack) s =
              sendTo i .cache (if p.origin = .controller then .start ((s.ent i).token + 1) f.recipe f.version
                else .grant ((s.ent i).token + 1) f.recipe f.version)
              (ended.setEnt i { s.ent i with
                token := (s.ent i).token + 1,
                dir := { recipe := f.recipe, version := f.version, stale := false, evictAtEnd := false,
                         eviction := .unset } :: rest,
                grant := some { token := (s.ent i).token + 1, recipe := f.recipe, version := f.version, origin := p.origin,
                                tag := p.tag, confirmed := false },
                start := some { p with stage := .granting } })) ∧
          (f.stale = true →
            let t := deliverTo l q i (.valid .ack) s
            (t.ln l).fill = none ∧ s.telegramTo i .cache (.evict f.recipe) ∈ t.waitingOn (s.ent i).line ∧
            (t.ln (s.ent i).line).fillQueue = (s.ln (s.ent i).line).fillQueue ++ [{ slot := i, waiting := false }] ∧
            t.ent i = { s.ent i with
              dir := { recipe := f.recipe, version := f.version, stale := true, evictAtEnd := false,
                       eviction := .outstanding } :: rest,
              start := some { p with stage := .evictWait } })) ∧
        (∀ o, o ≠ .valid .ack → deliverTo l q i o s = refuseStart i .line ended))) ∧
    (∀ p why, (s.ent i).start = some p →
      let y := evictAtEnd i (s.setEnt i { s.ent i with start := none, activity := .idle, abortMark := .unset })
      (p.origin ≠ .controller → refuseStart i why s = sendTo i .cache (.deny why) y) ∧
      (p.origin = .controller → why = .line →
        refuseStart i why s = endLong (.oven i) .line (p.stage.code.setWidth 32) 0 0 y) ∧
      (p.origin = .controller → why ≠ .line →
        refuseStart i why s = endLong (.oven i) .denied (why.code.setWidth 32) 0 0 y))

/-- Cooks: what the cache unit makes of a start request (R95, R96, R97), of the outcome of GRANT and START (R103), of STEP and
COOK_END notices (R105, R106, R108, R110), of the outcome of an ABORT command's telegram (R111) and of the silence of a
suspended cooking oven (R107). A refused start request draws DENY, a hit its grant, a miss a place in the fill queue. An
acknowledged grant becomes the cook record and a pin; a refused or failed one leaves the oven idle. At COOK_END an EVICT is
queued for every evict-at-end entry (R92; in the order of the directory, the model's choice, log 51). A notice of the cook
record's own cook is taken; one from an idle oven is adopted first (a roster's ABORT it queues stands before the EVICTs of a
COOK_END: the model's choice, log 61); any other draws a protocol call, and one from an oven in a state that has no cook is
disregarded (CAL_FAILED among them: log 17). An ABORT's outcome completes the oldest record of its oven, as already ended
where that cook runs no longer (one adopted again under its token counts as running, the model's choice, log 64); which
details a DENIED and a LINE show is the model's choice (log 19). -/
def Obligations.CooksFollowed : Prop :=
  ∀ (l : LineNo) (i : Slot) (q : Queued) (s : State),
    (∀ (t : Byte) (r : RecipeNo) (v : Byte), q.tel = .grant t r v ∨ q.tel = .start t r v →
      (∀ (p : PendingStart) (g : GrantRec), (s.ent i).start = some p → p.stage = .granting → (s.ent i).grant = some g →
        g.confirmed = false → g.token = t → g.recipe = r → g.version = v →
        let done := fun (c : ResultCode) (d1 d2 d3 : Word) (y : State) =>
          if p.origin = .controller then endLong (.oven i) c d1 d2 d3 y else y
        deliverTo l q i (.valid .ack) s = done .done (t.setWidth 32) (v.setWidth 32) (if p.fillNeeded then 1 else 0)
          ((s.setEnt i { s.ent i with
            grant := some { g with confirmed := true }, start := none, activity := .cooking,
            cook := some { recipe := r, version := v, origin := g.origin, token := t, start := s.report.clock, step := 0,
                           tag := g.tag } }).setRslot r { s.rslot r with pins := (s.rslot r).pins + 1 }) ∧
        (∀ n, deliverTo l q i (.valid (.nak n)) s = done .denied 2 0 0 (evictAtEnd i (s.setEnt i { s.ent i with
          grant := none, start := none, activity := .idle, abortMark := .unset }))) ∧
        (∀ b, deliverTo l q i (.failed b) s = done .line 5 0 0 (evictAtEnd i (s.setEnt i { s.ent i with
          start := none, activity := .idle, abortMark := .unset })))) ∧
      ((s.ent i).start = none → (s.ent i).activity = .idle → (∀ d ∈ (s.ent i).dir, d.evictAtEnd = false) →
        ((s.ent i).state = .suspended ∨ (s.ent i).state = .inService →
          deliverTo l q i (.valid .ack) s = adopt i t r v s) ∧
        (∀ n, deliverTo l q i (.valid (.nak n)) s = s.setEnt i { s.ent i with
          grant := (s.ent i).grant.filter (fun g => !(g.names t r v)) }) ∧
        (∀ b, deliverTo l q i (.failed b) s = s))) ∧
    (∀ (t : Byte) (r : RecipeNo) (v : Byte),
      let x := adopt i t r v s
      let m := (s.ent i).grant.filter (fun g => g.names t r v)
      let stale := !((s.rslot r).state == .published && (s.rslot r).version == v)
      let rest := (s.ent i).dir.filter (fun d => d.recipe != r)
      (x.ent i).activity = .cooking ∧ (x.rslot r).pins = (s.rslot r).pins + 1 ∧
      (x.ent i).cook = some { recipe := r, version := v, origin := (m.map (fun g => g.origin)).getD .adopted, token := t,
                              start := s.report.clock, step := 0, tag := m.bind (fun g => g.tag) } ∧
      (x.ent i).grant = (if m.isSome then (s.ent i).grant.map (fun g => { g with confirmed := true }) else (s.ent i).grant) ∧
      (∀ d, (s.ent i).dirEntry r = some d → d.version = v →
        (x.ent i).dir = { d with stale := stale, evictAtEnd := d.evictAtEnd || stale } :: rest) ∧
      (∀ d, (s.ent i).dirEntry r = some d → d.version ≠ v →
        (x.ent i).dir = { recipe := r, version := v, stale := stale, evictAtEnd := stale, eviction := .unset } :: rest) ∧
      ((s.ent i).dirEntry r = none → (s.ent i).dir.length < 8 →
        (x.ent i).dir = { recipe := r, version := v, stale := stale, evictAtEnd := stale, eviction := .unset } ::
          (s.ent i).dir) ∧
      (∀ front last, (s.ent i).dirEntry r = none → (s.ent i).dir = front ++ [last] → 8 ≤ (s.ent i).dir.length →
        (x.ent i).dir = { recipe := r, version := v, stale := stale, evictAtEnd := stale, eviction := .unset } :: front ∧
        s.telegramTo i .cache (.evict last.recipe) ∈ x.waitingOn (s.ent i).line) ∧
      ((s.ent i).state = .suspended → (s.ent i).causes.getLsbD 1 = true → (s.ent i).abortMark = .unset →
        (x.ent i).abortMark = .outstanding ∧ s.telegramTo i .roster .abort ∈ x.waitingOn (s.ent i).line)) ∧
    (∀ (t : Byte) (r : RecipeNo) (v k : Byte) (o : CookOutcome) (n : Notice), n = .step t r v k ∨ n = .cookEnd t r v o k →
      ((s.ent i).state = .inService ∨ (s.ent i).state = .suspended →
        (∀ c, (s.ent i).activity = .cooking → (s.ent i).cook = some c →
          (c.token = t → c.recipe = r → c.version = v →
            (n = .step t r v k → takeNotice i n s = s.setEnt i { s.ent i with cook := some { c with step := k } }) ∧
            (n = .cookEnd t r v o k →
              let x := takeNotice i n s
              (x.rslot r).pins = (s.rslot r).pins - 1 ∧
              x.ent i = { s.ent i with
                activity := .idle, abortMark := .unset, cook := none,
                dir := (s.ent i).dir.map (fun d =>
                  if d.evictAtEnd then { d with evictAtEnd := false, eviction := .outstanding } else d) } ∧
              (s.OffersWaitInTurn (s.ent i).line → x.waitingOn (s.ent i).line = s.waitingOn (s.ent i).line ++
                ((s.ent i).dir.filter (fun d => d.evictAtEnd)).map (fun d => s.telegramTo i .cache (.evict d.recipe))) ∧
              (x.report.journal, x.report.gapPending) = s.report.passed (.cook
                { slot := i, origin := c.origin, tag := c.tag, recipe := r, version := v, token := t, start := c.start,
                  stop := s.report.clock, outcome := o, steps := k }))) ∧
          (c.token ≠ t ∨ c.recipe ≠ r ∨ c.version ≠ v →
            takeNotice i n s = raiseCall (.oven i) .ovenFault .urgent [0x00010000, n.code.setWidth 32] s)) ∧
        ((s.ent i).activity ≠ .idle → (s.ent i).activity ≠ .cooking →
          takeNotice i n s = raiseCall (.oven i) .ovenFault .urgent [0x00010000, n.code.setWidth 32] s) ∧
        ((s.ent i).activity = .idle → takeNotice i n s = takeNotice i n (adopt i t r v s))) ∧
      ((s.ent i).state ≠ .inService → (s.ent i).state ≠ .suspended → takeNotice i n s = s)) ∧
    (∀ c, s.mode = .running → (s.ent i).silence ≠ none → (s.ent i).state = .suspended → (s.ent i).activity = .cooking →
      (s.ent i).cook = some c →
      ∃ t x, exec (.silenceTimerExpiry i) s = .next t ∧ t.EndsAs (settle x) ∧
        (x.rslot c.recipe).pins = (s.rslot c.recipe).pins - 1 ∧
        x.ent i = { s.ent i with silence := none, activity := .idle, abortMark := .unset, cook := none, dir := [] } ∧
        (x.report.journal, x.report.gapPending) = s.report.passed (.cook
          { slot := i, origin := c.origin, tag := c.tag, recipe := c.recipe, version := c.version, token := c.token,
            start := c.start, stop := s.report.clock, outcome := .unknown, steps := c.step })) ∧
    (∀ r : RecipeNo,
      let ask := takeNotice i (.startRequest r) s
      (∀ why, s.startRefusal i r = some why → ask = sendTo i .cache (.deny why) s) ∧
      (∀ d, s.startRefusal i r = none → s.hit i r = true → (s.ent i).dirEntry r = some d →
        ask = sendTo i .cache (.grant ((s.ent i).token + 1) r d.version) (s.setEnt i { s.ent i with
          activity := .filling, token := (s.ent i).token + 1, dir := d :: (s.ent i).dir.filter (fun x => x.recipe != r),
          grant := some { token := (s.ent i).token + 1, recipe := r, version := d.version, origin := .panel, tag := none,
                          confirmed := false },
          start := some { recipe := r, origin := .panel, tag := none, fillNeeded := false, stage := .granting } })) ∧
      (s.startRefusal i r = none → s.hit i r = false →
        ask = (s.setEnt i { s.ent i with
          activity := .filling,
          start := some { recipe := r, origin := .panel, tag := none, fillNeeded := true, stage := .queued } }).setLn
            (s.ent i).line { s.ln (s.ent i).line with
              fillQueue := (s.ln (s.ent i).line).fillQueue ++ [{ slot := i, waiting := false }] })) ∧
    (q.tel = .abort → q.owner = .cache → ∀ o, deliverTo l q i o s = abortOutcome i false o s) ∧
    ((∀ b ∈ s.cache.aborts, b.slot ≠ i) → ∀ gone o, abortOutcome i gone o s = s) ∧
    (∀ (a : PendingAbort) (before after : List PendingAbort) (o : Outcome) (gone : Bool),
      s.cache.aborts = before ++ a :: after → (∀ b ∈ before, b.slot ≠ i) → a.slot = i →
      let y : State := { s with cache := { s.cache with aborts := before ++ after } }
      let ends := fun (r : ResultCode) (d2 : Word) =>
        if a.orphaned then y else complete a.tag 0x31 r (a.token.setWidth 32) d2 0 y
      let runs := (s.ent i).activity = .cooking ∧ ∃ k, (s.ent i).cook = some k ∧ k.token = a.token
      (gone = true ∨ ¬runs → abortOutcome i gone o s = ends .done 1) ∧
      (gone = false → runs →
        abortOutcome i gone (.valid .ack) s = ends .done 0 ∧
        (∀ r, r ≠ .ack → abortOutcome i gone (.valid r) s = ends .denied 2) ∧
        (∀ b, abortOutcome i gone (.failed b) s = ends .line 0)))

/-- Cleanings: what the hygiene unit makes of the answer to CLEAN_GO (R124), of a cleaning request (R120; one from CAL_FAILED
is denied too, log 17), of the phases and the end of a cleaning (R126, R127), of cleaning notices that belong to none (R129;
one from CAL_FAILED is disregarded without a call: log 17) and of the silence of a suspended oven that cleans (R128). A failed
disinfection of origin AUTO has the oven queued again at once, while it is IN_SERVICE and OVERDUE and auto-cleaning is enabled
(R118). The journal record of each is passed as R130 states. -/
def Obligations.CleaningsFollowed : Prop :=
  ∀ (l : LineNo) (i : Slot) (q : Queued) (s : State),
    let unqueued := s.hygiene.queue.filter (fun w => w.slot != i)
    let waits := s.hygiene.queue.map (fun w => if w.slot = i then { w with idleWait := true } else w)
    (∀ (p : Byte) (th hs : Half) (f : OfferRec), q.tel = .cleanGo p th hs → (s.ent i).offerOut = true →
      (s.ent i).offer = some f →
      let begun := s.setEnt i { s.ent i with
        offerOut := false, offer := none, activity := .cleaning,
        cleaning := some { program := f.program, origin := f.origin, queued := f.queued, start := s.report.clock,
                           threshold := f.threshold, phases := 0, maximum := none, seconds := 0 } }
      let back := { s.setEnt i { s.ent i with offerOut := false, offer := none } with
        hygiene := { s.hygiene with queue := waits } }
      ((s.ent i).activity = .idle → (s.ent i).state ≠ .suspended →
        deliverTo l q i (.valid .ack) s = { begun with hygiene := { s.hygiene with queue := unqueued } }) ∧
      ((s.ent i).activity = .idle → (s.ent i).state = .suspended →
        deliverTo l q i (.valid .ack) s = queueRosterAbort i { begun with hygiene := { s.hygiene with queue := unqueued } }) ∧
      ((s.ent i).activity ≠ .idle → deliverTo l q i (.valid .ack) s = back) ∧
      deliverTo l q i (.valid (.nak .busy)) s = back ∧ (∀ b, deliverTo l q i (.failed b) s = back) ∧
      (∀ n, n ≠ .busy →
        let x := deliverTo l q i (.valid (.nak n)) s
        x.ent i = { s.ent i with
          offerOut := false, offer := none, requeue := if f.origin = .auto then some s.now else (s.ent i).requeue } ∧
        x.hygiene.queue = unqueued ∧
        (x.report.journal, x.report.gapPending) = s.report.passed (.clean
          { slot := i, origin := f.origin, program := f.program, queued := f.queued, start := none, stop := s.report.clock,
            outcome := .declined, phases := 0, maximum := none, seconds := 0, count := (s.ent i).count }))) ∧
    (∀ p : Byte,
      let ask := takeNotice i (.cleanRequest p) s
      ((s.ent i).state = .inService →
        ((s.ent i).activity = .cleaning ∨ (s.ent i).offerOut = true → ask = sendTo i .hygiene (.deny .busy) s) ∧
        ((s.ent i).activity ≠ .cleaning → (s.ent i).offerOut = false →
          ((∃ w ∈ s.hygiene.queue, w.slot = i) → ask = { s with hygiene := { s.hygiene with
            queue := s.hygiene.queue.map (fun w => if w.slot = i then { w with program := p, idleWait := false } else w) } }) ∧
          ((∀ w ∈ s.hygiene.queue, w.slot ≠ i) → ask = { s with hygiene := { s.hygiene with
            queue := s.hygiene.queue ++
              [{ slot := i, program := p, origin := .panel, queued := s.report.clock, idleWait := false }] } }))) ∧
      ((s.ent i).state ∈ [CState.suspended, .assigning, .calibrating, .calFailed] →
        ask = sendTo i .hygiene (.deny .suspended) s) ∧
      (∀ j, (s.ent i).state = .identifying → (s.ent i).job = some j →
        (j.kind ≠ .restore → ask = sendTo i .hygiene (.deny .suspended) s) ∧ (j.kind = .restore → ask = s)) ∧
      ((s.ent i).state = .revalidating → ask = s)) ∧
    (∀ c, (s.ent i).state = .inService ∨ (s.ent i).state = .suspended → (s.ent i).activity = .cleaning →
      (s.ent i).cleaning = some c →
      (∀ (ph : Phase) (raw secs : Half), ph ≠ .disinfect →
        takeNotice i (.cleanPhase ph raw secs) s =
          s.setEnt i { s.ent i with cleaning := some { c with phases := c.phases ||| (1 <<< ph.code) } }) ∧
      (∀ (raw secs : Half) (k : Cal), (s.ent i).cal = some k →
        takeNotice i (.cleanPhase .disinfect raw secs) s =
          s.setEnt i { s.ent i with cleaning := some { c with
            phases := c.phases ||| 8, maximum := some (k.corrected raw.toInt), seconds := secs } }) ∧
      (∀ r : CleanEnd,
        let passes := c.phases.getLsbD 3 = true ∧ s.profile.holdSecs ≤ c.seconds.toNat ∧
          ∃ m, c.maximum = some m ∧ (s.profile.holdTemp : Int) ≤ m
        let outcome := fun (o : CleanOutcome) =>
          s.report.passed (.clean
            { slot := i, origin := c.origin, program := c.program, queued := c.queued, start := some c.start,
              stop := s.report.clock, outcome := o, phases := c.phases, maximum := c.maximum, seconds := c.seconds,
              count := (s.ent i).count })
        let x := takeNotice i (.cleanEnd r) s
        (r = .complete → passes → 0 < s.profile.tDue →
          x.ent i = { s.ent i with
            activity := .idle, abortMark := .unset, cleaning := none, requeue := none, count := 0, level := .clean } ∧
          x.hygiene = s.hygiene ∧
          (x.report.journal, x.report.gapPending) = outcome .passed) ∧
        (r = .complete → ¬passes →
          x.ent i = { s.ent i with activity := .idle, abortMark := .unset, cleaning := none } ∧
          (x.report.journal, x.report.gapPending) = outcome .failed ∧
          (c.origin = .auto → (s.ent i).state = .inService → x.hygiene.queue = s.autoQueued i (s.ent i).level) ∧
          (c.origin ≠ .auto ∨ (s.ent i).state ≠ .inService → x.hygiene.queue = s.hygiene.queue) ∧
          x.service = (raiseCall (.oven i) .hygieneFail .urgent
            [(c.maximum.map (BitVec.ofInt 32)).getD 0x80000000, c.seconds.setWidth 32, BitVec.ofNat 32 s.profile.holdTemp,
              BitVec.ofNat 32 s.profile.holdSecs] s).service) ∧
        (∀ o, (r = .aborted ∧ o = .aborted) ∨ (r = .fault ∧ o = .fault) →
          x.ent i = { s.ent i with activity := .idle, abortMark := .unset, cleaning := none } ∧
          x.hygiene = s.hygiene ∧ (x.report.journal, x.report.gapPending) = outcome o)) ∧
      (s.mode = .running → (s.ent i).silence ≠ none → (s.ent i).state = .suspended →
        ∃ t x, exec (.silenceTimerExpiry i) s = .next t ∧ t.EndsAs (settle x) ∧
          x.ent i = { s.ent i with silence := none, activity := .idle, abortMark := .unset, cleaning := none } ∧
          (x.report.journal, x.report.gapPending) = s.report.passed (.clean
            { slot := i, origin := c.origin, program := c.program, queued := c.queued, start := some c.start,
              stop := s.report.clock, outcome := .unknown, phases := c.phases, maximum := c.maximum, seconds := c.seconds,
              count := (s.ent i).count }))) ∧
    (∀ n : Notice, (∃ ph raw secs, n = .cleanPhase ph raw secs) ∨ (∃ r, n = .cleanEnd r) → (s.ent i).activity ≠ .cleaning →
      ((s.ent i).state = .inService ∨ (s.ent i).state = .suspended → (s.ent i).activity ≠ .idle →
        takeNotice i n s = raiseCall (.oven i) .ovenFault .urgent [0x00010000, n.code.setWidth 32] s) ∧
      ((s.ent i).activity = .idle → takeNotice i n s = s)) ∧
    (∀ n : Notice, (∃ ph raw secs, n = .cleanPhase ph raw secs) ∨ (∃ r, n = .cleanEnd r) →
      (s.ent i).state ≠ .inService → (s.ent i).state ≠ .suspended → takeNotice i n s = s)

/-- Entry to SUSPENDED (R18 to R21, R102, R103, R162, R163): the cause joins the set, the oven leaves the cleaning queue, its
directory keeps the entry of a cook that goes on and nothing else, and a QUEUED oven becomes SKIPPED with the ROLLOUT event.
By what it was doing: IDLE stays; FILLING is abandoned by its stage, its start refused SUSPENDED (a command completes DENIED,
a panel is sent DENY); UPDATING is FAILED in the rollout; a cook or a cleaning goes on under a FAULT, with ABORT queued unless
one is outstanding or acknowledged, and is closed UNKNOWN by silence. What becomes of a fill in READING is the model's reading
(log 16): with a read still to be answered it is marked abandoned, and with none it reports at once: its buffer is free, its
reader count falls, a bad verdict quarantines, and a commit that waited for it is made. The telegrams that wait stay in their
order, but for an unsent GRANT or START of the abandoned start; the ABORT or the DENY goes behind them, and no EVICT is sent
for the entries that leave the directory (R92). Premises, invariants of the model (StepKeepsPathQuiet, StepKeepsQueuesFit): an
abandoned fill has a read to be answered, and offers wait only behind a full FIFO. -/
def Obligations.SuspensionTaken : Prop :=
  ∀ (i : Slot) (c : StopCause) (s : State), s.mode = .running → s.FillsAwaitReads → s.OffersWaitInTurn (s.ent i).line →
    let e := s.ent i
    let x := suspend i c s
    let n := e.line
    let out : Entry := { e with
      state := .suspended, causes := e.causes ||| (1 <<< c.bitNo),
      upd := if e.upd.state = .queued then { e.upd with state := .skipped } else e.upd }
    let unqueued := { s.hygiene with queue := s.hygiene.queue.filter (fun w => w.slot != i) }
    ((x.ent i).state = .suspended ∧ (x.ent i).causes = e.causes ||| (1 <<< c.bitNo) ∧ x.hygiene = unqueued) ∧
    (e.activity ≠ .updating →
      (e.upd.state = .queued →
        x.update = { s.update with
          rollout := { s.update.rollout with skipped := s.update.rollout.skipped ||| (1 <<< i.val) } } ∧
        (s.hrst = false → x.report.pendingSet = raisedPending s.report.pendingSet .rollout)) ∧
      (e.upd.state ≠ .queued → x.update = s.update ∧ x.report.pendingSet = s.report.pendingSet)) ∧
    (e.activity = .idle →
      x.ent i = { out with dir := [] } ∧ x.lines = s.lines ∧ x.service = s.service ∧ x.command = s.command) ∧
    (∀ k, e.activity = .cooking → e.cook = some k →
      let kept := e.dir.filter (fun d => d.recipe == k.recipe)
      (c = .fault → e.abortMark = .unset →
        x.ent i = { out with abortMark := .outstanding, dir := kept } ∧
        ∀ l, x.waitingOn l = s.waitingOn l ++ if l = n then [s.telegramTo i .roster .abort] else []) ∧
      (c = .fault → e.abortMark ≠ .unset → x.ent i = { out with dir := kept } ∧ x.lines = s.lines) ∧
      (c = .silent →
        x.ent i = { out with activity := .idle, abortMark := .unset, cook := none, dir := [] } ∧ x.lines = s.lines ∧
        x.rslot k.recipe = { s.rslot k.recipe with pins := (s.rslot k.recipe).pins - 1 } ∧
        (x.report.journal, x.report.gapPending) = s.report.passed (.cook
          { slot := i, origin := k.origin, tag := k.tag, recipe := k.recipe, version := k.version, token := k.token,
            start := k.start, stop := s.report.clock, outcome := .unknown, steps := k.step }))) ∧
    (∀ k, e.activity = .cleaning → e.cleaning = some k →
      (c = .fault → e.abortMark = .unset →
        x.ent i = { out with abortMark := .outstanding, dir := [] } ∧
        ∀ l, x.waitingOn l = s.waitingOn l ++ if l = n then [s.telegramTo i .roster .abort] else []) ∧
      (c = .fault → e.abortMark ≠ .unset → x.ent i = { out with dir := [] } ∧ x.lines = s.lines) ∧
      (c = .silent →
        x.ent i = { out with activity := .idle, abortMark := .unset, cleaning := none, dir := [] } ∧ x.lines = s.lines ∧
        (x.report.journal, x.report.gapPending) = s.report.passed (.clean
          { slot := i, origin := k.origin, program := k.program, queued := k.queued, start := some k.start,
            stop := s.report.clock, outcome := .unknown, phases := k.phases, maximum := k.maximum, seconds := k.seconds,
            count := e.count }))) ∧
    (e.activity = .updating →
      let z := failOven i .suspended none none none
        (s.setEnt i { e with state := .suspended, causes := e.causes ||| (1 <<< c.bitNo) })
      x = { z.setEnt i { z.ent i with dir := [] } with hygiene := unqueued }) ∧
    (∀ p, e.activity = .filling → e.start = some p →
      let readOut := ∃ q ∈ s.path.issued, q.owner = .fill n ∧ q.disregard = false
      let isGrant := fun q : Queued => q.target = some i ∧ ∃ t r v, q.tel = .grant t r v ∨ q.tel = .start t r v
      let unsent := p.stage = .granting ∧ ∃ l, ∃ q ∈ s.waitingOn l, isGrant q
      let sending := ∃ tr r v k last vic d, (s.ln n).trans = some tr ∧ tr.q.target = some i ∧
        tr.q.tel = .fillBlock r v k last vic d
      let noCommit := fun f : Fill => (s.rslot f.recipe).publish ≠ .commitWait ∨ 1 < (s.rslot f.recipe).readers
      let said := if p.origin = .controller then [] else [s.telegramTo i .cache (.deny .suspended)]
      (p.stage ≠ .reading ∨ readOut ∨ (∀ f, (s.ln n).fill = some f → noCommit f) →
        (unsent → x.ent i = { out with
          activity := .idle, abortMark := .unset, start := none, dir := [], grant := none }) ∧
        (¬unsent → x.ent i = { out with activity := .idle, abortMark := .unset, start := none, dir := [] }) ∧
        (p.origin = .controller → x.command = (endLong (.oven i) .denied 1 0 0 s).command) ∧
        (p.origin ≠ .controller → x.command = s.command) ∧
        (∀ q, isGrantTo i q = true ↔ isGrant q) ∧
        (∀ l, x.waitingOn l =
          (if p.stage = .granting then (s.waitingOn l).filter (fun q => !isGrantTo i q) else s.waitingOn l) ++
            if l = n then said else [])) ∧
      (p.stage ≠ .reading ∨ readOut → x.recipe = s.recipe ∧ x.service = s.service) ∧
      (p.stage = .queued ∨ p.stage = .evictWait →
        (x.ln n).fillQueue = (s.ln n).fillQueue.filter (fun w => w.slot != i) ∧ (x.ln n).fill = (s.ln n).fill) ∧
      (∀ f, p.stage = .reading → (s.ln n).fill = some f → f.streaming = false →
        (readOut → (x.ln n).fill = some { f with abandoned := true }) ∧
        (¬readOut →
          (x.ln n).fill = none ∧ (x.rslot f.recipe).readers = (s.rslot f.recipe).readers - 1 ∧
          (¬noCommit f → (s.rslot f.recipe).staged ≠ none →
            (x.rslot f.recipe).publish = .idle ∧ (x.rslot f.recipe).staged = none) ∧
          (noCommit f → f.failed = false → f.data.length < f.used →
            (Config.partialFillGood s.freeCount = true →
              x.service = s.service ∧
              x.rslot f.recipe = { s.rslot f.recipe with readers := (s.rslot f.recipe).readers - 1 }) ∧
            (Config.partialFillGood s.freeCount = false →
              x.service = (raiseCall (.recipe f.recipe) .recipeCorrupt .urgent
                [f.version.setWidth 32, Config.mismatchCode, BitVec.ofNat 32 n.val] s).service ∧
              x.rslot f.recipe = { s.rslot f.recipe with
                readers := (s.rslot f.recipe).readers - 1,
                state := if (s.rslot f.recipe).state = .published then .quarantined else (s.rslot f.recipe).state })))) ∧
      (p.stage = .streaming →
        (sending → (x.ln n).fill = (s.ln n).fill ∧ (x.ln n).streams =
          (s.ln n).streams.map (fun z => if z.kind = .fill ∧ z.slot = i then { z with drop := true } else z)) ∧
        (¬sending → (x.ln n).fill = none ∧
          (x.ln n).streams = (s.ln n).streams.filter (fun z => !(z.kind == .fill && z.slot == i)))) ∧
      (unsent → ∀ l, ∀ q ∈ x.waitingOn l, ¬isGrant q))

/-- Faults and calls: how a raise is taken (R131, R135, R136, R137) and what a FAULT notice does (R10, R18, R20, R21, R24,
R133). A raise merges into the call of its key, escalating it when it is more severe; it creates a call while the table has
room, or in the place of the oldest acknowledged one; else it is dropped, with the dropped flag, the SERVICE overrun and the
site record owed, whether or not the flag was set before. Every FAULT notice raises OVEN_FAULT with its codes. A STOP fault
then suspends an oven in service (what that does is `SuspensionTaken`), adds its cause to a suspended one, fails a calibration
and sends a released oven back to SUSPENDED with the IDENT_REQ under way voided. The model's choices and readings: outside
RUNNING a raise is passed over (log 24); a drop under HRST leaves the event sets as they are (log 45); the site record joins
the rewrite list at the drop (log 11); OVEN_FAULT is raised before what the fault brings (log 55); the IDENT_REQ of a released
oven is voided by a mark on it (log 42); the probe-running mark is kept at the end of a calibration (log 44). -/
def Obligations.FaultsAndCallsTaken : Prop :=
  (∀ (src : Source) (cau : Cause) (sev : Severity) (details : List Word) (s : State),
    let x := raiseCall src cau sev details s
    let fresh : Call :=
      { source := src, cause := cau, severity := sev, state := .unposted, raiseNo := s.service.nextRaise,
        raised := s.report.clock, lastRaised := s.report.clock, repeats := 1, escalated := false, postedBefore := false,
        details := details }
    let next : Word := if s.service.nextRaise = 0xFFFFFFFF then 1 else s.service.nextRaise + 1
    (s.mode ≠ .running → x = s) ∧
    (s.mode = .running →
      (∀ (c : Call) (before after : List Call), s.CallKeysDistinct → s.service.calls = before ++ c :: after →
        c.source = src → c.cause = cau →
        let more := decide (c.severity.rank < sev.rank)
        x = { s with service := { s.service with
          calls := before ++
            { c with
              repeats := min 255 (c.repeats + 1), details := details, lastRaised := s.report.clock,
              severity := if more then sev else c.severity, escalated := c.escalated || more,
              state := if more then .unposted else c.state } :: after } }) ∧
      ((∀ c ∈ s.service.calls, ¬(c.source = src ∧ c.cause = cau)) →
        (s.service.calls.length < 32 →
          x = { s with service := { s.service with calls := s.service.calls ++ [fresh], nextRaise := next } }) ∧
        (∀ (c : Call) (before after : List Call), 32 ≤ s.service.calls.length → s.service.calls = before ++ c :: after →
          (∀ d ∈ before, d.state ≠ .acknowledged) → c.state = .acknowledged →
          x = { s with service := { s.service with calls := before ++ after ++ [fresh], nextRaise := next } }) ∧
        (32 ≤ s.service.calls.length → (∀ d ∈ s.service.calls, d.state ≠ .acknowledged) →
          x.service = { s.service with dropped := true } ∧
          (let list := if .site ∈ s.report.rewriteList then s.report.rewriteList else s.report.rewriteList ++ [.site]
           (s.hrst = false → x.report = { s.report with
             rewriteList := list, overrunSet := s.report.overrunSet ||| eventBit .service, summaryRaised := true }) ∧
           (s.hrst = true → x.report = { s.report with rewriteList := list })) ∧
          x.lines = s.lines ∧ x.roster = s.roster)))) ∧
  (∀ (i : Slot) (cls : Severity) (codes : List Half) (s : State),
    let x := takeNotice i (.fault cls codes) s
    let y := raiseCall (.oven i) .ovenFault cls (codes.map (fun c => c.setWidth 32)) s
    (cls ≠ .stop → x = y) ∧
    (cls = .stop →
      ((s.ent i).state ∈ [CState.vacant, .assigning, .identifying, .calFailed] → x = y) ∧
      ((s.ent i).state = .calibrating →
        x = endLong (.oven i) .calFail 0x80000000 0x80000000 0
          (raiseCall (.oven i) .calibration .urgent [0x80000000, 0x80000000, 5]
            (leaveSchedule i (y.setEnt i { s.ent i with state := .calFailed, calLimit := none, job := none })))) ∧
      ((s.ent i).state = .revalidating → (s.ent i).activity = .idle →
        (x.ent i) = { s.ent i with
          state := .suspended, causes := (s.ent i).causes ||| 2, identResend := none, dir := [] } ∧
        x.service = y.service ∧ (∀ w ∈ x.hygiene.queue, w.slot ≠ i) ∧
        (∀ (n : LineNo), (∀ m ∈ x.waitingOn n, m.tel = .identReq → m.target = some i → m.owner = .roster → m.void = true) ∧
          (∀ tr, (x.ln n).trans = some tr → tr.q.tel = .identReq → tr.q.target = some i → tr.q.owner = .roster →
            tr.q.void = true))) ∧
      ((s.ent i).state = .suspended →
        ((s.ent i).activity ≠ .cooking → (s.ent i).activity ≠ .cleaning →
          x = y.setEnt i { s.ent i with causes := (s.ent i).causes ||| 2 }) ∧
        ((s.ent i).activity = .cooking ∨ (s.ent i).activity = .cleaning →
          x = queueRosterAbort i (y.setEnt i { s.ent i with causes := (s.ent i).causes ||| 2 }))) ∧
      ((s.ent i).state = .inService →
        x = suspend i .fault y ∧
        (x.ent i).state = .suspended ∧ (x.ent i).causes = (s.ent i).causes ||| 2 ∧ (∀ w ∈ x.hygiene.queue, w.slot ≠ i) ∧
        ((s.ent i).upd.state = .queued → (x.ent i).upd.state = .skipped ∨ (s.ent i).activity = .updating) ∧
        ((s.ent i).activity = .idle → (x.ent i).activity = .idle ∧ (x.ent i).dir = []) ∧
        (∀ k, (s.ent i).activity = .cooking → (s.ent i).cook = some k →
          (x.ent i).activity = .cooking ∧ (x.ent i).cook = some k ∧
          (x.ent i).dir = (s.ent i).dir.filter (fun d => d.recipe == k.recipe)) ∧
        ((s.ent i).activity = .cleaning → (x.ent i).activity = .cleaning ∧ (x.ent i).cleaning = (s.ent i).cleaning) ∧
        ((s.ent i).activity = .cooking ∨ (s.ent i).activity = .cleaning → (s.ent i).abortMark = .unset →
          (x.ent i).abortMark = .outstanding ∧ s.telegramTo i .roster .abort ∈ x.waitingOn (s.ent i).line) ∧
        ((s.ent i).activity = .filling → (x.ent i).activity = .idle ∧ (x.ent i).start = none ∧ (x.ent i).dir = []) ∧
        ((s.ent i).activity = .updating →
          (x.ent i).activity = .idle ∧ (x.ent i).upd.state = .failed ∧ (x.ent i).upd.reason = some .suspended)))) ∧
  (∀ (i : Slot) (s : State),
    ((s.ent i).abortMark = .unset →
      queueRosterAbort i s = sendTo i .roster .abort (s.setEnt i { s.ent i with abortMark := .outstanding })) ∧
    ((s.ent i).abortMark ≠ .unset → queueRosterAbort i s = s))

/-- Blocks, switches and confirmation: what the update unit makes of the outcome of IMAGE_BLOCK (R158, R162, R164), of SWITCH
(R159) and of the IDENT of a SWITCHING oven (R160). An acknowledged block is followed by the read of the next, the last by
SWITCH; an acknowledged or failed SWITCH makes the oven SWITCHING with its directory and toggle gone; its IDENT confirms it or
fails it. A failed oven is idle, in the failed mask, with its URGENT call (for the switch limit, the STOP call of R161), its
journal record (R166) and the ROLLOUT event. R162, item 3: its image stream is removed, at once when no block of it is being
sent; otherwise the stream stays, not ready and marked, until the running block ends, whose outcome is disregarded and which
removes it. The answers to its block reads still outstanding are disregarded: such an answer ends its request and does nothing
else, except that an ERROR is offered to the capture record (R67; that it is offered although the answer is disregarded is the
model's reading, log 36). Its block reads presented or asked for and not yet issued are withdrawn (the model's choice, log
52). R162, item 4: a SWITCH to it that waits on a line is removed, and all other telegrams stay in their order. Which reasons
of UPDATE_FAIL show a block index and which show it absent is the model's reading (log 21): BLOCK_NAK, BLOCK_LINE and
READ_ERROR show it. An oven stopped by a halt is SKIPPED with its journal record STOPPED, and its stream and its block reads
go in the same way (R164). -/
def Obligations.UpdateOutcomes : Prop :=
  ∀ (l : LineNo) (i : Slot) (q : Queued) (s : State),
    (∀ (n : Nat) (data : List Byte) (x : Stream), q.tel = .imageBlock n data → s.streamOf l .image i = some x →
      let gone := s.setLn l { s.ln l with
        streams := (s.ln l).streams.filter (fun z => !(z.kind == .image && z.slot == i)) }
      (x.drop = true → ∀ o, deliverTo l q i o s = gone) ∧
      (x.drop = false → (s.ent i).upd.stopMark = true → ∀ o, deliverTo l q i o s = raiseEvent .rollout (stopOven i s)) ∧
      (x.drop = false → (s.ent i).upd.stopMark = false →
        (x.next + 1 < (s.update.rollout.length + 63) / 64 →
          let t := deliverTo l q i (.valid .ack) s
          let at0 := s.imageBase + BitVec.ofNat 32 (64 * (x.next + 1))
          (t.ent i) = { s.ent i with upd := { (s.ent i).upd with
            nextBlock := x.next + 1, blockData := [],
            readsLeft := if 64 * (x.next + 1) + 32 < s.update.rollout.length then 2 else 1 } } ∧
          (t.ln l).streams = (s.ln l).streams.map (fun z =>
            if z.kind = .image ∧ z.slot = i then { z with next := z.next + 1, ready := false } else z) ∧
          t.update = { s.update with blockReads := s.update.blockReads ++ { slot := i, addr := at0 } ::
            (if 64 * (x.next + 1) + 32 < s.update.rollout.length then
              [{ slot := i, addr := s.imageBase + BitVec.ofNat 32 (64 * (x.next + 1) + 32) }] else []) }) ∧
        ((s.update.rollout.length + 63) / 64 ≤ x.next + 1 →
          deliverTo l q i (.valid .ack) s =
            sendTo i .update (.switch s.update.rollout.level s.update.rollout.check)
              (gone.setEnt i { s.ent i with upd := { (s.ent i).upd with switchQueued := true } })) ∧
        (∀ r, deliverTo l q i (.valid (.nak r)) s =
          failOven i .blockNak (some x.next) (some (r.code.setWidth 32)) none s) ∧
        (∀ b, deliverTo l q i (.failed b) s = failOven i .blockLine (some x.next) none none s))) ∧
    (∀ lv ck, q.tel = .switch lv ck →
      ((s.ent i).upd.state = .sending → (s.ent i).upd.switchQueued = true →
        (∀ o, o = .valid .ack ∨ (∃ b, o = .failed b) →
          deliverTo l q i o s = s.setEnt i { s.ent i with
            dir := [], toggle := none,
            upd := { (s.ent i).upd with state := .switching, switchQueued := false, limit := some s.now } }) ∧
        (∀ r, deliverTo l q i (.valid (.nak r)) s =
          failOven i .switchNak none (some (r.code.setWidth 32)) none s)) ∧
      (∀ o, (s.ent i).upd.state ≠ .sending ∨ (s.ent i).upd.switchQueued = false → deliverTo l q i o s = s)) ∧
    (∀ k, q.tel = .identReq → q.owner = .update → (s.ent i).identity = some k →
      ((s.ent i).upd.state = .switching → (s.ent i).upd.identAsked = true →
        (∀ o, (∀ d, o ≠ .valid (.ident d)) → deliverTo l q i o s = s.setEnt i { s.ent i with
          upd := { (s.ent i).upd with identAsked := false, failedIdents := min 255 ((s.ent i).upd.failedIdents + 1) } }) ∧
        (∀ d : IdentReply,
          let levelled := s.setEnt i { s.ent i with identity := some { k with level := d.level } }
          (d.serial ≠ k.serial → deliverTo l q i (.valid (.ident d)) s =
            failOven i .serial none (some d.serial) (some d.level) s) ∧
          (d.serial = k.serial → d.activity ≠ .idle →
            deliverTo l q i (.valid (.ident d)) s = failOven i .activity none none (some d.level) levelled) ∧
          (d.serial = k.serial → d.activity = .idle → d.level ≠ s.update.rollout.level →
            deliverTo l q i (.valid (.ident d)) s =
              failOven i .level none (some (d.level.setWidth 32)) (some d.level) levelled) ∧
          (d.serial = k.serial → d.activity = .idle → d.level = s.update.rollout.level →
            let x := deliverTo l q i (.valid (.ident d)) s
            (x.ent i).identity = some { k with level := s.update.rollout.level } ∧ (x.ent i).activity = .idle ∧
            (x.ent i).dir = [] ∧ (x.ent i).upd.state = .confirmed ∧ (x.ent i).upd.limit = none ∧
            x.update.rollout = { s.update.rollout with done := s.update.rollout.done ||| (1 <<< i.val) } ∧
            s.telegramTo i .cache .flush ∈ x.waitingOn (s.ent i).line ∧
            (x.report.journal, x.report.gapPending) = s.report.passed (.update
              { slot := i, outcome := .confirmed, level := s.update.rollout.level, check := s.update.rollout.check,
                prev := (s.ent i).upd.prevLevel, reported := some d.level, picked := (s.ent i).upd.picked,
                stop := s.report.clock, blocks := (s.update.rollout.length + 63) / 64, reason := none }) ∧
            (s.hears = true → x.report.pendingSet = raisedPending s.report.pendingSet .rollout)))) ∧
      (∀ o, (s.ent i).upd.state ≠ .switching ∨ (s.ent i).upd.identAsked = false → deliverTo l q i o s = s)) ∧
    ((s.ent i).upd.state = .switching → (s.ent i).upd.identAsked = false →
      askIdentity i s = sendTo i .update .identReq
        (s.setEnt i { s.ent i with upd := { (s.ent i).upd with identAsked := true } })) ∧
    ((s.ent i).upd.state ≠ .switching ∨ (s.ent i).upd.identAsked = true → askIdentity i s = s) ∧
    (∀ n : LineNo, s.blockRunning n .image i = true ↔
      ∃ tr k data, (s.ln n).trans = some tr ∧ tr.q.target = some i ∧ tr.q.tel = .imageBlock k data) ∧
    (∀ (r : MemRequest) (rest : List Issued), s.oldIssued = [] →
      s.path.issued = { owner := .block i, req := r, disregard := true } :: rest →
      (∀ data, ∃ t, exec (.imageBlockReadAnswer (.ok data)) s = .next t ∧ t.EndsAs (s.answered rest)) ∧
      (∃ t, exec (.imageBlockReadAnswer .error) s = .next t ∧ t.EndsAs (offerFault .image r.addr (s.answered rest)))) ∧
    (∀ (why : UpdReason) (block : Option Nat) (fourth : Option Word) (reported : Option Half),
      let x := failOven i why block fourth reported s
      x = { s with
        path := { s.path with issued := disregarding (fun o => o == .block i) s.path.issued }, lines := x.lines,
        roster := x.roster, service := x.service, report := x.report,
        update := { s.update with
          rollout := { s.update.rollout with failed := s.update.rollout.failed ||| (1 <<< i.val) },
          blockReads := s.update.blockReads.filter (fun b => b.slot != i) } } ∧
      (∀ k : Slot, k ≠ i → x.ent k = s.ent k) ∧
      x.ent i = { s.ent i with
        activity := .idle, abortMark := .unset,
        upd := { (s.ent i).upd with state := .failed, reason := some why, switchQueued := false, stopMark := false,
                                    limit := none, identAsked := false, blockData := [], readsLeft := 0 } } ∧
      (∀ n : LineNo,
        x.ln n = { s.ln n with urgent := (x.ln n).urgent, waiting := (x.ln n).waiting, streams := (x.ln n).streams } ∧
        (x.ln n).streams = (if n ≠ (s.ent i).line then (s.ln n).streams
          else if s.blockRunning n .image i = true then (s.ln n).streams.map (fun z =>
            if z.kind = .image ∧ z.slot = i then { z with ready := false, drop := true } else z)
          else (s.ln n).streams.filter (fun z => !(z.kind == .image && z.slot == i))) ∧
        x.waitingOn n = (s.waitingOn n).filter (fun m => !(m.target == some i && (match m.tel with
          | .switch _ _ => true
          | _ => false)))) ∧
      (why = .switchLimit → x.service = s.service) ∧
      (why ≠ .switchLimit → x.service = (raiseCall (.oven i) .updateFail .urgent
        [why.code.setWidth 32, (block.map (BitVec.ofNat 32)).getD 0x80000000, s.update.rollout.level.setWidth 32,
          fourth.getD 0x80000000] s).service) ∧
      (s.hears = true → x.report.pendingSet = raisedPending s.report.pendingSet .rollout) ∧
      (x.report.journal, x.report.gapPending) = s.report.passed (.update
        { slot := i, outcome := .failed, level := s.update.rollout.level, check := s.update.rollout.check,
          prev := (s.ent i).upd.prevLevel, reported := reported, picked := (s.ent i).upd.picked, stop := s.report.clock,
          blocks := if (s.ent i).upd.state = .switching ∨ (s.ent i).upd.switchQueued = true then
            (s.update.rollout.length + 63) / 64 else (s.ent i).upd.nextBlock,
          reason := some why })) ∧
    (let x := stopOven i s
     x.ent i = { s.ent i with
       activity := .idle, abortMark := .unset,
       upd := { (s.ent i).upd with state := .skipped, switchQueued := false, stopMark := false, limit := none,
                                   identAsked := false, blockData := [], readsLeft := 0 } } ∧
     (∀ k : Slot, k ≠ i → x.ent k = s.ent k) ∧
     (∀ n : LineNo, x.ln n = { s.ln n with
       streams := if n ≠ (s.ent i).line then (s.ln n).streams
         else if s.blockRunning n .image i = true then (s.ln n).streams.map (fun z =>
           if z.kind = .image ∧ z.slot = i then { z with ready := false, drop := true } else z)
         else (s.ln n).streams.filter (fun z => !(z.kind == .image && z.slot == i)) }) ∧
     x = { s with
       path := { s.path with issued := disregarding (fun o => o == .block i) s.path.issued }, lines := x.lines,
       roster := x.roster,
       update := { s.update with
         rollout := { s.update.rollout with skipped := s.update.rollout.skipped ||| (1 <<< i.val) },
         blockReads := s.update.blockReads.filter (fun b => b.slot != i) },
       report := { s.report with journal := x.report.journal, gapPending := x.report.gapPending } } ∧
     (x.report.journal, x.report.gapPending) = s.report.passed (.update
       { slot := i, outcome := .stopped, level := s.update.rollout.level, check := s.update.rollout.check,
         prev := (s.ent i).upd.prevLevel, reported := none, picked := (s.ent i).upd.picked, stop := s.report.clock,
         blocks := if (s.ent i).upd.state = .switching ∨ (s.ent i).upd.switchQueued = true then
           (s.update.rollout.length + 63) / 64 else (s.ent i).upd.nextBlock,
         reason := none }))

/-! ## Temperatures -/

/-- R13, R14, for a record whose spans are positive: a raw reading is corrected by the line through the two reference points,
taken exactly, to the nearest whole number with halves away from zero, and held to -400 to 4000; the raw hold threshold is the
least whole number that the line takes to the hold temperature or more, held to the telegram's field (log 25). -/
def Obligations.CorrectedTemperatureAndThreshold : Prop :=
  ∀ (c : Cal) (r hold : Int), 0 < c.rawHigh.toInt - c.rawLow.toInt → 0 < c.refHigh.toInt - c.refLow.toInt →
    let d := c.rawHigh.toInt - c.rawLow.toInt
    let n := c.refLow.toInt * d + (r - c.rawLow.toInt) * (c.refHigh.toInt - c.refLow.toInt)
    (∃ x : Int, c.corrected r = max (-400) (min 4000 x) ∧ 2 * (x * d - n) ≤ d ∧ -d ≤ 2 * (x * d - n) ∧
      (2 * (x * d - n) = d → 0 < n) ∧ (2 * (x * d - n) = -d → n < 0)) ∧
    (∃ y : Int, c.threshold hold = sat16 y ∧
      (hold - c.refLow.toInt) * d ≤ (y - c.rawLow.toInt) * (c.refHigh.toInt - c.refLow.toInt) ∧
      (y - 1 - c.rawLow.toInt) * (c.refHigh.toInt - c.refLow.toInt) < (hold - c.refLow.toInt) * d)

/-! ## Reads of the recipe unit and of the update unit -/

/-- The answers to the publish engine's reads. ERROR ends the publish in FAULT with its address kept in the RECIPE capture. A
bad header or a bad step ends it in RANGE, with the field. A good part goes on to the next; after the last, the slot leaves
the publish list and waits for its readers, or is committed: the other bank, the next version, the new check and length,
PUBLISHED, with the gate kept. A publish that ends in fault leaves its slot as it was but IDLE, and its answers to come
disregarded; a read presented and not yet issued is withdrawn (the model's choice, log 52). Either way the next slot of the
publish list is read from its draft bank. R71 with the layout of 11 §11.3: the tests of a recipe's header and of a step, in
order, each with its field code; the first that fails names the fault. The steps that an answer carries are judged in rising
order, each whole before the next. What is kept of a good header is its step count, its needs-core-probe flag and its gate. -/
def Obligations.PublishReadsAnswered : Prop :=
  (let newEngine := fun (s : State) (q : RecipeNo) =>
     ({ recipe := q, base := s.storeBase + BitVec.ofNat 32 ((2 * q.val + (1 - (s.rslot q).bank.val)) * 512), issued := 0,
        taken := 0, header := none, reg := 0xFFFFFFFF } : Engine)
   (∀ (q : RecipeNo) (c : ResultCode) (d1 d2 : Word) (s : State),
     let left := s.recipe.publishList.filter (fun k => k != q)
     publishFault q c d1 d2 s = endLong (.recipe q) c d1 d2 0
       { s with
         path := { s.path with issued := disregarding (fun o => o == .publish) s.path.issued },
         recipe := {
           slots := s.recipe.slots.set q { s.rslot q with publish := .idle, staged := none },
           publishList := left, engine := left.head?.map (newEngine s) } }) ∧
   ∀ (r : MemRequest) (rest : List Issued) (e : Engine) (s : State), s.mode = .running → s.AnswerFor .publish r rest →
     r.write = false → s.recipe.engine = some e →
     (∃ t, exec (.publishReadAnswer .error) s = .next t ∧
       t.EndsAs (settle (publishFault e.recipe .fault (BitVec.ofNat 32 (32 * e.taken)) 0
         (offerFault .recipe r.addr (s.answered rest))))) ∧
     (∀ data : List Word, data.length = r.len →
       (∀ c, e.header = none → headerFault (bytesOf data) = some c →
         ∃ t, exec (.publishReadAnswer (.ok data)) s = .next t ∧
           t.EndsAs (settle (publishFault e.recipe .range 255 (c.setWidth 32) (s.answered rest)))) ∧
       (e.header = none → headerFault (bytesOf data) = none →
         ∃ t, exec (.publishReadAnswer (.ok data)) s = .next t ∧
           t.EndsAs (settle { s.answered rest with recipe := { s.recipe with
             engine := some { e with taken := 1, header := some (headerOf (bytesOf data)),
                                     reg := crc32Run e.reg (bytesOf data) } } })) ∧
       (∀ h, e.header = some h →
         (∀ k c, stepsFault h.probe ((bytesOf data).length / 16) (2 * (e.taken - 1)) (bytesOf data) = some (k, c) →
           ∃ t, exec (.publishReadAnswer (.ok data)) s = .next t ∧
             t.EndsAs (settle (publishFault e.recipe .range (BitVec.ofNat 32 k) (c.setWidth 32) (s.answered rest)))) ∧
         (stepsFault h.probe ((bytesOf data).length / 16) (2 * (e.taken - 1)) (bytesOf data) = none →
           (e.taken + 1 ≠ 1 + (h.steps + 1) / 2 →
             ∃ t, exec (.publishReadAnswer (.ok data)) s = .next t ∧
               t.EndsAs (settle { s.answered rest with recipe := { s.recipe with
                 engine := some { e with taken := e.taken + 1, reg := crc32Run e.reg (bytesOf data) } } })) ∧
           (e.taken + 1 = 1 + (h.steps + 1) / 2 →
             let left := s.recipe.publishList.filter (fun q => q != e.recipe)
             let g : Staged := { check := ~~~crc32Run e.reg (bytesOf data), used := 32 + 16 * h.steps, gate := h.gate }
             let y := { s.answered rest with recipe := {
               slots := s.recipe.slots.set e.recipe { s.rslot e.recipe with publish := .commitWait, staged := some g },
               publishList := left, engine := left.head?.map (newEngine s) } }
             ∃ t x, exec (.publishReadAnswer (.ok data)) s = .next t ∧ t.EndsAs (settle x) ∧
               x = (if (s.rslot e.recipe).readers = 0 then commit e.recipe y else y) ∧
               (∀ q : RecipeNo, q ≠ e.recipe → x.rslot q = s.rslot q) ∧
               ((s.rslot e.recipe).readers ≠ 0 → x.rslot e.recipe = { s.rslot e.recipe with
                 publish := .commitWait,
                 staged := some { check := ~~~crc32Run e.reg (bytesOf data), used := 32 + 16 * h.steps, gate := h.gate } }) ∧
               ((s.rslot e.recipe).readers = 0 →
                 s.versionHeld e.recipe (nextVersion (s.rslot e.recipe).version) = false →
                 x.gate e.recipe = some h.gate ∧
                 x.rslot e.recipe = { s.rslot e.recipe with
                   bank := otherBank (s.rslot e.recipe).bank, version := nextVersion (s.rslot e.recipe).version,
                   check := ~~~crc32Run e.reg (bytesOf data), used := 32 + 16 * h.steps, state := .published,
                   written := false, publish := .idle, staged := none })))))) ∧
  (∀ (b : List Byte) (probe : Bool),
     let byte := fun k : Nat => (byteAt b k).toNat
     let half := fun k : Nat => (halfAt b k).toNat
     let headerBreaks := fun n : Nat =>
       (n = 1 ∧ ¬(1 ≤ byte 16 ∧ byte 16 ≤ 30)) ∨
       (n = 2 ∧ half 18 = 0) ∨
       (n = 3 ∧ ¬((∃ c, 1 ≤ c ∧ c ≤ 15 ∧ (halfAt b 20).getLsbD c = true) ∧ (halfAt b 20).getLsbD 0 = false)) ∨
       (n = 4 ∧ ∃ k, 1 ≤ k ∧ (byteAt b 17).getLsbD k = true)
     let stepBreaks := fun n : Nat =>
       (n = 5 ∧ ¬(1 ≤ byte 0 ∧ byte 0 ≤ 4)) ∨
       (n = 6 ∧ ¬(300 ≤ half 4 ∧ half 4 ≤ 3000)) ∨
       (n = 7 ∧ ((byte 0 = 3 ∧ 100 < byte 3) ∨ (byte 0 ≠ 3 ∧ byte 3 ≠ 0))) ∨
       (n = 8 ∧ ¬(1 ≤ byte 2 ∧ byte 2 ≤ 5)) ∨
       (n = 9 ∧ byte 1 ≠ 1 ∧ byte 1 ≠ 2) ∨
       (n = 10 ∧ byte 1 = 1 ∧ ¬(1 ≤ half 6 ∧ half 6 ≤ 14400)) ∨
       (n = 11 ∧ byte 1 = 2 ∧ ¬(200 ≤ half 8 ∧ half 8 ≤ 990 ∧ half 8 < half 4 ∧ probe = true)) ∨
       (n = 12 ∧ 1 < byte 10)
     (headerFault b = none ↔ ∀ n, ¬headerBreaks n) ∧
     (∀ c : Byte, headerFault b = some c ↔ headerBreaks c.toNat ∧ ∀ n, n < c.toNat → ¬headerBreaks n) ∧
     headerOf b = { steps := byte 16, probe := (byteAt b 17).getLsbD 0,
                    gate := { classes := halfAt b 20, minLevel := halfAt b 18 } } ∧
     (stepFault probe b = none ↔ ∀ n, ¬stepBreaks n) ∧
     (∀ c : Byte, stepFault probe b = some c ↔ stepBreaks c.toNat ∧ ∀ n, n < c.toNat → ¬stepBreaks n) ∧
     (∀ count first : Nat,
       let step := fun k : Nat => stepFault probe ((b.drop (16 * k)).take 16)
       (stepsFault probe count first b = none ↔ ∀ k, k < count → step k = none) ∧
       (∀ (n : Nat) (c : Byte), stepsFault probe count first b = some (n, c) ↔
         ∃ k, k < count ∧ n = first + k ∧ step k = some c ∧ ∀ j, j < k → step j = none)))

/-- R78, R79, R80, R89: the commit of a slot, and the fall of its reader count that lets one be made. A next version that is
held ends the publish BUSY with detail 1, the slot left as at a fault. Otherwise the slot takes the other bank, the next
version and what the engine computed, the command completes DONE with version, length and check, and the cache unit is told:
it keeps the gate, and the copies of the slot go stale. Either way the fills told to wait register again. The good verdict of
the last reader of a slot in COMMIT_WAIT brings the commit at the same event. R88, R89, R90, R94: what a commit or a
withdrawal does to the copies of a recipe slot, and which versions are held. Every directory entry of the slot is stale; one
in use is marked evict-at-end, and another is sent EVICT unless its EVICT is outstanding already; every fill of the slot is
stale. A version is held by a directory entry, a fill or an unconfirmed last grant. An oven uses the recipe it cooks and the
one it is being granted. That the EVICTs of one line are queued in the order of the ovens is the model's choice (log 32). R91
does not send a DUE entry again while a fill of its slot for the same oven exists, and R89 queues EVICT for a DUE entry: that a
commit or a withdrawal sends EVICT also for a DUE entry whose slot is being filled for that oven is the model's choice (log
65). -/
def Obligations.CommitMadeAndCopiesGoStale : Prop :=
  ((∀ (r : RecipeNo) (g : Staged) (s : State), (s.rslot r).staged = some g →
     let x := commit r s
     let v : Byte := if (s.rslot r).version = 255 then 1 else (s.rslot r).version + 1
     let again := fun w : FillWait =>
       if (s.ent w.slot).start.any (fun p => p.recipe == r) then { w with waiting := false } else w
     (∀ q, q ≠ r → x.rslot q = s.rslot q) ∧
     (s.versionHeld r v = true →
       x.rslot r = { s.rslot r with publish := .idle, staged := none } ∧
       x.command = (endLong (.recipe r) .busy 1 0 0 s).command ∧ x.roster = s.roster ∧ x.cache = s.cache ∧
       (∀ l : LineNo, x.ln l = { s.ln l with fillQueue := (s.ln l).fillQueue.map again })) ∧
     (s.versionHeld r v = false →
       x.rslot r = { s.rslot r with
         bank := 1 - (s.rslot r).bank, version := v, check := g.check, used := g.used, state := .published, written := false,
         publish := .idle, staged := none } ∧
       x.command = (endLong (.recipe r) .done (v.setWidth 32) (BitVec.ofNat 32 g.used) g.check s).command ∧
       x.gate r = some g.gate ∧ (∀ q, q ≠ r → x.gate q = s.gate q) ∧ x.cache.aborts = s.cache.aborts ∧
       x.roster = (staleRecipe r s).roster ∧
       (∀ l : LineNo, x.ln l = { (staleRecipe r s).ln l with fillQueue := (s.ln l).fillQueue.map again }))) ∧
   (∀ (r : RecipeNo) (s : State),
     let y := s.setRslot r { s.rslot r with readers := (s.rslot r).readers - 1 }
     ((s.rslot r).readers ≤ 1 → (s.rslot r).publish = .commitWait → readerDone r s = commit r y) ∧
     (1 < (s.rslot r).readers ∨ (s.rslot r).publish ≠ .commitWait → readerDone r s = y)) ∧
   (∀ (l : LineNo) (m : MemRequest) (rest : List Issued) (f : Fill) (data : List Word) (s : State), s.mode = .running →
     s.AnswerFor (.fill l) m rest → m.write = false → (s.ln l).fill = some f → data.length = m.len →
     f.used ≤ f.data.length + 4 * data.length → f.abandoned = false → (s.rslot f.recipe).publish = .commitWait →
     (s.rslot f.recipe).readers = 1 → crc32 (f.data ++ bytesOf data) = f.check →
     (s.ent f.slot).gateRefusal (bufferGate (f.data ++ bytesOf data)) = none →
     ∃ t y, exec (.fillReadAnswer l (.ok data)) s = .next t ∧ t.EndsAs (settle (commit f.recipe y)) ∧
       y.rslot f.recipe = { s.rslot f.recipe with readers := 0 } ∧ y.command = s.command ∧
       (∀ v, y.versionHeld f.recipe v = s.versionHeld f.recipe v))) ∧
  (∀ (r : RecipeNo) (s : State),
     let x := staleRecipe r s
     let sends := fun i : Slot => !(s.ent i).usesRecipe r && (s.ent i).dir.any (fun d => d.recipe == r && d.eviction != .outstanding)
     (∀ i : Slot, (s.ent i).usesRecipe r = true ↔
       ((s.ent i).activity = .cooking ∧ ∃ k, (s.ent i).cook = some k ∧ k.recipe = r) ∨
       ((s.ent i).activity = .filling ∧ ∃ p, (s.ent i).start = some p ∧ p.stage = .granting ∧ p.recipe = r)) ∧
     ((∀ i : Slot, (s.ent i).dir.Pairwise (fun a b => a.recipe ≠ b.recipe)) →
       (∀ i : Slot, x.ent i = { s.ent i with dir := (s.ent i).dir.map (fun d =>
         if d.recipe ≠ r then d
         else if (s.ent i).usesRecipe r then { d with stale := true, evictAtEnd := true }
         else { d with stale := true, eviction := .outstanding }) }) ∧
       (∀ l : LineNo, s.OffersWaitInTurn l →
         x.waitingOn l = s.waitingOn l ++ (slots.filter (fun i => sends i && (s.ent i).line == l)).map
           (fun i => s.telegramTo i .cache (.evict r)))) ∧
     (∀ l : LineNo, (x.ln l).fill =
       (s.ln l).fill.map (fun f => if f.recipe = r then { f with stale := true } else f)) ∧
     x.recipe = s.recipe ∧ x.cache = s.cache ∧ x.hygiene = s.hygiene ∧ x.service = s.service ∧ x.update = s.update ∧
     x.command = s.command ∧ x.report = s.report ∧ x.path = s.path ∧
     (∀ v : Byte, s.versionHeld r v = true ↔
       (∃ i : Slot, ∃ d ∈ (s.ent i).dir, d.recipe = r ∧ d.version = v) ∨
       (∃ (l : LineNo) (f : Fill), (s.ln l).fill = some f ∧ f.recipe = r ∧ f.version = v) ∨
       (∃ (i : Slot) (g : GrantRec), (s.ent i).grant = some g ∧ g.confirmed = false ∧ g.recipe = r ∧ g.version = v)))

/-- The answers to a fill's reads (R78, R82, R99): the bytes are kept until the recipe is whole. Then its check is judged. A
good recipe that the oven may have is streamed to it, and the entry it displaces is chosen then (the model's reading, log 41): none
when the directory holds the recipe slot or has fewer than 8 entries, else the entry nearest its tail that the oven is not
using (R100). One whose class set (bytes 20 and 21 of the header) lacks the oven's model class is refused MODEL, else one whose
minimum level (bytes 18 and 19) is above the oven's is refused LEVEL, and the fill ends; an absent identity fails the class
check (log 39). A bad one, or an ERROR,
quarantines the slot if it is PUBLISHED, raises RECIPE_CORRUPT (URGENT) with the version, the verdict (a free value for each
of the two, log 38) and the line, ends the fill and refuses the start RECIPE_QUARANTINED. A refused start leaves the oven
IDLE; a COOK completes DENIED, a panel is sent DENY, behind the EVICTs of the return to IDLE (the model's choice, log 61). The
slot has one reader fewer; the last reader of a slot in COMMIT_WAIT brings the commit, behind the COOK's completion (the
model's choice, log 56). An abandoned fill reports its verdict when its last issued read has been answered: read error if an
answer was ERROR, else by the check of a whole recipe; the verdict of one that is not whole is a free value (log 16), and
nothing here rests on it. A read presented and not yet issued goes with the fill that an ERROR ends (the model's choice, log
52). -/
def Obligations.FillReadsAnswered : Prop :=
  (∀ data : List Byte, bufferGate data = { classes := halfAt data 20, minLevel := halfAt data 18 }) ∧
  (∀ (e : Entry) (g : Gate),
    (e.identity = none → e.gateRefusal g = some .model) ∧
    (∀ d, e.identity = some d →
      (g.classes.getLsbD d.model.toNat = false → e.gateRefusal g = some .model) ∧
      (g.classes.getLsbD d.model.toNat = true →
        (d.level.toNat < g.minLevel.toNat → e.gateRefusal g = some .level) ∧
        (g.minLevel.toNat ≤ d.level.toNat → e.gateRefusal g = none)))) ∧
  (∀ (e : Entry) (q : RecipeNo),
    ((∃ d ∈ e.dir, d.recipe = q) ∨ e.dir.length < 8 → e.victim q = none) ∧
    (∀ (before after : List DirEntry) (d : DirEntry), e.dir = before ++ d :: after → (∀ x ∈ e.dir, x.recipe ≠ q) →
      8 ≤ e.dir.length → e.usesRecipe d.recipe = false → (∀ x ∈ after, e.usesRecipe x.recipe = true) →
      e.victim q = some d.recipe)) ∧
  ∀ (l : LineNo) (r : MemRequest) (rest : List Issued) (f : Fill) (s : State), s.mode = .running →
    s.AnswerFor (.fill l) r rest → r.write = false → (s.ln l).fill = some f →
    let i := f.slot
    let n := (s.ent i).line
    let slot := s.rslot f.recipe
    let ends := fun y : State => if slot.publish = .commitWait ∧ slot.readers ≤ 1 then commit f.recipe y else y
    let refused := fun (why : Reason) (y : State) => ∀ p, (s.ent i).start = some p →
      y.ent i = { s.ent i with
        start := none, activity := .idle, abortMark := .unset,
        dir := (s.ent i).dir.map (fun d => if d.evictAtEnd then { d with evictAtEnd := false, eviction := .outstanding } else d) } ∧
      (p.origin = .controller → y.command = (endLong (.oven i) .denied (why.code.setWidth 32) 0 0 s).command) ∧
      (s.OffersWaitInTurn n →
        let evicts := ((s.ent i).dir.filter (fun d => d.evictAtEnd)).map (fun d => s.telegramTo i .cache (.evict d.recipe))
        (p.origin = .controller → y.waitingOn n = s.waitingOn n ++ evicts) ∧
        (p.origin ≠ .controller → y.command = s.command ∧
          y.waitingOn n = s.waitingOn n ++ evicts ++ [s.telegramTo i .cache (.deny why)]))
    let corrupt := fun (code : Word) (y : State) =>
      y.rslot f.recipe = { slot with
        readers := slot.readers - 1, state := if slot.state = .published then .quarantined else slot.state } ∧
      y.service = (raiseCall (.recipe f.recipe) .recipeCorrupt .urgent
        [f.version.setWidth 32, code, BitVec.ofNat 32 l.val] s).service
    (∀ data : List Word, data.length = r.len → f.abandoned = false →
      (f.data.length + 4 * data.length < f.used →
        ∃ t, exec (.fillReadAnswer l (.ok data)) s = .next t ∧
          t.EndsAs (settle ((s.answered rest).setLn l { s.ln l with fill := some { f with data := f.data ++ bytesOf data } }))) ∧
      (f.used ≤ f.data.length + 4 * data.length → crc32 (f.data ++ bytesOf data) = f.check →
        ∃ t y, exec (.fillReadAnswer l (.ok data)) s = .next t ∧ t.EndsAs (settle (ends y)) ∧
          y.rslot f.recipe = { slot with readers := slot.readers - 1 } ∧ y.service = s.service ∧
          ((s.ent i).gateRefusal (bufferGate (f.data ++ bytesOf data)) = none →
            (y.ln l).fill = some { f with
              data := f.data ++ bytesOf data, streaming := true, victim := (s.ent i).victim f.recipe } ∧
            { kind := StreamKind.fill, slot := i, next := 0, ready := true, data := [], drop := false } ∈ (y.ln l).streams ∧
            y.ent i = { s.ent i with start := (s.ent i).start.map (fun p => { p with stage := .streaming }) }) ∧
          (∀ why, (s.ent i).gateRefusal (bufferGate (f.data ++ bytesOf data)) = some why →
            (y.ln l).fill = none ∧ (y.ln l).streams = (s.ln l).streams ∧ refused why y)) ∧
      (f.used ≤ f.data.length + 4 * data.length → crc32 (f.data ++ bytesOf data) ≠ f.check →
        ∃ t y, exec (.fillReadAnswer l (.ok data)) s = .next t ∧ t.EndsAs (settle (ends y)) ∧ (y.ln l).fill = none ∧
          corrupt Config.mismatchCode y ∧ refused .recipeQuarantined y)) ∧
    (f.abandoned = false →
      ∃ t y, exec (.fillReadAnswer l .error) s = .next t ∧ t.EndsAs (settle (ends y)) ∧ (y.ln l).fill = none ∧
        corrupt Config.readErrorCode y ∧ refused .recipeQuarantined y ∧ y.path.capRecipe = s.path.capRecipe.offer r.addr ∧
        y.path.issued = disregarding (fun o => o == .fill l) rest) ∧
    (∀ (a : MemAnswer) (kept : Fill) (y : State), f.abandoned = true → f.streaming = false →
      (a = .error ∧ kept = { f with failed := true } ∧ y = offerFault .recipe r.addr (s.answered rest)) ∨
        (∃ data : List Word, a = .ok data ∧ data.length = r.len ∧ kept = { f with data := f.data ++ bytesOf data } ∧
          y = s.answered rest) →
      ((∃ q ∈ rest, q.owner = .fill l ∧ q.disregard = false) →
        ∃ t, exec (.fillReadAnswer l a) s = .next t ∧ t.EndsAs (settle (y.setLn l { s.ln l with fill := some kept }))) ∧
      ((∀ q ∈ rest, q.owner = .fill l → q.disregard = true) →
        ∃ t x, exec (.fillReadAnswer l a) s = .next t ∧ t.EndsAs (settle (ends x)) ∧ (x.ln l).fill = none ∧
          (x.rslot f.recipe).readers = slot.readers - 1 ∧ x.roster = s.roster ∧ x.command = s.command ∧
          (kept.failed = false → f.used ≤ kept.data.length → crc32 kept.data = f.check →
            x = (y.setLn l { s.ln l with fill := none }).setRslot f.recipe { slot with readers := slot.readers - 1 }) ∧
          (kept.failed = true → corrupt Config.readErrorCode x) ∧
          (kept.failed = false → f.used ≤ kept.data.length → crc32 kept.data ≠ f.check → corrupt Config.mismatchCode x) ∧
          (kept.failed = false → kept.data.length < f.used → x.freeCount = s.freeCount + 1)))

/-- The answers to the reads of a verification. ERROR and a wrong header field reject the image, with the value found; the
check is judged after the last byte: the image is VERIFIED, with its head kept and the blocks counted, or REJECTED for its
check. R151: the header's judgements in order, each with its reason and the value found. R152: a rejection releases the image
with the reason, the value and the staged length; a read presented and not yet issued is withdrawn (the model's choice, log
52). The answers to the reads of a rollout block. ERROR fails the oven. An answer OK adds its bytes; the last one makes the
block, filled up with zeros to 64 bytes, ready to be sent. The answer of an oven that is no longer SENDING changes nothing. -/
def Obligations.VerifyAndBlockReadsAnswered : Prop :=
  ((∀ (p : Profile) (len : Nat) (check : Word) (b : List Byte),
     let cls := (byteAt b 4).toNat
     let found := imageHeaderFault p len check b
     (wordAt b 0 ≠ 0x4D493216 → found = some (.magic, wordAt b 0)) ∧
     (wordAt b 0 = 0x4D493216 →
       (cls = 0 ∨ 15 < cls ∨ p.classes.getLsbD cls = false → found = some (.cls, (byteAt b 4).setWidth 32)) ∧
       (1 ≤ cls → cls ≤ 15 → p.classes.getLsbD cls = true →
         (halfAt b 8 = 0 → found = some (.level, 0)) ∧
         (halfAt b 8 ≠ 0 →
           ((wordAt b 12).toNat ≠ len → found = some (.length, wordAt b 12)) ∧
           ((wordAt b 12).toNat = len →
             (wordAt b 16 ≠ check → found = some (.checkField, wordAt b 16)) ∧
             (wordAt b 16 = check → found = none)))))) ∧
   (∀ (why : RejectReason) (found : Word) (len : Nat) (s : State),
     rejectImage why found len s = endLong .image .rejected (why.code.setWidth 32) found (BitVec.ofNat 32 len)
       { s with
         path := { s.path with issued := disregarding (fun o => o == .verify) s.path.issued },
         update := { s.update with verify := none, image := { s.update.image with state := .rejected, reason := why } } }) ∧
   ∀ (r : MemRequest) (rest : List Issued) (v : Verify) (len : Nat) (check : Word) (s : State), s.mode = .running →
     s.AnswerFor .verify r rest → r.write = false → s.update.verify = some v → s.update.image.staged = some (len, check) →
     (∃ t, exec (.verifyReadAnswer .error) s = .next t ∧
       t.EndsAs (settle (rejectImage .readError (BitVec.ofNat 32 v.bytes) len (offerFault .image r.addr (s.answered rest))))) ∧
     (∀ (data : List Word) (reg : Word) (header : List Byte), data.length = r.len →
       reg = crc32Run v.reg (maskImageBytes v.bytes (bytesOf data)) → header = (v.header ++ bytesOf data).take 64 →
       (∀ why found, v.bytes < 64 → 64 ≤ v.bytes + 4 * data.length →
         imageHeaderFault s.profile len check header = some (why, found) →
         ∃ t, exec (.verifyReadAnswer (.ok data)) s = .next t ∧ t.EndsAs (settle (rejectImage why found len (s.answered rest)))) ∧
       (¬(v.bytes < 64 ∧ 64 ≤ v.bytes + 4 * data.length) ∨ imageHeaderFault s.profile len check header = none →
         (v.bytes + 4 * data.length < len →
           ∃ t, exec (.verifyReadAnswer (.ok data)) s = .next t ∧
             t.EndsAs (settle { s.answered rest with update := { s.update with
               verify := some { v with bytes := v.bytes + 4 * data.length, reg := reg, header := header } } })) ∧
         (len ≤ v.bytes + 4 * data.length → ~~~reg = check →
           ∃ t, exec (.verifyReadAnswer (.ok data)) s = .next t ∧
             t.EndsAs (settle (endLong .image .done ((halfAt header 8).setWidth 32) ((byteAt header 4).setWidth 32)
               (BitVec.ofNat 32 ((len + 63) / 64))
               { s.answered rest with update := { s.update with
                 verify := none,
                 image := { s.update.image with
                   state := .verified, head := some { level := halfAt header 8, cls := byteAt header 4 } } } }))) ∧
         (len ≤ v.bytes + 4 * data.length → ~~~reg ≠ check →
           ∃ t, exec (.verifyReadAnswer (.ok data)) s = .next t ∧
             t.EndsAs (settle (rejectImage .check (~~~reg) len (s.answered rest))))))) ∧
  (∀ (i : Slot) (r : MemRequest) (rest : List Issued) (s : State), s.mode = .running → s.AnswerFor (.block i) r rest →
     r.write = false →
     ((s.ent i).upd.state = .sending →
       (∃ t x, exec (.imageBlockReadAnswer .error) s = .next t ∧ t.EndsAs (settle x) ∧
         (x.ent i).upd.state = .failed ∧ (x.ent i).upd.reason = some .readError ∧ (x.ent i).activity = .idle ∧
         (x.ent i).state = (s.ent i).state ∧
         x.update.rollout.failed = s.update.rollout.failed ||| (1 <<< i.val) ∧
         x.path.capImage = s.path.capImage.offer r.addr) ∧
       (∀ data : List Word, data.length = r.len →
         (2 ≤ (s.ent i).upd.readsLeft →
           ∃ t, exec (.imageBlockReadAnswer (.ok data)) s = .next t ∧
             t.EndsAs (settle ((s.answered rest).setEnt i { s.ent i with
               upd := { (s.ent i).upd with
                 blockData := (s.ent i).upd.blockData ++ bytesOf data, readsLeft := (s.ent i).upd.readsLeft - 1 } }))) ∧
         ((s.ent i).upd.readsLeft = 1 →
           ∃ t, exec (.imageBlockReadAnswer (.ok data)) s = .next t ∧
             t.EndsAs (settle (modStream (s.ent i).line .image i
               (fun x =>
                 let kept := ((s.ent i).upd.blockData ++ bytesOf data).take
                   (min 64 (s.update.rollout.length - 64 * (s.ent i).upd.nextBlock))
                 { x with ready := true, data := kept ++ List.replicate (64 - kept.length) 0 })
               ((s.answered rest).setEnt i { s.ent i with
                 upd := { (s.ent i).upd with
                   blockData := (s.ent i).upd.blockData ++ bytesOf data, readsLeft := 0 } })))))) ∧
     ((s.ent i).upd.state ≠ .sending → ∀ data : List Word, data.length = r.len →
       ∃ t, exec (.imageBlockReadAnswer (.ok data)) s = .next t ∧ t.EndsAs (settle (s.answered rest))))

/-! ## What every step keeps -/

/-- The queues of R40, R49, R51, R62, R131 and R174 and the counters of R66 keep their sizes in every step, and telegrams wait
behind an urgent FIFO only while it is full (R8, R40; what a removal does is the model's reading, log 29). -/
def Obligations.StepKeepsQueuesFit : Prop :=
  ∀ s t : State, s.QueuesFit → step s = .next t → t.QueuesFit

/-- In every step no two calls share a key, the cleaning queue holds no oven twice, no directory holds a recipe slot twice, no
object has two long commands, and nothing stands in the rewrite list twice (R178), with no raise still to be placed after the
event. -/
def Obligations.StepKeepsTablesDistinct : Prop :=
  (∀ s t : State, s.CallKeysDistinct → s.QueuedOnce → s.DirsDistinct → s.LongsDistinct → step s = .next t →
    t.CallKeysDistinct ∧ t.QueuedOnce ∧ t.DirsDistinct ∧ t.LongsDistinct) ∧
  (∀ s t : State, s.RewritesOnce → step s = .next t → t.RewritesOnce)

/-- R123: ovens CLEANING and offers outstanding stay within the profile's limit in every step. -/
def Obligations.StepKeepsCleaningFits : Prop :=
  ∀ s t : State, s.CleaningFits → step s = .next t → t.CleaningFits

/-- R66: a requester that is not asking has its counter at 0, in every step. Nothing is in flight while HRST is asserted or
before the port opens, and IRQ's set stays empty outside RUNNING and under HRST, in every step. R78: in every step, a fill
abandoned in READING holds its buffer only while a read of it is still to be answered (log 16), and there are no fills outside
RUNNING. -/
def Obligations.StepKeepsPathQuiet : Prop :=
  (∀ s t : State, s.CountersRest → step s = .next t → t.CountersRest) ∧
  (∀ s t : State, s.HostQuiet → step s = .next t → t.HostQuiet) ∧
  (∀ s t : State, s.FillsAwaitReads → step s = .next t → t.FillsAwaitReads)

/-- R176, R179: after every event in RUNNING, a mirror record that shows something else than before is owed, and so is the
summary word when an event set has changed; what is owed stays owed until its rewrite is served. R68: every change of a
capture record owes the site record, whatever the record shows at the end of the event: an error or a refusal offered to a
record, unless the record is marked overrun already, and an acknowledgement that clears one, also where the same grant makes
the next head latch it again. R178, R179: the order of the list. What is listed keeps its order and the records newly owed
stand behind it, until it is served or HRST's release lists everything anew (R184); the summary word goes behind them all at
every raise (a kind that is pending or overrun already included) and at every change of an event set. The rules order by
events and not within one: that the summary word stands behind every record that the same event newly owes is the model's
choice (log 11). That is said of every event by its sets, by the records it posts to the rings and by the capture records it latches, and of every raise that ends an
event or is followed by registrations and claims alone. -/
def Obligations.ChangesOweRewrites : Prop :=
  (∀ (c : Instr) (s t : State), exec c s = .next t → t.mode = .running →
    (∀ i : Slot, t.ovenBytes i ≠ s.ovenBytes i → .oven i ∈ t.report.rewriteList) ∧
    (t.siteShown ≠ s.siteShown → .site ∈ t.report.rewriteList) ∧
    (t.report.pendingSet ≠ s.report.pendingSet ∨ t.report.overrunSet ≠ s.report.overrunSet →
      .summary ∈ t.report.rewriteList) ∧
    (s.mode = .running → c ≠ .mirrorRewrite → c ≠ .eventSummaryWrite →
      (∀ x ∈ s.report.rewriteList, x ∈ t.report.rewriteList) ∧
      (c ≠ .hrstRelease →
        (s.RewritesKept t ∨ s.SummaryMoved t) ∧
        (t.report.pendingSet ≠ s.report.pendingSet ∨ t.report.overrunSet ≠ s.report.overrunSet → s.SummaryMoved t) ∧
        (c = .completionPost ∨ c = .servicePosting ∨ c = .journalRecordWrite → t.path.posted ≠ s.path.posted →
          s.SummaryMoved t) ∧
        (s.hrst = false →
          (s.path.capGuard.latched = false ∧ t.path.capGuard.latched = true) ∨
            (∃ k, (s.path.capture k).latched = false ∧ (t.path.capture k).latched = true) →
          s.SummaryMoved t)))) ∧
  (∀ (e : Event) (s x : State), x.hears = true →
    x.SummaryMoved (finish s (raiseEvent e x)) ∧ x.SummaryMoved (finish s (settle (raiseEvent e x)))) ∧
  (∀ s : State, s.mode = .running →
    (∀ a, s.path.capGuard.overrun = false ∨ s.path.capGuard.latched = false → .site ∈ (raiseGuard a s).report.rewriteList) ∧
    (∀ k a, (s.path.capture k).overrun = false ∨ (s.path.capture k).latched = false →
      .site ∈ (offerFault k a s).report.rewriteList) ∧
    (∀ (older later : List InFlight) (e : InFlight) (w : Window) (p : Nat × Word × BitVec 4) (t : State),
      s.chosen = some .proc → s.path.issued.length < 8 → s.path.inflight = older ++ e :: later →
      (∀ x ∈ older, x.state ≠ .requesting) → e.state = .requesting → e.req.req.write = true →
      s.classify e.req.req = .inside w → w.cls = .control →
      p ∈ MemRequest.writtenWords e.req.req → p.2.2 = 0xF → s.watchedAt p.1 = some 4 →
      (p.2.1.getLsbD 5 = true ∧ s.path.capGuard ≠ ⟨false, 0, false⟩) ∨
        (p.2.1.getLsbD 7 = true ∧ ∃ k, s.path.capture k ≠ ⟨false, 0, false⟩) →
      exec .arbiterGrant s = .next t → .site ∈ t.report.rewriteList))

/-- The part right after reset meets what every step keeps. -/
def Obligations.ResetMeetsInvariants : Prop :=
  State.reset.QueuesFit ∧ State.reset.CallKeysDistinct ∧ State.reset.QueuedOnce ∧ State.reset.DirsDistinct ∧
  State.reset.LongsDistinct ∧ State.reset.CleaningFits ∧ State.reset.CountersRest ∧ State.reset.HostQuiet ∧
  State.reset.FillsAwaitReads ∧ State.reset.RewritesOnce

/-! ## Characters, telegrams, replies and records (02 §2.2-§2.4, 11) -/

/-- 02 §2.3, R29, R32, R192, 11 §11.5: the characters of a telegram (the address with its mark, the kind, the length, the
payload, the check word low byte first), the kind code and the payload of each telegram, the telegram of a stream's next block
(R100, R157), and the two check words, bit by bit. R27, R28: a character sent is its start bit, its nine data bits least
significant first, a parity bit that makes the ones even, and its stop bit. A character received has the majority of the three
samples of every bit: a start bit heard marking is no character; samples that disagree are noise, an odd count of ones is a
parity error, a stop bit heard spacing is a framing error, and any of the three is damage. What is sent is received as it was
sent. -/
def Obligations.TelegramsBuilt : Prop :=
  (let lo := fun h : Half => h.extractLsb' 0 8
   let hi := fun h : Half => h.extractLsb' 8 8
   let w4 := fun w : Word => [w.extractLsb' 0 8, w.extractLsb' 8 8, w.extractLsb' 16 8, w.extractLsb' 24 8]
   let recipe := fun r : RecipeNo => BitVec.ofNat 8 r.val
   let built := fun (t : Telegram) (code : Byte) (payload : List Byte) => t.code = code ∧ t.payload = payload
   (∀ q : Queued,
     let body := [q.tel.code, BitVec.ofNat 8 q.tel.payload.length] ++ q.tel.payload
     q.chars = (0x100 ||| q.addr.setWidth 9) :: (body ++ [lo (crc16 body), hi (crc16 body)]).map (fun b => b.setWidth 9)) ∧
   built (.poll (some false)) 0x01 [0] ∧ built (.poll (some true)) 0x01 [1] ∧ built (.poll none) 0x01 [2] ∧
   (∀ (serial : Word) (drop : Byte),
     built (.assign serial drop) 0x02 (w4 serial ++ [drop]) ∧ built (.confirm serial drop) 0x03 (w4 serial ++ [drop])) ∧
   built .unassign 0x04 [] ∧ built .identReq 0x05 [] ∧ built .probeCheck 0x06 [] ∧
   (∀ (r : RecipeNo) (v : Byte) (n : Nat) (last : Bool) (victim : Option RecipeNo) (data : List Byte),
     built (.fillBlock r v n last victim data) 0x07
       ([recipe r, v, BitVec.ofNat 8 n, if last then 1 else 0, (victim.map recipe).getD 0xFF] ++ data)) ∧
   (∀ r, built (.evict r) 0x08 [recipe r]) ∧ built .flush 0x09 [] ∧ built .abort 0x0D [] ∧
   (∀ (token : Byte) (r : RecipeNo) (v : Byte),
     built (.grant token r v) 0x0A [token, recipe r, v] ∧ built (.start token r v) 0x0B [token, recipe r, v]) ∧
   (∀ why : Reason, built (.deny why) 0x0C [why.code]) ∧
   (∀ (program : Byte) (threshold seconds : Half),
     built (.cleanGo program threshold seconds) 0x0E [program, lo threshold, hi threshold, lo seconds, hi seconds]) ∧
   (∀ (n : Nat) (data : List Byte),
     built (.imageBlock n data) 0x0F ([lo (BitVec.ofNat 16 n), hi (BitVec.ofNat 16 n)] ++ data)) ∧
   (∀ (level : Half) (check : Word), built (.switch level check) 0x10 ([lo level, hi level] ++ w4 check)) ∧
   (∀ (x : Stream) (fill : Option Fill),
     (x.kind = .image → streamTelegram fill x = some (.imageBlock x.next x.data)) ∧
     (∀ f, x.kind = .fill → fill = some f → streamTelegram fill x = some
       (.fillBlock f.recipe f.version x.next (decide (f.used ≤ 64 * x.next + 64)) (if x.next = 0 then f.victim else none)
         ((f.data.drop (64 * x.next)).take (min 64 (f.used - 64 * x.next)))))) ∧
   (let shift := fun r : Half => if r.getLsbD 15 then (r <<< 1) ^^^ 0x1021 else r <<< 1
    crc16 [] = 0xFFFF ∧
    (∀ (l : List Byte) (b : Byte), crc16 (l ++ [b]) = Nat.iterate shift 8 (crc16 l ^^^ (b.setWidth 16 <<< 8))) ∧
    crc16 [0x31, 0x32, 0x33, 0x34, 0x35, 0x36, 0x37, 0x38, 0x39] = 0x29B1) ∧
   (let shift := fun r : Word => if r.getLsbD 0 then (r >>> 1) ^^^ 0xEDB88320 else r >>> 1
    crc32 [] = ~~~(0xFFFFFFFF : Word) ∧
    (∀ (l : List Byte) (b : Byte), crc32 (l ++ [b]) = ~~~(Nat.iterate shift 8 (~~~(crc32 l) ^^^ b.setWidth 32))) ∧
    crc32 [0x31, 0x32, 0x33, 0x34, 0x35, 0x36, 0x37, 0x38, 0x39] = 0xCBF43926)) ∧
  ((∀ c : BitVec 9,
     let w := frameChar c
     w.getLsbD 0 = false ∧ w.getLsbD 11 = true ∧ (∀ k, k < 9 → w.getLsbD (k + 1) = c.getLsbD k) ∧
     (List.range 10).countP (fun k => w.getLsbD (k + 1)) % 2 = 0 ∧
     sampleChar ⟨w, w, w⟩ = some { data := c, noise := false, parity := false, framing := false }) ∧
   (∀ r : RawChar,
     let heard := fun k : Nat => decide (2 ≤ [r.s0, r.s1, r.s2].countP (fun v => v.getLsbD k))
     (heard 0 = true → sampleChar r = none) ∧
     (heard 0 = false →
       ∃ x, sampleChar r = some x ∧ (∀ k, k < 9 → x.data.getLsbD k = heard (k + 1)) ∧
         (x.noise = true ↔ ∃ k, k < 12 ∧ ¬(r.s0.getLsbD k = r.s1.getLsbD k ∧ r.s1.getLsbD k = r.s2.getLsbD k)) ∧
         (x.parity = true ↔ (List.range 10).countP (fun k => heard (k + 1)) % 2 = 1) ∧
         (x.framing = true ↔ heard 11 = false) ∧
         (x.damaged = true ↔ x.noise = true ∨ x.parity = true ∨ x.framing = true))) ∧
   (∀ l : List RawChar, sampleChars l = l.filterMap sampleChar))

/-- R30-R34, R194, 11 §11.5: when the characters heard are a damaged reply, not yet a whole one, or a well-formed one; which
replies a telegram allows, and what each carries; which bytes are a notice. A reply or a notice of any other form is damaged.
That a STATUS whose byte 5 has any of bits 2-7 set is damaged is the model's reading (log 31). -/
def Obligations.RepliesParsed : Prop :=
  let lo := fun h : Half => h.extractLsb' 0 8
  let hi := fun h : Half => h.extractLsb' 8 8
  let w4 := fun w : Word => [w.extractLsb' 0 8, w.extractLsb' 8 8, w.extractLsb' 16 8, w.extractLsb' 24 8]
  let recipe := fun r : RecipeNo => BitVec.ofNat 8 r.val
  (∀ (addr : Byte) (cs : List RxChar),
    let char := fun k : Nat => (cs.map (fun c => c.data)).getD k 0
    let byte := fun k : Nat => (char k).extractLsb' 0 8
    let n := (byte 2).toNat
    let early := (0 < cs.length ∧ char 0 ≠ 0x100 ||| addr.setWidth 9) ∨
      (1 < cs.length ∧ byte 1 ∉ [(0x81 : Byte), 0x82, 0x83, 0x84, 0x85]) ∨ (2 < cs.length ∧ 72 < n)
    let body := (List.range (n + 2)).map (fun k => byte (k + 1))
    let sound := (∀ c ∈ cs.take (n + 5), c.damaged = false) ∧ (∀ k, 0 < k → k < n + 5 → (char k).getLsbD 8 = false) ∧
      byte (n + 3) = lo (crc16 body) ∧ byte (n + 4) = hi (crc16 body)
    (early → judgeReply addr cs = .damaged) ∧
    (¬early → cs.length < 3 ∨ cs.length < n + 5 → judgeReply addr cs = .incomplete) ∧
    (¬early → 3 ≤ cs.length → n + 5 ≤ cs.length →
      (sound → judgeReply addr cs = .wellFormed (byte 1) ((List.range n).map (fun k => byte (k + 3)))) ∧
      (¬sound → judgeReply addr cs = .damaged))) ∧
  (∀ (t : Telegram) (kind : Byte) (p : List Byte) (r : Reply),
    replyTo t kind p = some r ↔
      (kind = 0x81 ∧ p = [] ∧ r = .ack ∧ t.code ∉ [(0x01 : Byte), 0x02, 0x05]) ∨
      (∃ why : NakReason, kind = 0x82 ∧ p = [why.code] ∧ r = .nak why ∧
        t.code ∉ [(0x01 : Byte), 0x02, 0x04, 0x05, 0x09, 0x0C]) ∨
      (∃ (serial : Word) (drop : Byte) (n : Word), t = .assign serial drop ∧ kind = 0x83 ∧ p = w4 n ∧ r = .pair n ∧
        n ≠ 0 ∧ (serial = 0 ∨ n = serial)) ∨
      (∃ d : IdentReply, t = .identReq ∧ kind = 0x84 ∧ r = .ident d ∧ d.serial ≠ 0 ∧ d.model ≠ 0 ∧ d.level ≠ 0 ∧
        ((d.activity = .cooking ∧
            p = w4 d.serial ++ [d.model, lo d.level, hi d.level, 2, d.token, recipe d.recipe, d.version]) ∨
          (d.token = 0 ∧ d.recipe = 0 ∧ d.version = 0 ∧
            ((d.activity = .idle ∧ p = w4 d.serial ++ [d.model, lo d.level, hi d.level, 0]) ∨
              (d.activity = .cleaning ∧ p = w4 d.serial ++ [d.model, lo d.level, hi d.level, 3]))))) ∨
      (∃ st : StatusReply, (∃ a, t = .poll a) ∧ kind = 0x85 ∧ r = .status st ∧
        ∃ a f rest, p = [a, lo st.cabinet, hi st.cabinet, lo st.core, hi st.core, f] ++ rest ∧
          ((a = 0 ∧ st.activity = .idle) ∨ (a = 2 ∧ st.activity = .cooking) ∨ (a = 3 ∧ st.activity = .cleaning)) ∧
          ((st.notice = none ∧ rest = [] ∧ (f = 0 ∨ f = 1)) ∨
            (∃ n, noticeOf rest = some n ∧
              ((f = 2 ∧ st.notice = some (false, n)) ∨ (f = 3 ∧ st.notice = some (true, n))))))) ∧
  (∀ (b : List Byte) (x : Notice),
    noticeOf b = some x ↔
      (∃ r, x = .startRequest r ∧ b = [1, recipe r]) ∨
      (∃ program : Byte, 1 ≤ program.toNat ∧ program.toNat ≤ 4 ∧ x = .cleanRequest program ∧ b = [2, program]) ∨
      (∃ token r v, ∃ step : Byte, step.toNat ≤ 29 ∧ x = .step token r v step ∧ b = [3, token, recipe r, v, step]) ∨
      (∃ token r v o steps, o ≠ .unknown ∧ x = .cookEnd token r v o steps ∧ b = [4, token, recipe r, v, o.code, steps]) ∨
      (∃ ph m q, x = .cleanPhase ph m q ∧ b = [5, BitVec.ofNat 8 ph.code, lo m, hi m, lo q, hi q]) ∨
      (x = .cleanEnd .complete ∧ b = [6, 1]) ∨ (x = .cleanEnd .aborted ∧ b = [6, 2]) ∨ (x = .cleanEnd .fault ∧ b = [6, 3]) ∨
      (∃ cls codes, 1 ≤ codes.length ∧ codes.length ≤ 4 ∧ x = .fault cls codes ∧
        b = [7, cls.code, BitVec.ofNat 8 codes.length] ++ codes.flatMap (fun c => [lo c, hi c])) ∨
      (x = .calBusy ∧ b = [8]) ∨
      (∃ low high, x = .probeResult low high ∧ b = [9, lo low, hi low, lo high, hi high]))

/-- 11 §11.4, R140, R173, R175, R193: where the fields of a completion, of a service record and of the four journal records
lie. A byte that carries no field, and the bytes of an absent field, are 0. A model class above 15 keeps its low four bits in
a COMMISSION record (the model's choice, log 58). 11 §11.2: the codes that the part's records and telegrams carry. -/
def Obligations.RingRecordsLaidOut : Prop :=
  (let byte := fun (b : List Byte) (k : Nat) => b.getD k 0
   let half := fun (b : List Byte) (k : Nat) => (b.getD (k + 1) 0 ++ b.getD k 0 : Half)
   let word := fun (b : List Byte) (k : Nat) => ((b.getD (k + 3) 0 ++ b.getD (k + 2) 0) ++ (b.getD (k + 1) 0 ++ b.getD k 0) : Word)
   (∀ c : Completion,
     let b := bytesOf c.words
     b.length = 16 ∧ half b 0 = c.tag ∧ byte b 2 = c.kind ∧ byte b 3 = c.result.code ∧ word b 4 = c.d1 ∧ word b 8 = c.d2 ∧
     word b 12 = c.d3) ∧
   (∀ c : Call, c.repeats ≤ 255 → c.details.length ≤ 4 →
     let b := bytesOf c.words
     b.length = 32 ∧ byte b 0 = c.source.code ∧ byte b 1 = c.cause.code ∧ (byte b 3).toNat = c.repeats ∧
     (byte b 2).extractLsb' 0 2 = c.severity.code.extractLsb' 0 2 ∧ (byte b 2).getLsbD 2 = c.escalated ∧
     (byte b 2).getLsbD 3 = c.postedBefore ∧ ((byte b 2).extractLsb' 4 3).toNat = c.details.length ∧
     (byte b 2).getLsbD 7 = false ∧ word b 4 = c.raiseNo ∧ word b 8 = c.raised ∧ word b 12 = c.lastRaised ∧
     (∀ k, k < 4 → word b (16 + 4 * k) = c.details.getD k 0)) ∧
   (∀ r : JournalRec,
     let b := bytesOf r.words
     b.length = 32 ∧ (byte b 1).getLsbD 0 = r.gap ∧ (∀ k, 3 ≤ k → (byte b 1).getLsbD k = false) ∧
     (∀ j, r.body = .cook j →
       byte b 0 = 1 ∧ (byte b 1).getLsbD 1 = j.tag.isSome ∧ (byte b 1).getLsbD 2 = false ∧ (byte b 2).toNat = j.slot.val ∧
       byte b 3 = j.origin.code ∧ half b 4 = j.tag.getD 0 ∧ (byte b 6).toNat = j.recipe.val ∧ byte b 7 = j.version ∧
       byte b 8 = j.token ∧ byte b 9 = j.outcome.code ∧ byte b 10 = j.steps ∧ byte b 11 = 0 ∧ word b 12 = j.start ∧
       word b 16 = j.stop ∧ ∀ k, 20 ≤ k → byte b k = 0) ∧
     (∀ j, r.body = .clean j →
       byte b 0 = 2 ∧ (byte b 1).getLsbD 1 = j.start.isSome ∧ (byte b 1).getLsbD 2 = j.maximum.isSome ∧
       (byte b 2).toNat = j.slot.val ∧ byte b 3 = j.origin.code ∧ byte b 4 = j.program ∧ byte b 5 = j.outcome.code ∧
       byte b 6 = j.phases.setWidth 8 ∧ byte b 7 = 0 ∧ word b 8 = j.queued ∧ word b 12 = j.start.getD 0 ∧ word b 16 = j.stop ∧
       (∀ m, j.maximum = some m → (half b 20).toInt = max (-32768) (min 32767 m)) ∧ (j.maximum = none → half b 20 = 0) ∧
       half b 22 = j.seconds ∧ half b 24 = BitVec.ofNat 16 j.count ∧ ∀ k, 26 ≤ k → byte b k = 0) ∧
     (∀ j, r.body = .update j →
       byte b 0 = 3 ∧ (byte b 1).getLsbD 1 = j.reported.isSome ∧ (byte b 1).getLsbD 2 = false ∧ (byte b 2).toNat = j.slot.val ∧
       byte b 3 = j.outcome.code ∧ byte b 4 = (j.reason.map UpdReason.code).getD 0 ∧ byte b 5 = 0 ∧ half b 6 = j.level ∧
       word b 8 = j.check ∧ half b 12 = j.prev ∧ half b 14 = j.reported.getD 0 ∧ word b 16 = j.picked ∧ word b 20 = j.stop ∧
       half b 24 = BitVec.ofNat 16 j.blocks ∧ ∀ k, 26 ≤ k → byte b k = 0) ∧
     (∀ j, r.body = .commission j →
       byte b 0 = 4 ∧ (byte b 1).getLsbD 1 = j.errors.isSome ∧ (byte b 1).getLsbD 2 = false ∧ (byte b 2).toNat = j.slot.val ∧
       (byte b 3).extractLsb' 0 4 = j.mark.code.extractLsb' 0 4 ∧ (byte b 3).extractLsb' 4 4 = j.ident.model.extractLsb' 0 4 ∧
       half b 4 = j.tag ∧ (byte b 6).toNat = j.line.val ∧ byte b 7 = j.drop ∧ word b 8 = j.ident.serial ∧
       half b 12 = BitVec.ofNat 16 j.count ∧ half b 14 = j.ident.level ∧ half b 16 = j.cal.refLow ∧ half b 18 = j.cal.refHigh ∧
       half b 20 = j.cal.rawLow ∧ half b 22 = j.cal.rawHigh ∧
       (∀ e, j.errors = some e → (half b 24).toInt = max (-32768) (min 32767 e.1) ∧
         (half b 26).toInt = max (-32768) (min 32767 e.2)) ∧
       (j.errors = none → half b 24 = 0 ∧ half b 26 = 0) ∧ word b 28 = j.time))) ∧
  ([CState.vacant, .assigning, .identifying, .calibrating, .calFailed, .inService, .suspended, .revalidating].map CState.code =
     [0, 1, 2, 3, 4, 5, 6, 7] ∧
   [Activity.idle, .filling, .cooking, .cleaning, .updating].map Activity.code = [0, 1, 2, 3, 4] ∧
   [StopCause.silent, .fault, .update, .identity].map StopCause.bitNo = [0, 1, 2, 3] ∧
   [Origin.controller, .panel, .auto, .adopted].map Origin.code = [1, 2, 3, 4] ∧
   [Level.clean, .due, .overdue].map Level.code = [0, 1, 2] ∧
   [UpdState.unset, .queued, .sending, .switching, .confirmed, .failed, .skipped].map UpdState.code = [0, 1, 2, 3, 4, 5, 6] ∧
   [ImageState.empty, .filling, .broken, .verifying, .verified, .rejected, .inRollout].map ImageState.code =
     [0, 1, 2, 3, 4, 5, 6] ∧
   [RolloutState.unset, .active, .halting, .ended].map RolloutState.code = [0, 1, 2, 3] ∧
   (∀ i : Slot, (Source.oven i).code.toNat = i.val) ∧ (∀ r : RecipeNo, (Source.recipe r).code.toNat = 0x40 + r.val) ∧
   Source.site.code = 0xFF ∧
   [Cause.ovenFault, .silent, .calibration, .identity, .hygieneFail, .updateFail, .recipeCorrupt, .memoryFault].map Cause.code =
     [1, 2, 3, 4, 5, 6, 7, 8] ∧
   [Severity.advisory, .urgent, .stop].map Severity.code = [1, 2, 3] ∧
   [Reason.suspended, .busy, .hygiene, .recipeAbsent, .recipeQuarantined, .model, .level, .line].map Reason.code =
     [1, 2, 3, 4, 5, 6, 7, 8] ∧
   [Stage.queued, .reading, .streaming, .evictWait, .granting].map Stage.code = [1, 2, 3, 4, 5] ∧
   [ResultCode.done, .busy, .state, .range, .disabled, .noOven, .collision, .model, .identity, .calFail, .denied, .line, .fault,
     .rejected, .halted].map ResultCode.code = [0, 1, 2, 3, 4, 5, 6, 7, 8, 9, 10, 11, 12, 13, 14] ∧
   [CookOutcome.done, .aborted, .fault, .unknown].map CookOutcome.code = [1, 2, 3, 4] ∧
   [CleanOutcome.passed, .failed, .aborted, .fault, .declined, .unknown].map CleanOutcome.code = [1, 2, 3, 4, 5, 6] ∧
   [Phase.soak, .wash, .rinse, .disinfect, .dry].map Phase.code = [0, 1, 2, 3, 4] ∧
   [UpdOutcome.confirmed, .failed, .stopped].map UpdOutcome.code = [1, 2, 3] ∧
   [UpdReason.blockNak, .blockLine, .readError, .switchNak, .serial, .activity, .level, .switchLimit, .suspended].map
     UpdReason.code = [1, 2, 3, 4, 5, 6, 7, 8, 9] ∧
   [RejectReason.unset, .readError, .magic, .cls, .level, .length, .checkField, .check].map RejectReason.code =
     [0, 1, 2, 3, 4, 5, 6, 7] ∧
   [NakReason.notReady, .noSpace, .imageBad, .busy].map NakReason.code = [1, 2, 3, 4] ∧
   [Event.completion, .service, .journal, .hygiene, .ovenLate, .guard, .clash, .fault, .ringError, .rollout, .profileBad].map
     Event.bitNo = [0, 1, 2, 3, 4, 5, 6, 7, 8, 9, 10] ∧
   [FirstFault.none, .parity, .framing, .noise, .unequal, .missing].map FirstFault.code = [0, 1, 2, 3, 4, 5] ∧
   [JobKind.commission, .recalibrate, .restore].map JobKind.code = [1, 2, 3] ∧
   [RecordKind.mirror, .completion, .service, .journal, .summary].map RecordKind.code = [1, 2, 3, 4, 5] ∧
   Mode.code .running = 1 ∧ Mode.code .passOnly = 2)

/-- 11 §11.4, R1, R176, R177, R193: where the fields of an oven record and of the site record lie, behind the change count in
bytes 0-3, and the bits of the event summary word. A byte that carries no field, and the bytes of an absent field, are 0; a
recipe slot or an oven slot that is not named is 0xFF. -/
def Obligations.MirrorLaidOut : Prop :=
  let byte := fun (b : List Byte) (k : Nat) => b.getD k 0
  let half := fun (b : List Byte) (k : Nat) => (b.getD (k + 1) 0 ++ b.getD k 0 : Half)
  let word := fun (b : List Byte) (k : Nat) => ((b.getD (k + 3) 0 ++ b.getD (k + 2) 0) ++ (b.getD (k + 1) 0 ++ b.getD k 0) : Word)
  (∀ (i : Slot) (s : State), (s.ent i).failures ≤ 3 →
    let e := s.ent i
    let b := [0, 0, 0, 0] ++ s.ovenBytes i
    let marks := byte b 10
    b.length = 64 ∧ s.ovenAddr i = s.profile.mirror + BitVec.ofNat 32 (64 * i.val) ∧
    byte b 4 = e.state.code ∧ byte b 5 = e.activity.code ∧ (byte b 6).getLsbD 0 = e.late ∧
    ((byte b 6).extractLsb' 4 2).toNat = e.failures ∧ (∀ k ∈ [1, 2, 3, 6, 7], (byte b 6).getLsbD k = false) ∧
    byte b 7 = e.causes.setWidth 8 ∧ (byte b 8).toNat = e.line.val ∧ byte b 9 = e.drop ∧
    marks.getLsbD 0 = e.identity.isSome ∧ marks.getLsbD 1 = e.cal.isSome ∧
    marks.getLsbD 2 = (e.readings.isSome && e.cal.isSome) ∧ marks.getLsbD 3 = e.cook.isSome ∧ marks.getLsbD 4 = e.probe ∧
    marks.getLsbD 5 = e.offerOut ∧ (marks.getLsbD 6 = true ↔ ∃ k t, e.cook = some k ∧ k.tag = some t) ∧
    marks.getLsbD 7 = e.lastReply.isSome ∧
    (∀ r, e.readings = some r → byte b 11 = r.reported.code) ∧ (e.readings = none → byte b 11 = 0) ∧
    (∀ d, e.identity = some d → word b 12 = d.serial ∧ byte b 16 = d.model ∧ half b 18 = d.level) ∧
    (e.identity = none → word b 12 = 0 ∧ byte b 16 = 0 ∧ half b 18 = 0) ∧ byte b 17 = e.level.code ∧
    (∀ r c, e.readings = some r → e.cal = some c →
      (half b 20).toInt = max (-32768) (min 32767 (c.corrected r.cabinet.toInt)) ∧
      (half b 22).toInt = max (-32768) (min 32767 (c.corrected r.core.toInt))) ∧
    (e.readings = none ∨ e.cal = none → half b 20 = 0 ∧ half b 22 = 0) ∧ word b 24 = e.lastReply.getD 0 ∧
    (∀ k, e.cook = some k →
      (byte b 28).toNat = k.recipe.val ∧ byte b 29 = k.version ∧ byte b 30 = k.origin.code ∧ byte b 31 = k.token ∧
      byte b 32 = k.step ∧ word b 36 = k.start ∧ half b 40 = k.tag.getD 0) ∧
    (e.cook = none → byte b 28 = 0xFF ∧ byte b 29 = 0 ∧ byte b 30 = 0 ∧ byte b 31 = 0 ∧ byte b 32 = 0 ∧ word b 36 = 0 ∧
      half b 40 = 0) ∧
    byte b 33 = e.upd.state.code ∧ byte b 35 = BitVec.ofNat 8 e.dir.length ∧ half b 42 = BitVec.ofNat 16 e.count ∧
    (∀ k, k < 8 → byte b (44 + k) = ((e.dir[k]?).map (fun d => BitVec.ofNat 8 d.recipe.val)).getD 0xFF) ∧
    (∀ c, e.cal = some c →
      half b 52 = c.refLow ∧ half b 54 = c.refHigh ∧ half b 56 = c.rawLow ∧ half b 58 = c.rawHigh) ∧
    (e.cal = none → ∀ k, 52 ≤ k → byte b k = 0) ∧ word b 60 = 0 ∧
    (∀ (k : Nat) (w : CleanWait), s.offerOrder[k]? = some w → w.slot = i →
      (∀ j, j < k → ∀ v, s.offerOrder[j]? = some v → v.slot ≠ i) → byte b 34 = BitVec.ofNat 8 (k + 1)) ∧
    ((∀ w ∈ s.hygiene.queue, w.slot ≠ i) → byte b 34 = 0)) ∧
  (∀ s : State,
    let b := [0, 0, 0, 0] ++ s.siteBytes
    let r := s.update.rollout
    let image := s.update.image
    let capture := fun (c : Capture) (k : Nat) => word b k = c.addr ∧ (byte b (k + 4)).getLsbD 0 = c.latched ∧
      (byte b (k + 4)).getLsbD 1 = c.overrun ∧ (∀ j, 2 ≤ j → (byte b (k + 4)).getLsbD j = false) ∧
      byte b (k + 5) = 0 ∧ half b (k + 6) = 0
    b.length = 128 ∧ s.siteAddr = s.profile.mirror + 1024 ∧
    s.offerOrder = s.hygiene.queue.filter (fun w => (s.ent w.slot).level == .overdue) ++
      s.hygiene.queue.filter (fun w => (s.ent w.slot).level != .overdue) ∧
    (s.mode = .running → byte b 4 = 1) ∧ (s.mode = .passOnly → byte b 4 = 2) ∧
    (byte b 5).getLsbD 0 = s.path.profileOpen ∧ (byte b 5).getLsbD 1 = s.service.dropped ∧
    (∀ k, 2 ≤ k → (byte b 5).getLsbD k = false) ∧ byte b 6 = s.faultCode ∧ byte b 7 = BitVec.ofNat 8 s.path.posted.length ∧
    word b 8 = s.report.clock ∧ half b 12 = s.faultOffset ∧ byte b 14 = image.state.code ∧ byte b 15 = image.reason.code ∧
    word b 16 = BitVec.ofNat 32 image.expected ∧
    (∀ h, image.head = some h → half b 20 = h.level ∧ byte b 22 = h.cls) ∧
    (image.head = none → half b 20 = 0 ∧ byte b 22 = 0) ∧ byte b 23 = r.state.code ∧
    (byte b 24).getLsbD 0 = r.downgrade ∧ (byte b 24).getLsbD 1 = r.orphaned ∧
    (∀ k, 2 ≤ k → (byte b 24).getLsbD k = false) ∧ byte b 25 = r.cls ∧ half b 26 = r.level ∧ half b 28 = r.target ∧
    half b 30 = r.done ∧ half b 32 = r.failed ∧ half b 34 = r.skipped ∧
    (byte b 36).toNat = slots.countP (fun i => (s.ent i).activity == .cleaning) ∧
    (byte b 37).toNat = slots.countP (fun i => (s.ent i).offerOut) ∧ byte b 38 = BitVec.ofNat 8 s.hygiene.queue.length ∧
    byte b 39 = 0 ∧
    (∀ k, k < 16 → byte b (40 + k) = ((s.offerOrder[k]?).map (fun w => BitVec.ofNat 8 w.slot.val)).getD 0xFF) ∧
    capture s.path.capFetch 56 ∧ capture s.path.capReport 64 ∧ capture s.path.capRecipe 72 ∧ capture s.path.capImage 80 ∧
    capture s.path.capGuard 88 ∧ ∀ k, 96 ≤ k → byte b k = 0) ∧
  (∀ (pending overrun : BitVec 11) (k : Nat), k < 32 →
    (summaryWord pending overrun).getLsbD k =
      ((decide (k < 11) && pending.getLsbD k) || (decide (16 ≤ k) && overrun.getLsbD (k - 16))))

/-- The output pins. R181, R190: IRQ is asserted in RUNNING while the signalled set and the mask have a kind in common,
steadily in PASS_ONLY, and not before; where the signalled set is empty under HRST (the invariant `HostQuiet`) it is not
asserted under HRST in RUNNING. R19, R144: SERVICE is asserted in RUNNING while an oven is SUSPENDED, steadily in PASS_ONLY,
and not before, and HRST does not change it. R49, R70: the port is ready when it is open, HRST is not asserted and the in-
flight table has room. R25, R26, R29, R47: the driver of a line is enabled, and its telegram sent, in TRANSMIT only; in TEST
the test's characters go to the receiver inside the part. At part reset no pin is asserted. -/
def Obligations.PinsDriven : Prop :=
  (∀ s : State,
    (s.mode = .running →
      (s.irq = true ↔ ∃ e : Event, s.report.signalled.getLsbD e.bitNo = true ∧ s.profile.mask.getLsbD e.bitNo = true) ∧
      (s.serviceLamp = true ↔ ∃ i : Slot, (s.ent i).state = .suspended) ∧
      (s.hrst = true → s.HostQuiet → s.irq = false)) ∧
    (s.mode = .passOnly → s.irq = true ∧ s.serviceLamp = true) ∧
    (s.mode = .inReset ∨ s.mode = .startUp → s.irq = false ∧ s.serviceLamp = false ∧ (s.HostQuiet → s.portReady = false)) ∧
    (s.portReady = true ↔ s.path.portOpen = true ∧ s.hrst = false ∧ s.path.inflight.length < 8) ∧
    (∀ l : LineNo,
      ((s.ln l).driverEnable = true ↔ (s.ln l).state = .transmit) ∧
      (∀ tr, (s.ln l).state = .transmit → (s.ln l).trans = some tr → (s.ln l).txChars = tr.q.chars) ∧
      ((s.ln l).state ≠ .transmit → (s.ln l).txChars = []) ∧
      ((s.ln l).state = .test → (s.ln l).loopChars = testChars) ∧ ((s.ln l).state ≠ .test → (s.ln l).loopChars = [])) ∧
    (∃ t, exec .partReset s = .next t ∧ t.irq = false ∧ t.serviceLamp = false ∧ t.portReady = false ∧
      ∀ l : LineNo, (t.ln l).driverEnable = false ∧ (t.ln l).txChars = [])) ∧
  (∀ (c : Instr) (s : State), c = .hrstAssert ∨ c = .hrstRelease →
    ∃ t, exec c s = .next t ∧ t.serviceLamp = s.serviceLamp ∧ (c = .hrstAssert → s.mode = .running → t.irq = false ∨ s.hrst = true))
end

