-- ==== Sys2Proof/Laws/Cache.lean ====
section
/-! SUPPORT. What the start checks that read a gate (R95) answer, and which entry of a directory a fill displaces (R100). -/

namespace Sys2Proof.Machine

theorem Entry.gateRefusal_absent {e : Entry} (g : Gate) (h : e.identity = none) : e.gateRefusal g = some .model := by
  unfold Entry.gateRefusal; rw [h]

/-- R95, checks 5 and 6 in their order. -/
theorem Entry.gateRefusal_of {e : Entry} (g : Gate) {d : Identity} (h : e.identity = some d) :
    (g.classes.getLsbD d.model.toNat = false → e.gateRefusal g = some .model) ∧
    (g.classes.getLsbD d.model.toNat = true →
      (d.level.toNat < g.minLevel.toNat → e.gateRefusal g = some .level) ∧
      (g.minLevel.toNat ≤ d.level.toNat → e.gateRefusal g = none)) := by
  unfold Entry.gateRefusal
  rw [h]
  exact ⟨fun hc => by simp [hc], fun hc => ⟨fun hl => by simp [hc, hl], fun hl => by simp [hc]; omega⟩⟩

theorem Entry.victim_none {e : Entry} {r : RecipeNo} (h : (∃ d ∈ e.dir, d.recipe = r) ∨ e.dir.length < 8) :
    e.victim r = none := by
  unfold Entry.victim
  rw [if_pos]
  refine h.imp (fun ⟨d, hd, hr⟩ => ?_) id
  simp only [Entry.dirEntry, List.find?_isSome]
  exact ⟨d, hd, by simp [hr]⟩

/-- R100: in a full directory without the fill's recipe, the victim is the last entry that the oven is not using. -/
theorem Entry.victim_last {e : Entry} {r : RecipeNo} {before after : List DirEntry} {d : DirEntry}
    (hd : e.dir = before ++ d :: after) (hr : ∀ x ∈ e.dir, x.recipe ≠ r) (hl : 8 ≤ e.dir.length)
    (hu : e.usesRecipe d.recipe = false) (ha : ∀ x ∈ after, e.usesRecipe x.recipe = true) :
    e.victim r = some d.recipe := by
  have hn : ¬((e.dirEntry r).isSome ∨ e.dir.length < Config.dirMax) := by
    rintro (h | h)
    · simp only [Entry.dirEntry, List.find?_isSome, beq_iff_eq] at h
      obtain ⟨x, hx, he⟩ := h
      exact hr x hx he
    · exact absurd h (by show ¬ _ < 8; omega)
  unfold Entry.victim
  rw [if_neg hn, hd, List.reverse_append, List.reverse_cons, List.append_assoc, List.find?_append,
    List.find?_eq_none.mpr (by simpa using ha)]
  simp [hu]

end Sys2Proof.Machine
end

