-- ==== Sys2Proof/Laws/State.lean ====
section
/-! SUPPORT. Field by field, what each elementary update of the state leaves alone, and reading back what was written. -/

namespace Sys2Proof.Machine

/-! `setEnt` touches `roster` only. -/

@[simp] theorem State.setEnt_pending (s : State) (i : Slot) (e : Entry) : (s.setEnt i e).pending = s.pending := rfl
@[simp] theorem State.setEnt_now (s : State) (i : Slot) (e : Entry) : (s.setEnt i e).now = s.now := rfl
@[simp] theorem State.setEnt_freeCount (s : State) (i : Slot) (e : Entry) : (s.setEnt i e).freeCount = s.freeCount := rfl
@[simp] theorem State.setEnt_oldIssued (s : State) (i : Slot) (e : Entry) : (s.setEnt i e).oldIssued = s.oldIssued := rfl
@[simp] theorem State.setEnt_mode (s : State) (i : Slot) (e : Entry) : (s.setEnt i e).mode = s.mode := rfl
@[simp] theorem State.setEnt_hrst (s : State) (i : Slot) (e : Entry) : (s.setEnt i e).hrst = s.hrst := rfl
@[simp] theorem State.setEnt_profileAddr (s : State) (i : Slot) (e : Entry) : (s.setEnt i e).profileAddr = s.profileAddr := rfl
@[simp] theorem State.setEnt_startBytes (s : State) (i : Slot) (e : Entry) : (s.setEnt i e).startBytes = s.startBytes := rfl
@[simp] theorem State.setEnt_startIssued (s : State) (i : Slot) (e : Entry) : (s.setEnt i e).startIssued = s.startIssued := rfl
@[simp] theorem State.setEnt_profile (s : State) (i : Slot) (e : Entry) : (s.setEnt i e).profile = s.profile := rfl
@[simp] theorem State.setEnt_faultCode (s : State) (i : Slot) (e : Entry) : (s.setEnt i e).faultCode = s.faultCode := rfl
@[simp] theorem State.setEnt_faultOffset (s : State) (i : Slot) (e : Entry) : (s.setEnt i e).faultOffset = s.faultOffset := rfl
@[simp] theorem State.setEnt_startWrites (s : State) (i : Slot) (e : Entry) : (s.setEnt i e).startWrites = s.startWrites := rfl
@[simp] theorem State.setEnt_startUnderHrst (s : State) (i : Slot) (e : Entry) : (s.setEnt i e).startUnderHrst = s.startUnderHrst := rfl
@[simp] theorem State.setEnt_path (s : State) (i : Slot) (e : Entry) : (s.setEnt i e).path = s.path := rfl
@[simp] theorem State.setEnt_lines (s : State) (i : Slot) (e : Entry) : (s.setEnt i e).lines = s.lines := rfl
@[simp] theorem State.setEnt_recipe (s : State) (i : Slot) (e : Entry) : (s.setEnt i e).recipe = s.recipe := rfl
@[simp] theorem State.setEnt_cache (s : State) (i : Slot) (e : Entry) : (s.setEnt i e).cache = s.cache := rfl
@[simp] theorem State.setEnt_hygiene (s : State) (i : Slot) (e : Entry) : (s.setEnt i e).hygiene = s.hygiene := rfl
@[simp] theorem State.setEnt_service (s : State) (i : Slot) (e : Entry) : (s.setEnt i e).service = s.service := rfl
@[simp] theorem State.setEnt_update (s : State) (i : Slot) (e : Entry) : (s.setEnt i e).update = s.update := rfl
@[simp] theorem State.setEnt_command (s : State) (i : Slot) (e : Entry) : (s.setEnt i e).command = s.command := rfl
@[simp] theorem State.setEnt_report (s : State) (i : Slot) (e : Entry) : (s.setEnt i e).report = s.report := rfl

/-! `modEnt` touches `roster` only. -/

@[simp] theorem State.modEnt_pending (s : State) (i : Slot) (f : Entry → Entry) : (s.modEnt i f).pending = s.pending := rfl
@[simp] theorem State.modEnt_now (s : State) (i : Slot) (f : Entry → Entry) : (s.modEnt i f).now = s.now := rfl
@[simp] theorem State.modEnt_freeCount (s : State) (i : Slot) (f : Entry → Entry) : (s.modEnt i f).freeCount = s.freeCount := rfl
@[simp] theorem State.modEnt_oldIssued (s : State) (i : Slot) (f : Entry → Entry) : (s.modEnt i f).oldIssued = s.oldIssued := rfl
@[simp] theorem State.modEnt_mode (s : State) (i : Slot) (f : Entry → Entry) : (s.modEnt i f).mode = s.mode := rfl
@[simp] theorem State.modEnt_hrst (s : State) (i : Slot) (f : Entry → Entry) : (s.modEnt i f).hrst = s.hrst := rfl
@[simp] theorem State.modEnt_profileAddr (s : State) (i : Slot) (f : Entry → Entry) : (s.modEnt i f).profileAddr = s.profileAddr := rfl
@[simp] theorem State.modEnt_startBytes (s : State) (i : Slot) (f : Entry → Entry) : (s.modEnt i f).startBytes = s.startBytes := rfl
@[simp] theorem State.modEnt_startIssued (s : State) (i : Slot) (f : Entry → Entry) : (s.modEnt i f).startIssued = s.startIssued := rfl
@[simp] theorem State.modEnt_profile (s : State) (i : Slot) (f : Entry → Entry) : (s.modEnt i f).profile = s.profile := rfl
@[simp] theorem State.modEnt_faultCode (s : State) (i : Slot) (f : Entry → Entry) : (s.modEnt i f).faultCode = s.faultCode := rfl
@[simp] theorem State.modEnt_faultOffset (s : State) (i : Slot) (f : Entry → Entry) : (s.modEnt i f).faultOffset = s.faultOffset := rfl
@[simp] theorem State.modEnt_startWrites (s : State) (i : Slot) (f : Entry → Entry) : (s.modEnt i f).startWrites = s.startWrites := rfl
@[simp] theorem State.modEnt_startUnderHrst (s : State) (i : Slot) (f : Entry → Entry) : (s.modEnt i f).startUnderHrst = s.startUnderHrst := rfl
@[simp] theorem State.modEnt_path (s : State) (i : Slot) (f : Entry → Entry) : (s.modEnt i f).path = s.path := rfl
@[simp] theorem State.modEnt_lines (s : State) (i : Slot) (f : Entry → Entry) : (s.modEnt i f).lines = s.lines := rfl
@[simp] theorem State.modEnt_recipe (s : State) (i : Slot) (f : Entry → Entry) : (s.modEnt i f).recipe = s.recipe := rfl
@[simp] theorem State.modEnt_cache (s : State) (i : Slot) (f : Entry → Entry) : (s.modEnt i f).cache = s.cache := rfl
@[simp] theorem State.modEnt_hygiene (s : State) (i : Slot) (f : Entry → Entry) : (s.modEnt i f).hygiene = s.hygiene := rfl
@[simp] theorem State.modEnt_service (s : State) (i : Slot) (f : Entry → Entry) : (s.modEnt i f).service = s.service := rfl
@[simp] theorem State.modEnt_update (s : State) (i : Slot) (f : Entry → Entry) : (s.modEnt i f).update = s.update := rfl
@[simp] theorem State.modEnt_command (s : State) (i : Slot) (f : Entry → Entry) : (s.modEnt i f).command = s.command := rfl
@[simp] theorem State.modEnt_report (s : State) (i : Slot) (f : Entry → Entry) : (s.modEnt i f).report = s.report := rfl

/-! `setLn` touches `lines` only. -/

@[simp] theorem State.setLn_pending (s : State) (l : LineNo) (x : Line) : (s.setLn l x).pending = s.pending := rfl
@[simp] theorem State.setLn_now (s : State) (l : LineNo) (x : Line) : (s.setLn l x).now = s.now := rfl
@[simp] theorem State.setLn_freeCount (s : State) (l : LineNo) (x : Line) : (s.setLn l x).freeCount = s.freeCount := rfl
@[simp] theorem State.setLn_oldIssued (s : State) (l : LineNo) (x : Line) : (s.setLn l x).oldIssued = s.oldIssued := rfl
@[simp] theorem State.setLn_mode (s : State) (l : LineNo) (x : Line) : (s.setLn l x).mode = s.mode := rfl
@[simp] theorem State.setLn_hrst (s : State) (l : LineNo) (x : Line) : (s.setLn l x).hrst = s.hrst := rfl
@[simp] theorem State.setLn_profileAddr (s : State) (l : LineNo) (x : Line) : (s.setLn l x).profileAddr = s.profileAddr := rfl
@[simp] theorem State.setLn_startBytes (s : State) (l : LineNo) (x : Line) : (s.setLn l x).startBytes = s.startBytes := rfl
@[simp] theorem State.setLn_startIssued (s : State) (l : LineNo) (x : Line) : (s.setLn l x).startIssued = s.startIssued := rfl
@[simp] theorem State.setLn_profile (s : State) (l : LineNo) (x : Line) : (s.setLn l x).profile = s.profile := rfl
@[simp] theorem State.setLn_faultCode (s : State) (l : LineNo) (x : Line) : (s.setLn l x).faultCode = s.faultCode := rfl
@[simp] theorem State.setLn_faultOffset (s : State) (l : LineNo) (x : Line) : (s.setLn l x).faultOffset = s.faultOffset := rfl
@[simp] theorem State.setLn_startWrites (s : State) (l : LineNo) (x : Line) : (s.setLn l x).startWrites = s.startWrites := rfl
@[simp] theorem State.setLn_startUnderHrst (s : State) (l : LineNo) (x : Line) : (s.setLn l x).startUnderHrst = s.startUnderHrst := rfl
@[simp] theorem State.setLn_path (s : State) (l : LineNo) (x : Line) : (s.setLn l x).path = s.path := rfl
@[simp] theorem State.setLn_roster (s : State) (l : LineNo) (x : Line) : (s.setLn l x).roster = s.roster := rfl
@[simp] theorem State.setLn_recipe (s : State) (l : LineNo) (x : Line) : (s.setLn l x).recipe = s.recipe := rfl
@[simp] theorem State.setLn_cache (s : State) (l : LineNo) (x : Line) : (s.setLn l x).cache = s.cache := rfl
@[simp] theorem State.setLn_hygiene (s : State) (l : LineNo) (x : Line) : (s.setLn l x).hygiene = s.hygiene := rfl
@[simp] theorem State.setLn_service (s : State) (l : LineNo) (x : Line) : (s.setLn l x).service = s.service := rfl
@[simp] theorem State.setLn_update (s : State) (l : LineNo) (x : Line) : (s.setLn l x).update = s.update := rfl
@[simp] theorem State.setLn_command (s : State) (l : LineNo) (x : Line) : (s.setLn l x).command = s.command := rfl
@[simp] theorem State.setLn_report (s : State) (l : LineNo) (x : Line) : (s.setLn l x).report = s.report := rfl

/-! `modLn` touches `lines` only. -/

@[simp] theorem State.modLn_pending (s : State) (l : LineNo) (f : Line → Line) : (s.modLn l f).pending = s.pending := rfl
@[simp] theorem State.modLn_now (s : State) (l : LineNo) (f : Line → Line) : (s.modLn l f).now = s.now := rfl
@[simp] theorem State.modLn_freeCount (s : State) (l : LineNo) (f : Line → Line) : (s.modLn l f).freeCount = s.freeCount := rfl
@[simp] theorem State.modLn_oldIssued (s : State) (l : LineNo) (f : Line → Line) : (s.modLn l f).oldIssued = s.oldIssued := rfl
@[simp] theorem State.modLn_mode (s : State) (l : LineNo) (f : Line → Line) : (s.modLn l f).mode = s.mode := rfl
@[simp] theorem State.modLn_hrst (s : State) (l : LineNo) (f : Line → Line) : (s.modLn l f).hrst = s.hrst := rfl
@[simp] theorem State.modLn_profileAddr (s : State) (l : LineNo) (f : Line → Line) : (s.modLn l f).profileAddr = s.profileAddr := rfl
@[simp] theorem State.modLn_startBytes (s : State) (l : LineNo) (f : Line → Line) : (s.modLn l f).startBytes = s.startBytes := rfl
@[simp] theorem State.modLn_startIssued (s : State) (l : LineNo) (f : Line → Line) : (s.modLn l f).startIssued = s.startIssued := rfl
@[simp] theorem State.modLn_profile (s : State) (l : LineNo) (f : Line → Line) : (s.modLn l f).profile = s.profile := rfl
@[simp] theorem State.modLn_faultCode (s : State) (l : LineNo) (f : Line → Line) : (s.modLn l f).faultCode = s.faultCode := rfl
@[simp] theorem State.modLn_faultOffset (s : State) (l : LineNo) (f : Line → Line) : (s.modLn l f).faultOffset = s.faultOffset := rfl
@[simp] theorem State.modLn_startWrites (s : State) (l : LineNo) (f : Line → Line) : (s.modLn l f).startWrites = s.startWrites := rfl
@[simp] theorem State.modLn_startUnderHrst (s : State) (l : LineNo) (f : Line → Line) : (s.modLn l f).startUnderHrst = s.startUnderHrst := rfl
@[simp] theorem State.modLn_path (s : State) (l : LineNo) (f : Line → Line) : (s.modLn l f).path = s.path := rfl
@[simp] theorem State.modLn_roster (s : State) (l : LineNo) (f : Line → Line) : (s.modLn l f).roster = s.roster := rfl
@[simp] theorem State.modLn_recipe (s : State) (l : LineNo) (f : Line → Line) : (s.modLn l f).recipe = s.recipe := rfl
@[simp] theorem State.modLn_cache (s : State) (l : LineNo) (f : Line → Line) : (s.modLn l f).cache = s.cache := rfl
@[simp] theorem State.modLn_hygiene (s : State) (l : LineNo) (f : Line → Line) : (s.modLn l f).hygiene = s.hygiene := rfl
@[simp] theorem State.modLn_service (s : State) (l : LineNo) (f : Line → Line) : (s.modLn l f).service = s.service := rfl
@[simp] theorem State.modLn_update (s : State) (l : LineNo) (f : Line → Line) : (s.modLn l f).update = s.update := rfl
@[simp] theorem State.modLn_command (s : State) (l : LineNo) (f : Line → Line) : (s.modLn l f).command = s.command := rfl
@[simp] theorem State.modLn_report (s : State) (l : LineNo) (f : Line → Line) : (s.modLn l f).report = s.report := rfl

/-! `setRslot` touches `recipe` only. -/

@[simp] theorem State.setRslot_pending (s : State) (r : RecipeNo) (x : RecipeSlot) : (s.setRslot r x).pending = s.pending := rfl
@[simp] theorem State.setRslot_now (s : State) (r : RecipeNo) (x : RecipeSlot) : (s.setRslot r x).now = s.now := rfl
@[simp] theorem State.setRslot_freeCount (s : State) (r : RecipeNo) (x : RecipeSlot) : (s.setRslot r x).freeCount = s.freeCount := rfl
@[simp] theorem State.setRslot_oldIssued (s : State) (r : RecipeNo) (x : RecipeSlot) : (s.setRslot r x).oldIssued = s.oldIssued := rfl
@[simp] theorem State.setRslot_mode (s : State) (r : RecipeNo) (x : RecipeSlot) : (s.setRslot r x).mode = s.mode := rfl
@[simp] theorem State.setRslot_hrst (s : State) (r : RecipeNo) (x : RecipeSlot) : (s.setRslot r x).hrst = s.hrst := rfl
@[simp] theorem State.setRslot_profileAddr (s : State) (r : RecipeNo) (x : RecipeSlot) : (s.setRslot r x).profileAddr = s.profileAddr := rfl
@[simp] theorem State.setRslot_startBytes (s : State) (r : RecipeNo) (x : RecipeSlot) : (s.setRslot r x).startBytes = s.startBytes := rfl
@[simp] theorem State.setRslot_startIssued (s : State) (r : RecipeNo) (x : RecipeSlot) : (s.setRslot r x).startIssued = s.startIssued := rfl
@[simp] theorem State.setRslot_profile (s : State) (r : RecipeNo) (x : RecipeSlot) : (s.setRslot r x).profile = s.profile := rfl
@[simp] theorem State.setRslot_faultCode (s : State) (r : RecipeNo) (x : RecipeSlot) : (s.setRslot r x).faultCode = s.faultCode := rfl
@[simp] theorem State.setRslot_faultOffset (s : State) (r : RecipeNo) (x : RecipeSlot) : (s.setRslot r x).faultOffset = s.faultOffset := rfl
@[simp] theorem State.setRslot_startWrites (s : State) (r : RecipeNo) (x : RecipeSlot) : (s.setRslot r x).startWrites = s.startWrites := rfl
@[simp] theorem State.setRslot_startUnderHrst (s : State) (r : RecipeNo) (x : RecipeSlot) : (s.setRslot r x).startUnderHrst = s.startUnderHrst := rfl
@[simp] theorem State.setRslot_path (s : State) (r : RecipeNo) (x : RecipeSlot) : (s.setRslot r x).path = s.path := rfl
@[simp] theorem State.setRslot_lines (s : State) (r : RecipeNo) (x : RecipeSlot) : (s.setRslot r x).lines = s.lines := rfl
@[simp] theorem State.setRslot_roster (s : State) (r : RecipeNo) (x : RecipeSlot) : (s.setRslot r x).roster = s.roster := rfl
@[simp] theorem State.setRslot_cache (s : State) (r : RecipeNo) (x : RecipeSlot) : (s.setRslot r x).cache = s.cache := rfl
@[simp] theorem State.setRslot_hygiene (s : State) (r : RecipeNo) (x : RecipeSlot) : (s.setRslot r x).hygiene = s.hygiene := rfl
@[simp] theorem State.setRslot_service (s : State) (r : RecipeNo) (x : RecipeSlot) : (s.setRslot r x).service = s.service := rfl
@[simp] theorem State.setRslot_update (s : State) (r : RecipeNo) (x : RecipeSlot) : (s.setRslot r x).update = s.update := rfl
@[simp] theorem State.setRslot_command (s : State) (r : RecipeNo) (x : RecipeSlot) : (s.setRslot r x).command = s.command := rfl
@[simp] theorem State.setRslot_report (s : State) (r : RecipeNo) (x : RecipeSlot) : (s.setRslot r x).report = s.report := rfl

/-! `modRslot` touches `recipe` only. -/

@[simp] theorem State.modRslot_pending (s : State) (r : RecipeNo) (f : RecipeSlot → RecipeSlot) : (s.modRslot r f).pending = s.pending := rfl
@[simp] theorem State.modRslot_now (s : State) (r : RecipeNo) (f : RecipeSlot → RecipeSlot) : (s.modRslot r f).now = s.now := rfl
@[simp] theorem State.modRslot_freeCount (s : State) (r : RecipeNo) (f : RecipeSlot → RecipeSlot) : (s.modRslot r f).freeCount = s.freeCount := rfl
@[simp] theorem State.modRslot_oldIssued (s : State) (r : RecipeNo) (f : RecipeSlot → RecipeSlot) : (s.modRslot r f).oldIssued = s.oldIssued := rfl
@[simp] theorem State.modRslot_mode (s : State) (r : RecipeNo) (f : RecipeSlot → RecipeSlot) : (s.modRslot r f).mode = s.mode := rfl
@[simp] theorem State.modRslot_hrst (s : State) (r : RecipeNo) (f : RecipeSlot → RecipeSlot) : (s.modRslot r f).hrst = s.hrst := rfl
@[simp] theorem State.modRslot_profileAddr (s : State) (r : RecipeNo) (f : RecipeSlot → RecipeSlot) : (s.modRslot r f).profileAddr = s.profileAddr := rfl
@[simp] theorem State.modRslot_startBytes (s : State) (r : RecipeNo) (f : RecipeSlot → RecipeSlot) : (s.modRslot r f).startBytes = s.startBytes := rfl
@[simp] theorem State.modRslot_startIssued (s : State) (r : RecipeNo) (f : RecipeSlot → RecipeSlot) : (s.modRslot r f).startIssued = s.startIssued := rfl
@[simp] theorem State.modRslot_profile (s : State) (r : RecipeNo) (f : RecipeSlot → RecipeSlot) : (s.modRslot r f).profile = s.profile := rfl
@[simp] theorem State.modRslot_faultCode (s : State) (r : RecipeNo) (f : RecipeSlot → RecipeSlot) : (s.modRslot r f).faultCode = s.faultCode := rfl
@[simp] theorem State.modRslot_faultOffset (s : State) (r : RecipeNo) (f : RecipeSlot → RecipeSlot) : (s.modRslot r f).faultOffset = s.faultOffset := rfl
@[simp] theorem State.modRslot_startWrites (s : State) (r : RecipeNo) (f : RecipeSlot → RecipeSlot) : (s.modRslot r f).startWrites = s.startWrites := rfl
@[simp] theorem State.modRslot_startUnderHrst (s : State) (r : RecipeNo) (f : RecipeSlot → RecipeSlot) : (s.modRslot r f).startUnderHrst = s.startUnderHrst := rfl
@[simp] theorem State.modRslot_path (s : State) (r : RecipeNo) (f : RecipeSlot → RecipeSlot) : (s.modRslot r f).path = s.path := rfl
@[simp] theorem State.modRslot_lines (s : State) (r : RecipeNo) (f : RecipeSlot → RecipeSlot) : (s.modRslot r f).lines = s.lines := rfl
@[simp] theorem State.modRslot_roster (s : State) (r : RecipeNo) (f : RecipeSlot → RecipeSlot) : (s.modRslot r f).roster = s.roster := rfl
@[simp] theorem State.modRslot_cache (s : State) (r : RecipeNo) (f : RecipeSlot → RecipeSlot) : (s.modRslot r f).cache = s.cache := rfl
@[simp] theorem State.modRslot_hygiene (s : State) (r : RecipeNo) (f : RecipeSlot → RecipeSlot) : (s.modRslot r f).hygiene = s.hygiene := rfl
@[simp] theorem State.modRslot_service (s : State) (r : RecipeNo) (f : RecipeSlot → RecipeSlot) : (s.modRslot r f).service = s.service := rfl
@[simp] theorem State.modRslot_update (s : State) (r : RecipeNo) (f : RecipeSlot → RecipeSlot) : (s.modRslot r f).update = s.update := rfl
@[simp] theorem State.modRslot_command (s : State) (r : RecipeNo) (f : RecipeSlot → RecipeSlot) : (s.modRslot r f).command = s.command := rfl
@[simp] theorem State.modRslot_report (s : State) (r : RecipeNo) (f : RecipeSlot → RecipeSlot) : (s.modRslot r f).report = s.report := rfl

/-! `modUpd` touches `roster` only. -/

@[simp] theorem State.modUpd_pending (s : State) (i : Slot) (f : UpdRec → UpdRec) : (s.modUpd i f).pending = s.pending := rfl
@[simp] theorem State.modUpd_now (s : State) (i : Slot) (f : UpdRec → UpdRec) : (s.modUpd i f).now = s.now := rfl
@[simp] theorem State.modUpd_freeCount (s : State) (i : Slot) (f : UpdRec → UpdRec) : (s.modUpd i f).freeCount = s.freeCount := rfl
@[simp] theorem State.modUpd_oldIssued (s : State) (i : Slot) (f : UpdRec → UpdRec) : (s.modUpd i f).oldIssued = s.oldIssued := rfl
@[simp] theorem State.modUpd_mode (s : State) (i : Slot) (f : UpdRec → UpdRec) : (s.modUpd i f).mode = s.mode := rfl
@[simp] theorem State.modUpd_hrst (s : State) (i : Slot) (f : UpdRec → UpdRec) : (s.modUpd i f).hrst = s.hrst := rfl
@[simp] theorem State.modUpd_profileAddr (s : State) (i : Slot) (f : UpdRec → UpdRec) : (s.modUpd i f).profileAddr = s.profileAddr := rfl
@[simp] theorem State.modUpd_startBytes (s : State) (i : Slot) (f : UpdRec → UpdRec) : (s.modUpd i f).startBytes = s.startBytes := rfl
@[simp] theorem State.modUpd_startIssued (s : State) (i : Slot) (f : UpdRec → UpdRec) : (s.modUpd i f).startIssued = s.startIssued := rfl
@[simp] theorem State.modUpd_profile (s : State) (i : Slot) (f : UpdRec → UpdRec) : (s.modUpd i f).profile = s.profile := rfl
@[simp] theorem State.modUpd_faultCode (s : State) (i : Slot) (f : UpdRec → UpdRec) : (s.modUpd i f).faultCode = s.faultCode := rfl
@[simp] theorem State.modUpd_faultOffset (s : State) (i : Slot) (f : UpdRec → UpdRec) : (s.modUpd i f).faultOffset = s.faultOffset := rfl
@[simp] theorem State.modUpd_startWrites (s : State) (i : Slot) (f : UpdRec → UpdRec) : (s.modUpd i f).startWrites = s.startWrites := rfl
@[simp] theorem State.modUpd_startUnderHrst (s : State) (i : Slot) (f : UpdRec → UpdRec) : (s.modUpd i f).startUnderHrst = s.startUnderHrst := rfl
@[simp] theorem State.modUpd_path (s : State) (i : Slot) (f : UpdRec → UpdRec) : (s.modUpd i f).path = s.path := rfl
@[simp] theorem State.modUpd_lines (s : State) (i : Slot) (f : UpdRec → UpdRec) : (s.modUpd i f).lines = s.lines := rfl
@[simp] theorem State.modUpd_recipe (s : State) (i : Slot) (f : UpdRec → UpdRec) : (s.modUpd i f).recipe = s.recipe := rfl
@[simp] theorem State.modUpd_cache (s : State) (i : Slot) (f : UpdRec → UpdRec) : (s.modUpd i f).cache = s.cache := rfl
@[simp] theorem State.modUpd_hygiene (s : State) (i : Slot) (f : UpdRec → UpdRec) : (s.modUpd i f).hygiene = s.hygiene := rfl
@[simp] theorem State.modUpd_service (s : State) (i : Slot) (f : UpdRec → UpdRec) : (s.modUpd i f).service = s.service := rfl
@[simp] theorem State.modUpd_update (s : State) (i : Slot) (f : UpdRec → UpdRec) : (s.modUpd i f).update = s.update := rfl
@[simp] theorem State.modUpd_command (s : State) (i : Slot) (f : UpdRec → UpdRec) : (s.modUpd i f).command = s.command := rfl
@[simp] theorem State.modUpd_report (s : State) (i : Slot) (f : UpdRec → UpdRec) : (s.modUpd i f).report = s.report := rfl

/-! `modDir` touches `roster` only. -/

@[simp] theorem State.modDir_pending (s : State) (i : Slot) (f : List DirEntry → List DirEntry) : (s.modDir i f).pending = s.pending := rfl
@[simp] theorem State.modDir_now (s : State) (i : Slot) (f : List DirEntry → List DirEntry) : (s.modDir i f).now = s.now := rfl
@[simp] theorem State.modDir_freeCount (s : State) (i : Slot) (f : List DirEntry → List DirEntry) : (s.modDir i f).freeCount = s.freeCount := rfl
@[simp] theorem State.modDir_oldIssued (s : State) (i : Slot) (f : List DirEntry → List DirEntry) : (s.modDir i f).oldIssued = s.oldIssued := rfl
@[simp] theorem State.modDir_mode (s : State) (i : Slot) (f : List DirEntry → List DirEntry) : (s.modDir i f).mode = s.mode := rfl
@[simp] theorem State.modDir_hrst (s : State) (i : Slot) (f : List DirEntry → List DirEntry) : (s.modDir i f).hrst = s.hrst := rfl
@[simp] theorem State.modDir_profileAddr (s : State) (i : Slot) (f : List DirEntry → List DirEntry) : (s.modDir i f).profileAddr = s.profileAddr := rfl
@[simp] theorem State.modDir_startBytes (s : State) (i : Slot) (f : List DirEntry → List DirEntry) : (s.modDir i f).startBytes = s.startBytes := rfl
@[simp] theorem State.modDir_startIssued (s : State) (i : Slot) (f : List DirEntry → List DirEntry) : (s.modDir i f).startIssued = s.startIssued := rfl
@[simp] theorem State.modDir_profile (s : State) (i : Slot) (f : List DirEntry → List DirEntry) : (s.modDir i f).profile = s.profile := rfl
@[simp] theorem State.modDir_faultCode (s : State) (i : Slot) (f : List DirEntry → List DirEntry) : (s.modDir i f).faultCode = s.faultCode := rfl
@[simp] theorem State.modDir_faultOffset (s : State) (i : Slot) (f : List DirEntry → List DirEntry) : (s.modDir i f).faultOffset = s.faultOffset := rfl
@[simp] theorem State.modDir_startWrites (s : State) (i : Slot) (f : List DirEntry → List DirEntry) : (s.modDir i f).startWrites = s.startWrites := rfl
@[simp] theorem State.modDir_startUnderHrst (s : State) (i : Slot) (f : List DirEntry → List DirEntry) : (s.modDir i f).startUnderHrst = s.startUnderHrst := rfl
@[simp] theorem State.modDir_path (s : State) (i : Slot) (f : List DirEntry → List DirEntry) : (s.modDir i f).path = s.path := rfl
@[simp] theorem State.modDir_lines (s : State) (i : Slot) (f : List DirEntry → List DirEntry) : (s.modDir i f).lines = s.lines := rfl
@[simp] theorem State.modDir_recipe (s : State) (i : Slot) (f : List DirEntry → List DirEntry) : (s.modDir i f).recipe = s.recipe := rfl
@[simp] theorem State.modDir_cache (s : State) (i : Slot) (f : List DirEntry → List DirEntry) : (s.modDir i f).cache = s.cache := rfl
@[simp] theorem State.modDir_hygiene (s : State) (i : Slot) (f : List DirEntry → List DirEntry) : (s.modDir i f).hygiene = s.hygiene := rfl
@[simp] theorem State.modDir_service (s : State) (i : Slot) (f : List DirEntry → List DirEntry) : (s.modDir i f).service = s.service := rfl
@[simp] theorem State.modDir_update (s : State) (i : Slot) (f : List DirEntry → List DirEntry) : (s.modDir i f).update = s.update := rfl
@[simp] theorem State.modDir_command (s : State) (i : Slot) (f : List DirEntry → List DirEntry) : (s.modDir i f).command = s.command := rfl
@[simp] theorem State.modDir_report (s : State) (i : Slot) (f : List DirEntry → List DirEntry) : (s.modDir i f).report = s.report := rfl

/-! `modImage` touches `update` only. -/

@[simp] theorem State.modImage_pending (s : State) (f : ImageRec → ImageRec) : (s.modImage f).pending = s.pending := rfl
@[simp] theorem State.modImage_now (s : State) (f : ImageRec → ImageRec) : (s.modImage f).now = s.now := rfl
@[simp] theorem State.modImage_freeCount (s : State) (f : ImageRec → ImageRec) : (s.modImage f).freeCount = s.freeCount := rfl
@[simp] theorem State.modImage_oldIssued (s : State) (f : ImageRec → ImageRec) : (s.modImage f).oldIssued = s.oldIssued := rfl
@[simp] theorem State.modImage_mode (s : State) (f : ImageRec → ImageRec) : (s.modImage f).mode = s.mode := rfl
@[simp] theorem State.modImage_hrst (s : State) (f : ImageRec → ImageRec) : (s.modImage f).hrst = s.hrst := rfl
@[simp] theorem State.modImage_profileAddr (s : State) (f : ImageRec → ImageRec) : (s.modImage f).profileAddr = s.profileAddr := rfl
@[simp] theorem State.modImage_startBytes (s : State) (f : ImageRec → ImageRec) : (s.modImage f).startBytes = s.startBytes := rfl
@[simp] theorem State.modImage_startIssued (s : State) (f : ImageRec → ImageRec) : (s.modImage f).startIssued = s.startIssued := rfl
@[simp] theorem State.modImage_profile (s : State) (f : ImageRec → ImageRec) : (s.modImage f).profile = s.profile := rfl
@[simp] theorem State.modImage_faultCode (s : State) (f : ImageRec → ImageRec) : (s.modImage f).faultCode = s.faultCode := rfl
@[simp] theorem State.modImage_faultOffset (s : State) (f : ImageRec → ImageRec) : (s.modImage f).faultOffset = s.faultOffset := rfl
@[simp] theorem State.modImage_startWrites (s : State) (f : ImageRec → ImageRec) : (s.modImage f).startWrites = s.startWrites := rfl
@[simp] theorem State.modImage_startUnderHrst (s : State) (f : ImageRec → ImageRec) : (s.modImage f).startUnderHrst = s.startUnderHrst := rfl
@[simp] theorem State.modImage_path (s : State) (f : ImageRec → ImageRec) : (s.modImage f).path = s.path := rfl
@[simp] theorem State.modImage_lines (s : State) (f : ImageRec → ImageRec) : (s.modImage f).lines = s.lines := rfl
@[simp] theorem State.modImage_roster (s : State) (f : ImageRec → ImageRec) : (s.modImage f).roster = s.roster := rfl
@[simp] theorem State.modImage_recipe (s : State) (f : ImageRec → ImageRec) : (s.modImage f).recipe = s.recipe := rfl
@[simp] theorem State.modImage_cache (s : State) (f : ImageRec → ImageRec) : (s.modImage f).cache = s.cache := rfl
@[simp] theorem State.modImage_hygiene (s : State) (f : ImageRec → ImageRec) : (s.modImage f).hygiene = s.hygiene := rfl
@[simp] theorem State.modImage_service (s : State) (f : ImageRec → ImageRec) : (s.modImage f).service = s.service := rfl
@[simp] theorem State.modImage_command (s : State) (f : ImageRec → ImageRec) : (s.modImage f).command = s.command := rfl
@[simp] theorem State.modImage_report (s : State) (f : ImageRec → ImageRec) : (s.modImage f).report = s.report := rfl

/-! `modRollout` touches `update` only. -/

@[simp] theorem State.modRollout_pending (s : State) (f : RolloutRec → RolloutRec) : (s.modRollout f).pending = s.pending := rfl
@[simp] theorem State.modRollout_now (s : State) (f : RolloutRec → RolloutRec) : (s.modRollout f).now = s.now := rfl
@[simp] theorem State.modRollout_freeCount (s : State) (f : RolloutRec → RolloutRec) : (s.modRollout f).freeCount = s.freeCount := rfl
@[simp] theorem State.modRollout_oldIssued (s : State) (f : RolloutRec → RolloutRec) : (s.modRollout f).oldIssued = s.oldIssued := rfl
@[simp] theorem State.modRollout_mode (s : State) (f : RolloutRec → RolloutRec) : (s.modRollout f).mode = s.mode := rfl
@[simp] theorem State.modRollout_hrst (s : State) (f : RolloutRec → RolloutRec) : (s.modRollout f).hrst = s.hrst := rfl
@[simp] theorem State.modRollout_profileAddr (s : State) (f : RolloutRec → RolloutRec) : (s.modRollout f).profileAddr = s.profileAddr := rfl
@[simp] theorem State.modRollout_startBytes (s : State) (f : RolloutRec → RolloutRec) : (s.modRollout f).startBytes = s.startBytes := rfl
@[simp] theorem State.modRollout_startIssued (s : State) (f : RolloutRec → RolloutRec) : (s.modRollout f).startIssued = s.startIssued := rfl
@[simp] theorem State.modRollout_profile (s : State) (f : RolloutRec → RolloutRec) : (s.modRollout f).profile = s.profile := rfl
@[simp] theorem State.modRollout_faultCode (s : State) (f : RolloutRec → RolloutRec) : (s.modRollout f).faultCode = s.faultCode := rfl
@[simp] theorem State.modRollout_faultOffset (s : State) (f : RolloutRec → RolloutRec) : (s.modRollout f).faultOffset = s.faultOffset := rfl
@[simp] theorem State.modRollout_startWrites (s : State) (f : RolloutRec → RolloutRec) : (s.modRollout f).startWrites = s.startWrites := rfl
@[simp] theorem State.modRollout_startUnderHrst (s : State) (f : RolloutRec → RolloutRec) : (s.modRollout f).startUnderHrst = s.startUnderHrst := rfl
@[simp] theorem State.modRollout_path (s : State) (f : RolloutRec → RolloutRec) : (s.modRollout f).path = s.path := rfl
@[simp] theorem State.modRollout_lines (s : State) (f : RolloutRec → RolloutRec) : (s.modRollout f).lines = s.lines := rfl
@[simp] theorem State.modRollout_roster (s : State) (f : RolloutRec → RolloutRec) : (s.modRollout f).roster = s.roster := rfl
@[simp] theorem State.modRollout_recipe (s : State) (f : RolloutRec → RolloutRec) : (s.modRollout f).recipe = s.recipe := rfl
@[simp] theorem State.modRollout_cache (s : State) (f : RolloutRec → RolloutRec) : (s.modRollout f).cache = s.cache := rfl
@[simp] theorem State.modRollout_hygiene (s : State) (f : RolloutRec → RolloutRec) : (s.modRollout f).hygiene = s.hygiene := rfl
@[simp] theorem State.modRollout_service (s : State) (f : RolloutRec → RolloutRec) : (s.modRollout f).service = s.service := rfl
@[simp] theorem State.modRollout_command (s : State) (f : RolloutRec → RolloutRec) : (s.modRollout f).command = s.command := rfl
@[simp] theorem State.modRollout_report (s : State) (f : RolloutRec → RolloutRec) : (s.modRollout f).report = s.report := rfl

/-! `complete` touches `command` only. -/

@[simp] theorem complete_pending (s : State) (tag : Half) (kind : Byte) (r : ResultCode) (d1 d2 d3 : Word) : (complete tag kind r d1 d2 d3 s).pending = s.pending := rfl
@[simp] theorem complete_now (s : State) (tag : Half) (kind : Byte) (r : ResultCode) (d1 d2 d3 : Word) : (complete tag kind r d1 d2 d3 s).now = s.now := rfl
@[simp] theorem complete_freeCount (s : State) (tag : Half) (kind : Byte) (r : ResultCode) (d1 d2 d3 : Word) : (complete tag kind r d1 d2 d3 s).freeCount = s.freeCount := rfl
@[simp] theorem complete_oldIssued (s : State) (tag : Half) (kind : Byte) (r : ResultCode) (d1 d2 d3 : Word) : (complete tag kind r d1 d2 d3 s).oldIssued = s.oldIssued := rfl
@[simp] theorem complete_mode (s : State) (tag : Half) (kind : Byte) (r : ResultCode) (d1 d2 d3 : Word) : (complete tag kind r d1 d2 d3 s).mode = s.mode := rfl
@[simp] theorem complete_hrst (s : State) (tag : Half) (kind : Byte) (r : ResultCode) (d1 d2 d3 : Word) : (complete tag kind r d1 d2 d3 s).hrst = s.hrst := rfl
@[simp] theorem complete_profileAddr (s : State) (tag : Half) (kind : Byte) (r : ResultCode) (d1 d2 d3 : Word) : (complete tag kind r d1 d2 d3 s).profileAddr = s.profileAddr := rfl
@[simp] theorem complete_startBytes (s : State) (tag : Half) (kind : Byte) (r : ResultCode) (d1 d2 d3 : Word) : (complete tag kind r d1 d2 d3 s).startBytes = s.startBytes := rfl
@[simp] theorem complete_startIssued (s : State) (tag : Half) (kind : Byte) (r : ResultCode) (d1 d2 d3 : Word) : (complete tag kind r d1 d2 d3 s).startIssued = s.startIssued := rfl
@[simp] theorem complete_profile (s : State) (tag : Half) (kind : Byte) (r : ResultCode) (d1 d2 d3 : Word) : (complete tag kind r d1 d2 d3 s).profile = s.profile := rfl
@[simp] theorem complete_faultCode (s : State) (tag : Half) (kind : Byte) (r : ResultCode) (d1 d2 d3 : Word) : (complete tag kind r d1 d2 d3 s).faultCode = s.faultCode := rfl
@[simp] theorem complete_faultOffset (s : State) (tag : Half) (kind : Byte) (r : ResultCode) (d1 d2 d3 : Word) : (complete tag kind r d1 d2 d3 s).faultOffset = s.faultOffset := rfl
@[simp] theorem complete_startWrites (s : State) (tag : Half) (kind : Byte) (r : ResultCode) (d1 d2 d3 : Word) : (complete tag kind r d1 d2 d3 s).startWrites = s.startWrites := rfl
@[simp] theorem complete_startUnderHrst (s : State) (tag : Half) (kind : Byte) (r : ResultCode) (d1 d2 d3 : Word) : (complete tag kind r d1 d2 d3 s).startUnderHrst = s.startUnderHrst := rfl
@[simp] theorem complete_path (s : State) (tag : Half) (kind : Byte) (r : ResultCode) (d1 d2 d3 : Word) : (complete tag kind r d1 d2 d3 s).path = s.path := rfl
@[simp] theorem complete_lines (s : State) (tag : Half) (kind : Byte) (r : ResultCode) (d1 d2 d3 : Word) : (complete tag kind r d1 d2 d3 s).lines = s.lines := rfl
@[simp] theorem complete_roster (s : State) (tag : Half) (kind : Byte) (r : ResultCode) (d1 d2 d3 : Word) : (complete tag kind r d1 d2 d3 s).roster = s.roster := rfl
@[simp] theorem complete_recipe (s : State) (tag : Half) (kind : Byte) (r : ResultCode) (d1 d2 d3 : Word) : (complete tag kind r d1 d2 d3 s).recipe = s.recipe := rfl
@[simp] theorem complete_cache (s : State) (tag : Half) (kind : Byte) (r : ResultCode) (d1 d2 d3 : Word) : (complete tag kind r d1 d2 d3 s).cache = s.cache := rfl
@[simp] theorem complete_hygiene (s : State) (tag : Half) (kind : Byte) (r : ResultCode) (d1 d2 d3 : Word) : (complete tag kind r d1 d2 d3 s).hygiene = s.hygiene := rfl
@[simp] theorem complete_service (s : State) (tag : Half) (kind : Byte) (r : ResultCode) (d1 d2 d3 : Word) : (complete tag kind r d1 d2 d3 s).service = s.service := rfl
@[simp] theorem complete_update (s : State) (tag : Half) (kind : Byte) (r : ResultCode) (d1 d2 d3 : Word) : (complete tag kind r d1 d2 d3 s).update = s.update := rfl
@[simp] theorem complete_report (s : State) (tag : Half) (kind : Byte) (r : ResultCode) (d1 d2 d3 : Word) : (complete tag kind r d1 d2 d3 s).report = s.report := rfl

/-! `startLong` touches `command` only. -/

@[simp] theorem startLong_pending (s : State) (kind : Byte) (tag : Half) (o : LongObj) : (startLong kind tag o s).pending = s.pending := rfl
@[simp] theorem startLong_now (s : State) (kind : Byte) (tag : Half) (o : LongObj) : (startLong kind tag o s).now = s.now := rfl
@[simp] theorem startLong_freeCount (s : State) (kind : Byte) (tag : Half) (o : LongObj) : (startLong kind tag o s).freeCount = s.freeCount := rfl
@[simp] theorem startLong_oldIssued (s : State) (kind : Byte) (tag : Half) (o : LongObj) : (startLong kind tag o s).oldIssued = s.oldIssued := rfl
@[simp] theorem startLong_mode (s : State) (kind : Byte) (tag : Half) (o : LongObj) : (startLong kind tag o s).mode = s.mode := rfl
@[simp] theorem startLong_hrst (s : State) (kind : Byte) (tag : Half) (o : LongObj) : (startLong kind tag o s).hrst = s.hrst := rfl
@[simp] theorem startLong_profileAddr (s : State) (kind : Byte) (tag : Half) (o : LongObj) : (startLong kind tag o s).profileAddr = s.profileAddr := rfl
@[simp] theorem startLong_startBytes (s : State) (kind : Byte) (tag : Half) (o : LongObj) : (startLong kind tag o s).startBytes = s.startBytes := rfl
@[simp] theorem startLong_startIssued (s : State) (kind : Byte) (tag : Half) (o : LongObj) : (startLong kind tag o s).startIssued = s.startIssued := rfl
@[simp] theorem startLong_profile (s : State) (kind : Byte) (tag : Half) (o : LongObj) : (startLong kind tag o s).profile = s.profile := rfl
@[simp] theorem startLong_faultCode (s : State) (kind : Byte) (tag : Half) (o : LongObj) : (startLong kind tag o s).faultCode = s.faultCode := rfl
@[simp] theorem startLong_faultOffset (s : State) (kind : Byte) (tag : Half) (o : LongObj) : (startLong kind tag o s).faultOffset = s.faultOffset := rfl
@[simp] theorem startLong_startWrites (s : State) (kind : Byte) (tag : Half) (o : LongObj) : (startLong kind tag o s).startWrites = s.startWrites := rfl
@[simp] theorem startLong_startUnderHrst (s : State) (kind : Byte) (tag : Half) (o : LongObj) : (startLong kind tag o s).startUnderHrst = s.startUnderHrst := rfl
@[simp] theorem startLong_path (s : State) (kind : Byte) (tag : Half) (o : LongObj) : (startLong kind tag o s).path = s.path := rfl
@[simp] theorem startLong_lines (s : State) (kind : Byte) (tag : Half) (o : LongObj) : (startLong kind tag o s).lines = s.lines := rfl
@[simp] theorem startLong_roster (s : State) (kind : Byte) (tag : Half) (o : LongObj) : (startLong kind tag o s).roster = s.roster := rfl
@[simp] theorem startLong_recipe (s : State) (kind : Byte) (tag : Half) (o : LongObj) : (startLong kind tag o s).recipe = s.recipe := rfl
@[simp] theorem startLong_cache (s : State) (kind : Byte) (tag : Half) (o : LongObj) : (startLong kind tag o s).cache = s.cache := rfl
@[simp] theorem startLong_hygiene (s : State) (kind : Byte) (tag : Half) (o : LongObj) : (startLong kind tag o s).hygiene = s.hygiene := rfl
@[simp] theorem startLong_service (s : State) (kind : Byte) (tag : Half) (o : LongObj) : (startLong kind tag o s).service = s.service := rfl
@[simp] theorem startLong_update (s : State) (kind : Byte) (tag : Half) (o : LongObj) : (startLong kind tag o s).update = s.update := rfl
@[simp] theorem startLong_report (s : State) (kind : Byte) (tag : Half) (o : LongObj) : (startLong kind tag o s).report = s.report := rfl

/-! `queueUrgent` touches `lines` only. -/

@[simp] theorem queueUrgent_pending (s : State) (l : LineNo) (q : Queued) : (queueUrgent l q s).pending = s.pending := rfl
@[simp] theorem queueUrgent_now (s : State) (l : LineNo) (q : Queued) : (queueUrgent l q s).now = s.now := rfl
@[simp] theorem queueUrgent_freeCount (s : State) (l : LineNo) (q : Queued) : (queueUrgent l q s).freeCount = s.freeCount := rfl
@[simp] theorem queueUrgent_oldIssued (s : State) (l : LineNo) (q : Queued) : (queueUrgent l q s).oldIssued = s.oldIssued := rfl
@[simp] theorem queueUrgent_mode (s : State) (l : LineNo) (q : Queued) : (queueUrgent l q s).mode = s.mode := rfl
@[simp] theorem queueUrgent_hrst (s : State) (l : LineNo) (q : Queued) : (queueUrgent l q s).hrst = s.hrst := rfl
@[simp] theorem queueUrgent_profileAddr (s : State) (l : LineNo) (q : Queued) : (queueUrgent l q s).profileAddr = s.profileAddr := rfl
@[simp] theorem queueUrgent_startBytes (s : State) (l : LineNo) (q : Queued) : (queueUrgent l q s).startBytes = s.startBytes := rfl
@[simp] theorem queueUrgent_startIssued (s : State) (l : LineNo) (q : Queued) : (queueUrgent l q s).startIssued = s.startIssued := rfl
@[simp] theorem queueUrgent_profile (s : State) (l : LineNo) (q : Queued) : (queueUrgent l q s).profile = s.profile := rfl
@[simp] theorem queueUrgent_faultCode (s : State) (l : LineNo) (q : Queued) : (queueUrgent l q s).faultCode = s.faultCode := rfl
@[simp] theorem queueUrgent_faultOffset (s : State) (l : LineNo) (q : Queued) : (queueUrgent l q s).faultOffset = s.faultOffset := rfl
@[simp] theorem queueUrgent_startWrites (s : State) (l : LineNo) (q : Queued) : (queueUrgent l q s).startWrites = s.startWrites := rfl
@[simp] theorem queueUrgent_startUnderHrst (s : State) (l : LineNo) (q : Queued) : (queueUrgent l q s).startUnderHrst = s.startUnderHrst := rfl
@[simp] theorem queueUrgent_path (s : State) (l : LineNo) (q : Queued) : (queueUrgent l q s).path = s.path := rfl
@[simp] theorem queueUrgent_roster (s : State) (l : LineNo) (q : Queued) : (queueUrgent l q s).roster = s.roster := rfl
@[simp] theorem queueUrgent_recipe (s : State) (l : LineNo) (q : Queued) : (queueUrgent l q s).recipe = s.recipe := rfl
@[simp] theorem queueUrgent_cache (s : State) (l : LineNo) (q : Queued) : (queueUrgent l q s).cache = s.cache := rfl
@[simp] theorem queueUrgent_hygiene (s : State) (l : LineNo) (q : Queued) : (queueUrgent l q s).hygiene = s.hygiene := rfl
@[simp] theorem queueUrgent_service (s : State) (l : LineNo) (q : Queued) : (queueUrgent l q s).service = s.service := rfl
@[simp] theorem queueUrgent_update (s : State) (l : LineNo) (q : Queued) : (queueUrgent l q s).update = s.update := rfl
@[simp] theorem queueUrgent_command (s : State) (l : LineNo) (q : Queued) : (queueUrgent l q s).command = s.command := rfl
@[simp] theorem queueUrgent_report (s : State) (l : LineNo) (q : Queued) : (queueUrgent l q s).report = s.report := rfl

/-! `sendTo` touches `lines` only. -/

@[simp] theorem sendTo_pending (s : State) (i : Slot) (o : Owner) (t : Telegram) : (sendTo i o t s).pending = s.pending := rfl
@[simp] theorem sendTo_now (s : State) (i : Slot) (o : Owner) (t : Telegram) : (sendTo i o t s).now = s.now := rfl
@[simp] theorem sendTo_freeCount (s : State) (i : Slot) (o : Owner) (t : Telegram) : (sendTo i o t s).freeCount = s.freeCount := rfl
@[simp] theorem sendTo_oldIssued (s : State) (i : Slot) (o : Owner) (t : Telegram) : (sendTo i o t s).oldIssued = s.oldIssued := rfl
@[simp] theorem sendTo_mode (s : State) (i : Slot) (o : Owner) (t : Telegram) : (sendTo i o t s).mode = s.mode := rfl
@[simp] theorem sendTo_hrst (s : State) (i : Slot) (o : Owner) (t : Telegram) : (sendTo i o t s).hrst = s.hrst := rfl
@[simp] theorem sendTo_profileAddr (s : State) (i : Slot) (o : Owner) (t : Telegram) : (sendTo i o t s).profileAddr = s.profileAddr := rfl
@[simp] theorem sendTo_startBytes (s : State) (i : Slot) (o : Owner) (t : Telegram) : (sendTo i o t s).startBytes = s.startBytes := rfl
@[simp] theorem sendTo_startIssued (s : State) (i : Slot) (o : Owner) (t : Telegram) : (sendTo i o t s).startIssued = s.startIssued := rfl
@[simp] theorem sendTo_profile (s : State) (i : Slot) (o : Owner) (t : Telegram) : (sendTo i o t s).profile = s.profile := rfl
@[simp] theorem sendTo_faultCode (s : State) (i : Slot) (o : Owner) (t : Telegram) : (sendTo i o t s).faultCode = s.faultCode := rfl
@[simp] theorem sendTo_faultOffset (s : State) (i : Slot) (o : Owner) (t : Telegram) : (sendTo i o t s).faultOffset = s.faultOffset := rfl
@[simp] theorem sendTo_startWrites (s : State) (i : Slot) (o : Owner) (t : Telegram) : (sendTo i o t s).startWrites = s.startWrites := rfl
@[simp] theorem sendTo_startUnderHrst (s : State) (i : Slot) (o : Owner) (t : Telegram) : (sendTo i o t s).startUnderHrst = s.startUnderHrst := rfl
@[simp] theorem sendTo_path (s : State) (i : Slot) (o : Owner) (t : Telegram) : (sendTo i o t s).path = s.path := rfl
@[simp] theorem sendTo_roster (s : State) (i : Slot) (o : Owner) (t : Telegram) : (sendTo i o t s).roster = s.roster := rfl
@[simp] theorem sendTo_recipe (s : State) (i : Slot) (o : Owner) (t : Telegram) : (sendTo i o t s).recipe = s.recipe := rfl
@[simp] theorem sendTo_cache (s : State) (i : Slot) (o : Owner) (t : Telegram) : (sendTo i o t s).cache = s.cache := rfl
@[simp] theorem sendTo_hygiene (s : State) (i : Slot) (o : Owner) (t : Telegram) : (sendTo i o t s).hygiene = s.hygiene := rfl
@[simp] theorem sendTo_service (s : State) (i : Slot) (o : Owner) (t : Telegram) : (sendTo i o t s).service = s.service := rfl
@[simp] theorem sendTo_update (s : State) (i : Slot) (o : Owner) (t : Telegram) : (sendTo i o t s).update = s.update := rfl
@[simp] theorem sendTo_command (s : State) (i : Slot) (o : Owner) (t : Telegram) : (sendTo i o t s).command = s.command := rfl
@[simp] theorem sendTo_report (s : State) (i : Slot) (o : Owner) (t : Telegram) : (sendTo i o t s).report = s.report := rfl

/-! `toIdle` touches `roster` only. -/

@[simp] theorem toIdle_pending (s : State) (i : Slot) : (toIdle i s).pending = s.pending := rfl
@[simp] theorem toIdle_now (s : State) (i : Slot) : (toIdle i s).now = s.now := rfl
@[simp] theorem toIdle_freeCount (s : State) (i : Slot) : (toIdle i s).freeCount = s.freeCount := rfl
@[simp] theorem toIdle_oldIssued (s : State) (i : Slot) : (toIdle i s).oldIssued = s.oldIssued := rfl
@[simp] theorem toIdle_mode (s : State) (i : Slot) : (toIdle i s).mode = s.mode := rfl
@[simp] theorem toIdle_hrst (s : State) (i : Slot) : (toIdle i s).hrst = s.hrst := rfl
@[simp] theorem toIdle_profileAddr (s : State) (i : Slot) : (toIdle i s).profileAddr = s.profileAddr := rfl
@[simp] theorem toIdle_startBytes (s : State) (i : Slot) : (toIdle i s).startBytes = s.startBytes := rfl
@[simp] theorem toIdle_startIssued (s : State) (i : Slot) : (toIdle i s).startIssued = s.startIssued := rfl
@[simp] theorem toIdle_profile (s : State) (i : Slot) : (toIdle i s).profile = s.profile := rfl
@[simp] theorem toIdle_faultCode (s : State) (i : Slot) : (toIdle i s).faultCode = s.faultCode := rfl
@[simp] theorem toIdle_faultOffset (s : State) (i : Slot) : (toIdle i s).faultOffset = s.faultOffset := rfl
@[simp] theorem toIdle_startWrites (s : State) (i : Slot) : (toIdle i s).startWrites = s.startWrites := rfl
@[simp] theorem toIdle_startUnderHrst (s : State) (i : Slot) : (toIdle i s).startUnderHrst = s.startUnderHrst := rfl
@[simp] theorem toIdle_path (s : State) (i : Slot) : (toIdle i s).path = s.path := rfl
@[simp] theorem toIdle_lines (s : State) (i : Slot) : (toIdle i s).lines = s.lines := rfl
@[simp] theorem toIdle_recipe (s : State) (i : Slot) : (toIdle i s).recipe = s.recipe := rfl
@[simp] theorem toIdle_cache (s : State) (i : Slot) : (toIdle i s).cache = s.cache := rfl
@[simp] theorem toIdle_hygiene (s : State) (i : Slot) : (toIdle i s).hygiene = s.hygiene := rfl
@[simp] theorem toIdle_service (s : State) (i : Slot) : (toIdle i s).service = s.service := rfl
@[simp] theorem toIdle_update (s : State) (i : Slot) : (toIdle i s).update = s.update := rfl
@[simp] theorem toIdle_command (s : State) (i : Slot) : (toIdle i s).command = s.command := rfl
@[simp] theorem toIdle_report (s : State) (i : Slot) : (toIdle i s).report = s.report := rfl

/-! `disregardIssued` touches `path` only. -/

@[simp] theorem disregardIssued_pending (s : State) (p : IssueOwner → Bool) : (disregardIssued p s).pending = s.pending := rfl
@[simp] theorem disregardIssued_now (s : State) (p : IssueOwner → Bool) : (disregardIssued p s).now = s.now := rfl
@[simp] theorem disregardIssued_freeCount (s : State) (p : IssueOwner → Bool) : (disregardIssued p s).freeCount = s.freeCount := rfl
@[simp] theorem disregardIssued_oldIssued (s : State) (p : IssueOwner → Bool) : (disregardIssued p s).oldIssued = s.oldIssued := rfl
@[simp] theorem disregardIssued_mode (s : State) (p : IssueOwner → Bool) : (disregardIssued p s).mode = s.mode := rfl
@[simp] theorem disregardIssued_hrst (s : State) (p : IssueOwner → Bool) : (disregardIssued p s).hrst = s.hrst := rfl
@[simp] theorem disregardIssued_profileAddr (s : State) (p : IssueOwner → Bool) : (disregardIssued p s).profileAddr = s.profileAddr := rfl
@[simp] theorem disregardIssued_startBytes (s : State) (p : IssueOwner → Bool) : (disregardIssued p s).startBytes = s.startBytes := rfl
@[simp] theorem disregardIssued_startIssued (s : State) (p : IssueOwner → Bool) : (disregardIssued p s).startIssued = s.startIssued := rfl
@[simp] theorem disregardIssued_profile (s : State) (p : IssueOwner → Bool) : (disregardIssued p s).profile = s.profile := rfl
@[simp] theorem disregardIssued_faultCode (s : State) (p : IssueOwner → Bool) : (disregardIssued p s).faultCode = s.faultCode := rfl
@[simp] theorem disregardIssued_faultOffset (s : State) (p : IssueOwner → Bool) : (disregardIssued p s).faultOffset = s.faultOffset := rfl
@[simp] theorem disregardIssued_startWrites (s : State) (p : IssueOwner → Bool) : (disregardIssued p s).startWrites = s.startWrites := rfl
@[simp] theorem disregardIssued_startUnderHrst (s : State) (p : IssueOwner → Bool) : (disregardIssued p s).startUnderHrst = s.startUnderHrst := rfl
@[simp] theorem disregardIssued_lines (s : State) (p : IssueOwner → Bool) : (disregardIssued p s).lines = s.lines := rfl
@[simp] theorem disregardIssued_roster (s : State) (p : IssueOwner → Bool) : (disregardIssued p s).roster = s.roster := rfl
@[simp] theorem disregardIssued_recipe (s : State) (p : IssueOwner → Bool) : (disregardIssued p s).recipe = s.recipe := rfl
@[simp] theorem disregardIssued_cache (s : State) (p : IssueOwner → Bool) : (disregardIssued p s).cache = s.cache := rfl
@[simp] theorem disregardIssued_hygiene (s : State) (p : IssueOwner → Bool) : (disregardIssued p s).hygiene = s.hygiene := rfl
@[simp] theorem disregardIssued_service (s : State) (p : IssueOwner → Bool) : (disregardIssued p s).service = s.service := rfl
@[simp] theorem disregardIssued_update (s : State) (p : IssueOwner → Bool) : (disregardIssued p s).update = s.update := rfl
@[simp] theorem disregardIssued_command (s : State) (p : IssueOwner → Bool) : (disregardIssued p s).command = s.command := rfl
@[simp] theorem disregardIssued_report (s : State) (p : IssueOwner → Bool) : (disregardIssued p s).report = s.report := rfl

/-! `issueRequest` touches `path` only. -/

@[simp] theorem issueRequest_pending (s : State) (o : IssueOwner) (r : MemRequest) : (issueRequest o r s).pending = s.pending := rfl
@[simp] theorem issueRequest_now (s : State) (o : IssueOwner) (r : MemRequest) : (issueRequest o r s).now = s.now := rfl
@[simp] theorem issueRequest_freeCount (s : State) (o : IssueOwner) (r : MemRequest) : (issueRequest o r s).freeCount = s.freeCount := rfl
@[simp] theorem issueRequest_oldIssued (s : State) (o : IssueOwner) (r : MemRequest) : (issueRequest o r s).oldIssued = s.oldIssued := rfl
@[simp] theorem issueRequest_mode (s : State) (o : IssueOwner) (r : MemRequest) : (issueRequest o r s).mode = s.mode := rfl
@[simp] theorem issueRequest_hrst (s : State) (o : IssueOwner) (r : MemRequest) : (issueRequest o r s).hrst = s.hrst := rfl
@[simp] theorem issueRequest_profileAddr (s : State) (o : IssueOwner) (r : MemRequest) : (issueRequest o r s).profileAddr = s.profileAddr := rfl
@[simp] theorem issueRequest_startBytes (s : State) (o : IssueOwner) (r : MemRequest) : (issueRequest o r s).startBytes = s.startBytes := rfl
@[simp] theorem issueRequest_startIssued (s : State) (o : IssueOwner) (r : MemRequest) : (issueRequest o r s).startIssued = s.startIssued := rfl
@[simp] theorem issueRequest_profile (s : State) (o : IssueOwner) (r : MemRequest) : (issueRequest o r s).profile = s.profile := rfl
@[simp] theorem issueRequest_faultCode (s : State) (o : IssueOwner) (r : MemRequest) : (issueRequest o r s).faultCode = s.faultCode := rfl
@[simp] theorem issueRequest_faultOffset (s : State) (o : IssueOwner) (r : MemRequest) : (issueRequest o r s).faultOffset = s.faultOffset := rfl
@[simp] theorem issueRequest_startWrites (s : State) (o : IssueOwner) (r : MemRequest) : (issueRequest o r s).startWrites = s.startWrites := rfl
@[simp] theorem issueRequest_startUnderHrst (s : State) (o : IssueOwner) (r : MemRequest) : (issueRequest o r s).startUnderHrst = s.startUnderHrst := rfl
@[simp] theorem issueRequest_lines (s : State) (o : IssueOwner) (r : MemRequest) : (issueRequest o r s).lines = s.lines := rfl
@[simp] theorem issueRequest_roster (s : State) (o : IssueOwner) (r : MemRequest) : (issueRequest o r s).roster = s.roster := rfl
@[simp] theorem issueRequest_recipe (s : State) (o : IssueOwner) (r : MemRequest) : (issueRequest o r s).recipe = s.recipe := rfl
@[simp] theorem issueRequest_cache (s : State) (o : IssueOwner) (r : MemRequest) : (issueRequest o r s).cache = s.cache := rfl
@[simp] theorem issueRequest_hygiene (s : State) (o : IssueOwner) (r : MemRequest) : (issueRequest o r s).hygiene = s.hygiene := rfl
@[simp] theorem issueRequest_service (s : State) (o : IssueOwner) (r : MemRequest) : (issueRequest o r s).service = s.service := rfl
@[simp] theorem issueRequest_update (s : State) (o : IssueOwner) (r : MemRequest) : (issueRequest o r s).update = s.update := rfl
@[simp] theorem issueRequest_command (s : State) (o : IssueOwner) (r : MemRequest) : (issueRequest o r s).command = s.command := rfl
@[simp] theorem issueRequest_report (s : State) (o : IssueOwner) (r : MemRequest) : (issueRequest o r s).report = s.report := rfl

/-! `postWrite` touches `path` only. -/

@[simp] theorem postWrite_pending (s : State) (w : PostedWrite) : (postWrite w s).pending = s.pending := rfl
@[simp] theorem postWrite_now (s : State) (w : PostedWrite) : (postWrite w s).now = s.now := rfl
@[simp] theorem postWrite_freeCount (s : State) (w : PostedWrite) : (postWrite w s).freeCount = s.freeCount := rfl
@[simp] theorem postWrite_oldIssued (s : State) (w : PostedWrite) : (postWrite w s).oldIssued = s.oldIssued := rfl
@[simp] theorem postWrite_mode (s : State) (w : PostedWrite) : (postWrite w s).mode = s.mode := rfl
@[simp] theorem postWrite_hrst (s : State) (w : PostedWrite) : (postWrite w s).hrst = s.hrst := rfl
@[simp] theorem postWrite_profileAddr (s : State) (w : PostedWrite) : (postWrite w s).profileAddr = s.profileAddr := rfl
@[simp] theorem postWrite_startBytes (s : State) (w : PostedWrite) : (postWrite w s).startBytes = s.startBytes := rfl
@[simp] theorem postWrite_startIssued (s : State) (w : PostedWrite) : (postWrite w s).startIssued = s.startIssued := rfl
@[simp] theorem postWrite_profile (s : State) (w : PostedWrite) : (postWrite w s).profile = s.profile := rfl
@[simp] theorem postWrite_faultCode (s : State) (w : PostedWrite) : (postWrite w s).faultCode = s.faultCode := rfl
@[simp] theorem postWrite_faultOffset (s : State) (w : PostedWrite) : (postWrite w s).faultOffset = s.faultOffset := rfl
@[simp] theorem postWrite_startWrites (s : State) (w : PostedWrite) : (postWrite w s).startWrites = s.startWrites := rfl
@[simp] theorem postWrite_startUnderHrst (s : State) (w : PostedWrite) : (postWrite w s).startUnderHrst = s.startUnderHrst := rfl
@[simp] theorem postWrite_lines (s : State) (w : PostedWrite) : (postWrite w s).lines = s.lines := rfl
@[simp] theorem postWrite_roster (s : State) (w : PostedWrite) : (postWrite w s).roster = s.roster := rfl
@[simp] theorem postWrite_recipe (s : State) (w : PostedWrite) : (postWrite w s).recipe = s.recipe := rfl
@[simp] theorem postWrite_cache (s : State) (w : PostedWrite) : (postWrite w s).cache = s.cache := rfl
@[simp] theorem postWrite_hygiene (s : State) (w : PostedWrite) : (postWrite w s).hygiene = s.hygiene := rfl
@[simp] theorem postWrite_service (s : State) (w : PostedWrite) : (postWrite w s).service = s.service := rfl
@[simp] theorem postWrite_update (s : State) (w : PostedWrite) : (postWrite w s).update = s.update := rfl
@[simp] theorem postWrite_command (s : State) (w : PostedWrite) : (postWrite w s).command = s.command := rfl
@[simp] theorem postWrite_report (s : State) (w : PostedWrite) : (postWrite w s).report = s.report := rfl

/-! Reading back. -/

@[simp] theorem State.ent_setEnt_self (s : State) (i : Slot) (e : Entry) : (s.setEnt i e).ent i = e := by
  simp [State.ent, State.setEnt]

theorem State.ent_setEnt (s : State) (i k : Slot) (e : Entry) : (s.setEnt i e).ent k = if k = i then e else s.ent k := by
  by_cases h : k = i
  · subst h; simp
  · have : (i : Nat) ≠ (k : Nat) := fun h' => h (Fin.ext h'.symm)
    simp [State.ent, State.setEnt, h, Vector.getElem_set_ne _ _ this]

theorem State.setEnt_setEnt (s : State) (i : Slot) (a b : Entry) : (s.setEnt i a).setEnt i b = s.setEnt i b := by
  simp [State.setEnt, Vector.set_set]

@[simp] theorem State.ent_modEnt_self (s : State) (i : Slot) (f : Entry → Entry) : (s.modEnt i f).ent i = f (s.ent i) := by
  simp [State.modEnt]

theorem State.ent_modEnt (s : State) (i k : Slot) (f : Entry → Entry) :
    (s.modEnt i f).ent k = if k = i then f (s.ent i) else s.ent k := by
  simp [State.modEnt, State.ent_setEnt]

theorem State.ent_modEnt_ne (s : State) (i k : Slot) (f : Entry → Entry) (h : k ≠ i) : (s.modEnt i f).ent k = s.ent k := by
  simp [State.ent_modEnt, h]

@[simp] theorem State.ln_setLn_self (s : State) (l : LineNo) (x : Line) : (s.setLn l x).ln l = x := by
  simp [State.ln, State.setLn]

theorem State.ln_setLn (s : State) (l k : LineNo) (x : Line) : (s.setLn l x).ln k = if k = l then x else s.ln k := by
  by_cases h : k = l
  · subst h; simp
  · have : (l : Nat) ≠ (k : Nat) := fun h' => h (Fin.ext h'.symm)
    simp [State.ln, State.setLn, h, Vector.getElem_set_ne _ _ this]

@[simp] theorem State.ln_modLn_self (s : State) (l : LineNo) (f : Line → Line) : (s.modLn l f).ln l = f (s.ln l) := by
  simp [State.modLn]

theorem State.ln_modLn (s : State) (l k : LineNo) (f : Line → Line) :
    (s.modLn l f).ln k = if k = l then f (s.ln l) else s.ln k := by
  simp [State.modLn, State.ln_setLn]

theorem State.ln_modLn_ne (s : State) (l k : LineNo) (f : Line → Line) (h : k ≠ l) : (s.modLn l f).ln k = s.ln k := by
  simp [State.ln_modLn, h]

@[simp] theorem State.rslot_setRslot_self (s : State) (r : RecipeNo) (x : RecipeSlot) : (s.setRslot r x).rslot r = x := by
  simp [State.rslot, State.setRslot]

theorem State.rslot_setRslot (s : State) (r k : RecipeNo) (x : RecipeSlot) :
    (s.setRslot r x).rslot k = if k = r then x else s.rslot k := by
  by_cases h : k = r
  · subst h; simp
  · have : (r : Nat) ≠ (k : Nat) := fun h' => h (Fin.ext h'.symm)
    simp [State.rslot, State.setRslot, h, Vector.getElem_set_ne _ _ this]

theorem State.rslot_modRslot (s : State) (r k : RecipeNo) (f : RecipeSlot → RecipeSlot) :
    (s.modRslot r f).rslot k = if k = r then f (s.rslot r) else s.rslot k := by
  simp [State.modRslot, State.rslot_setRslot]

/-! Entries, lines and recipe slots are read through the part that holds them. -/

theorem State.ent_congr {s t : State} (h : t.roster = s.roster) (i : Slot) : t.ent i = s.ent i := by
  simp [State.ent, h]

theorem State.ln_congr {s t : State} (h : t.lines = s.lines) (l : LineNo) : t.ln l = s.ln l := by
  simp [State.ln, h]

theorem State.rslot_congr {s t : State} (h : t.recipe = s.recipe) (r : RecipeNo) : t.rslot r = s.rslot r := by
  simp [State.rslot, h]

@[simp] theorem State.ln_setEnt (s : State) (i : Slot) (e : Entry) (k : LineNo) : (s.setEnt i e).ln k = s.ln k := rfl
@[simp] theorem State.rslot_setEnt (s : State) (i : Slot) (e : Entry) (k : RecipeNo) : (s.setEnt i e).rslot k = s.rslot k := rfl
@[simp] theorem State.ln_modEnt (s : State) (i : Slot) (f : Entry → Entry) (k : LineNo) : (s.modEnt i f).ln k = s.ln k := rfl
@[simp] theorem State.rslot_modEnt (s : State) (i : Slot) (f : Entry → Entry) (k : RecipeNo) : (s.modEnt i f).rslot k = s.rslot k := rfl
@[simp] theorem State.ent_setLn (s : State) (l : LineNo) (x : Line) (k : Slot) : (s.setLn l x).ent k = s.ent k := rfl
@[simp] theorem State.rslot_setLn (s : State) (l : LineNo) (x : Line) (k : RecipeNo) : (s.setLn l x).rslot k = s.rslot k := rfl
@[simp] theorem State.ent_modLn (s : State) (l : LineNo) (f : Line → Line) (k : Slot) : (s.modLn l f).ent k = s.ent k := rfl
@[simp] theorem State.rslot_modLn (s : State) (l : LineNo) (f : Line → Line) (k : RecipeNo) : (s.modLn l f).rslot k = s.rslot k := rfl
@[simp] theorem State.ent_setRslot (s : State) (r : RecipeNo) (x : RecipeSlot) (k : Slot) : (s.setRslot r x).ent k = s.ent k := rfl
@[simp] theorem State.ln_setRslot (s : State) (r : RecipeNo) (x : RecipeSlot) (k : LineNo) : (s.setRslot r x).ln k = s.ln k := rfl
@[simp] theorem State.ent_modRslot (s : State) (r : RecipeNo) (f : RecipeSlot → RecipeSlot) (k : Slot) : (s.modRslot r f).ent k = s.ent k := rfl
@[simp] theorem State.ln_modRslot (s : State) (r : RecipeNo) (f : RecipeSlot → RecipeSlot) (k : LineNo) : (s.modRslot r f).ln k = s.ln k := rfl
@[simp] theorem State.ln_modUpd (s : State) (i : Slot) (f : UpdRec → UpdRec) (k : LineNo) : (s.modUpd i f).ln k = s.ln k := rfl
@[simp] theorem State.rslot_modUpd (s : State) (i : Slot) (f : UpdRec → UpdRec) (k : RecipeNo) : (s.modUpd i f).rslot k = s.rslot k := rfl
@[simp] theorem State.ln_modDir (s : State) (i : Slot) (f : List DirEntry → List DirEntry) (k : LineNo) : (s.modDir i f).ln k = s.ln k := rfl
@[simp] theorem State.rslot_modDir (s : State) (i : Slot) (f : List DirEntry → List DirEntry) (k : RecipeNo) : (s.modDir i f).rslot k = s.rslot k := rfl
@[simp] theorem State.ent_modImage (s : State) (f : ImageRec → ImageRec) (k : Slot) : (s.modImage f).ent k = s.ent k := rfl
@[simp] theorem State.ln_modImage (s : State) (f : ImageRec → ImageRec) (k : LineNo) : (s.modImage f).ln k = s.ln k := rfl
@[simp] theorem State.rslot_modImage (s : State) (f : ImageRec → ImageRec) (k : RecipeNo) : (s.modImage f).rslot k = s.rslot k := rfl
@[simp] theorem State.ent_modRollout (s : State) (f : RolloutRec → RolloutRec) (k : Slot) : (s.modRollout f).ent k = s.ent k := rfl
@[simp] theorem State.ln_modRollout (s : State) (f : RolloutRec → RolloutRec) (k : LineNo) : (s.modRollout f).ln k = s.ln k := rfl
@[simp] theorem State.rslot_modRollout (s : State) (f : RolloutRec → RolloutRec) (k : RecipeNo) : (s.modRollout f).rslot k = s.rslot k := rfl
@[simp] theorem ent_complete (s : State) (tag : Half) (kind : Byte) (r : ResultCode) (d1 d2 d3 : Word) (k : Slot) : (complete tag kind r d1 d2 d3 s).ent k = s.ent k := rfl
@[simp] theorem ln_complete (s : State) (tag : Half) (kind : Byte) (r : ResultCode) (d1 d2 d3 : Word) (k : LineNo) : (complete tag kind r d1 d2 d3 s).ln k = s.ln k := rfl
@[simp] theorem rslot_complete (s : State) (tag : Half) (kind : Byte) (r : ResultCode) (d1 d2 d3 : Word) (k : RecipeNo) : (complete tag kind r d1 d2 d3 s).rslot k = s.rslot k := rfl
@[simp] theorem ent_startLong (s : State) (kind : Byte) (tag : Half) (o : LongObj) (k : Slot) : (startLong kind tag o s).ent k = s.ent k := rfl
@[simp] theorem ln_startLong (s : State) (kind : Byte) (tag : Half) (o : LongObj) (k : LineNo) : (startLong kind tag o s).ln k = s.ln k := rfl
@[simp] theorem rslot_startLong (s : State) (kind : Byte) (tag : Half) (o : LongObj) (k : RecipeNo) : (startLong kind tag o s).rslot k = s.rslot k := rfl
@[simp] theorem ent_queueUrgent (s : State) (l : LineNo) (q : Queued) (k : Slot) : (queueUrgent l q s).ent k = s.ent k := rfl
@[simp] theorem rslot_queueUrgent (s : State) (l : LineNo) (q : Queued) (k : RecipeNo) : (queueUrgent l q s).rslot k = s.rslot k := rfl
@[simp] theorem ent_sendTo (s : State) (i : Slot) (o : Owner) (t : Telegram) (k : Slot) : (sendTo i o t s).ent k = s.ent k := rfl
@[simp] theorem rslot_sendTo (s : State) (i : Slot) (o : Owner) (t : Telegram) (k : RecipeNo) : (sendTo i o t s).rslot k = s.rslot k := rfl
@[simp] theorem ln_toIdle (s : State) (i : Slot) (k : LineNo) : (toIdle i s).ln k = s.ln k := rfl
@[simp] theorem rslot_toIdle (s : State) (i : Slot) (k : RecipeNo) : (toIdle i s).rslot k = s.rslot k := rfl
@[simp] theorem ent_disregardIssued (s : State) (p : IssueOwner → Bool) (k : Slot) : (disregardIssued p s).ent k = s.ent k := rfl
@[simp] theorem ln_disregardIssued (s : State) (p : IssueOwner → Bool) (k : LineNo) : (disregardIssued p s).ln k = s.ln k := rfl
@[simp] theorem rslot_disregardIssued (s : State) (p : IssueOwner → Bool) (k : RecipeNo) : (disregardIssued p s).rslot k = s.rslot k := rfl
@[simp] theorem ent_issueRequest (s : State) (o : IssueOwner) (r : MemRequest) (k : Slot) : (issueRequest o r s).ent k = s.ent k := rfl
@[simp] theorem ln_issueRequest (s : State) (o : IssueOwner) (r : MemRequest) (k : LineNo) : (issueRequest o r s).ln k = s.ln k := rfl
@[simp] theorem rslot_issueRequest (s : State) (o : IssueOwner) (r : MemRequest) (k : RecipeNo) : (issueRequest o r s).rslot k = s.rslot k := rfl
@[simp] theorem ent_postWrite (s : State) (w : PostedWrite) (k : Slot) : (postWrite w s).ent k = s.ent k := rfl
@[simp] theorem ln_postWrite (s : State) (w : PostedWrite) (k : LineNo) : (postWrite w s).ln k = s.ln k := rfl
@[simp] theorem rslot_postWrite (s : State) (w : PostedWrite) (k : RecipeNo) : (postWrite w s).rslot k = s.rslot k := rfl

end Sys2Proof.Machine
end

