-- ==== Sys2Proof/Laws/Work.lean ====
section
/-! SUPPORT. What the owners' work can do: one relation that every operation of the roster, of the cache, recipe, hygiene, service
and update units and of the lines keeps, with one lemma for each operation. It says that such work leaves the path unit, the
modes, the ring positions and the queue of commands alone, keeps the tables within their sizes and free of doubles, begins no
long command, and never adds to the ovens that clean or are offered a cleaning. -/

set_option linter.unusedTactic false
set_option linter.unreachableTactic false
set_option linter.unnecessarySeqFocus false

namespace Sys2Proof.Machine

/-- The part of the state that no owner's work touches. -/
structure Outer where
  pending     : List Instr
  now         : Nat
  mode        : Mode
  hrst        : Bool
  profileAddr : Word
  startBytes  : List Byte
  startIssued : Nat
  profile     : Profile
  faultCode   : Byte
  faultOffset : Half
  startWrites : Bool
  startUnderHrst : Bool
  oldIssued   : List Issued
  portOpen    : Bool
  inflight    : List InFlight
  issued      : List (IssueOwner × MemRequest)
  posted      : List PostedWrite
  arbMode     : ArbMode
  bulkNext    : Fin 7
  capFetch    : Capture
  capReport   : Capture
  capRecipe   : Capture
  capImage    : Capture
  capGuard    : Capture
  responses   : List Response
  c           : Half
  p           : Half
  owed        : Nat
  stopped     : Bool
  fetch       : FetchState
  positions   : Half × Half × Half × Half × Half × Half
  ovenCounts  : Vector Word 16
  siteCount   : Word
  signalled   : BitVec 11
  clock       : Word
  clockTimer  : Timer
  minute      : Timer

def State.outer (s : State) : Outer :=
  { pending := s.pending, now := s.now, mode := s.mode, hrst := s.hrst, profileAddr := s.profileAddr,
    startBytes := s.startBytes, startIssued := s.startIssued, profile := s.profile, faultCode := s.faultCode,
    faultOffset := s.faultOffset, startWrites := s.startWrites, startUnderHrst := s.startUnderHrst, oldIssued := s.oldIssued,
    portOpen := s.path.portOpen, inflight := s.path.inflight,
    issued := s.path.issued.map (fun x => (x.owner, x.req)), posted := s.path.posted, arbMode := s.path.arbMode,
    bulkNext := s.path.bulkNext, capFetch := s.path.capFetch, capReport := s.path.capReport, capRecipe := s.path.capRecipe,
    capImage := s.path.capImage, capGuard := s.path.capGuard, responses := s.path.responses, c := s.command.c,
    p := s.command.p, owed := s.command.owed, stopped := s.command.stopped, fetch := s.command.fetch,
    positions := (s.report.complProd, s.report.complCons, s.report.svcProd, s.report.svcCons, s.report.jrnProd,
      s.report.jrnCons),
    ovenCounts := s.report.ovenCounts, siteCount := s.report.siteCount, signalled := s.report.signalled,
    clock := s.report.clock, clockTimer := s.report.clockTimer, minute := s.hygiene.minute }

/-- How much of the cleaning capacity an entry takes (R123). -/
def Entry.load (e : Entry) : Nat := (if e.activity = .cleaning then 1 else 0) + (if e.offerOut then 1 else 0)

/-- A directory that holds no recipe slot twice (R87). -/
def DirDistinct (d : List DirEntry) : Prop := d.Pairwise (fun a b => a.recipe ≠ b.recipe)

/-- An entry changed without more load, its directory still without doubles. -/
structure Entry.Calms (e d : Entry) : Prop where
  load : d.load ≤ e.load
  dir  : DirDistinct e.dir → DirDistinct d.dir

theorem Entry.Calms.same {e d : Entry} (a : d.activity = e.activity) (o : d.offerOut = e.offerOut) (r : d.dir = e.dir) :
    Entry.Calms e d := ⟨by simp [Entry.load, a, o], by rw [r]; exact id⟩

/-- A line's urgent FIFO is within its size, and offers wait only while it is full (R40). -/
structure Line.Fits (x : Line) : Prop where
  size : x.urgent.length ≤ 16
  turn : x.urgent.length < 16 → x.waiting = []

/-- Two lines with the same telegrams. -/
theorem Line.Fits.same {x y : Line} (h : x.Fits) (u : y.urgent = x.urgent) (w : y.waiting = x.waiting) : y.Fits :=
  ⟨by rw [u]; exact h.size, by rw [u, w]; exact h.turn⟩

/-- A fill abandoned in READING, which waits for an answer (R78). -/
def Line.Orphaned (x : Line) : Prop := ∃ f : Fill, x.fill = some f ∧ f.abandoned = true ∧ f.streaming = false

/-- One of the line's reads has been issued, and its answer is still wanted. -/
def State.ReadAwaited (s : State) (l : LineNo) : Prop := ∃ q ∈ s.path.issued, q.owner = .fill l ∧ q.disregard = false

/-- R78, R102: an abandoned fill of this line waits for the answer to one of its reads. -/
def State.FillAwaited (s : State) (l : LineNo) : Prop := (s.ln l).Orphaned → s.ReadAwaited l

theorem State.fillsAwaitReads_iff (s : State) :
    s.FillsAwaitReads ↔ (∀ l : LineNo, s.FillAwaited l) ∧ (s.mode ≠ .running → ∀ l : LineNo, (s.ln l).fill = none) := by
  constructor
  · intro h
    exact ⟨fun l ⟨f, a, b, c⟩ => h.1 l f a b c, h.2⟩
  · intro h
    exact ⟨fun l f a b c => h.1 l ⟨f, a, b, c⟩, h.2⟩

/-- A line changed with its queues still fitting and no fill newly abandoned. -/
structure Line.Calms (x y : Line) : Prop where
  fits   : x.Fits → y.Fits
  orphan : y.Orphaned → x.Orphaned

theorem Line.Calms.same {x y : Line} (u : y.urgent = x.urgent) (w : y.waiting = x.waiting) (f : y.fill = x.fill) :
    Line.Calms x y := ⟨fun h => h.same u w, by unfold Line.Orphaned; rw [f]; exact id⟩

/-- R178, R179: what one operation can do to the rewrite list and to the event sets: the site record joins the list, and where a set
changes the summary word is due. -/
structure Owes (s t : State) : Prop where
  list   : t.report.rewriteList = s.report.rewriteList ∨ t.report.rewriteList = withSite s.report.rewriteList
  raises : (t.report.pendingSet = s.report.pendingSet ∧ t.report.overrunSet = s.report.overrunSet ∧
    t.report.summaryRaised = s.report.summaryRaised) ∨ (s.hears = true ∧ t.report.summaryRaised = true)
  hears  : t.hears = s.hears

theorem Owes.same {s t : State} (l : t.report.rewriteList = s.report.rewriteList)
    (p : t.report.pendingSet = s.report.pendingSet) (o : t.report.overrunSet = s.report.overrunSet)
    (r : t.report.summaryRaised = s.report.summaryRaised) (h : t.hears = s.hears) : Owes s t := ⟨.inl l, .inl ⟨p, o, r⟩, h⟩

theorem withSite_withSite (l : List RewriteItem) : withSite (withSite l) = withSite l := by
  unfold withSite
  split
  · next h => rfl
  · simp

theorem Owes.trans {s t u : State} (h : Owes s t) (k : Owes t u) : Owes s u := by
  refine ⟨?_, ?_, k.hears.trans h.hears⟩
  · rcases h.list with e | e <;> rcases k.list with e' | e' <;> rw [e', e]
    · exact .inl rfl
    · exact .inr rfl
    · exact .inr rfl
    · exact .inr (withSite_withSite _)
  · rcases k.raises with e | ⟨e, r⟩
    · rcases h.raises with d | ⟨d, r⟩
      · exact .inl ⟨e.1.trans d.1, e.2.1.trans d.2.1, e.2.2.trans d.2.2⟩
      · exact .inr ⟨d, e.2.2.trans r⟩
    · exact .inr ⟨h.hears.symm.trans e, r⟩

structure Work (s t : State) : Prop where
  outer   : t.outer = s.outer
  calls   : s.service.calls.length ≤ 32 → t.service.calls.length ≤ 32
  keys    : s.CallKeysDistinct → t.CallKeysDistinct
  journal : s.report.journal.length ≤ 8 → t.report.journal.length ≤ 8
  urgent  : (∀ l : LineNo, (s.ln l).Fits) → ∀ l : LineNo, (t.ln l).Fits
  dirs    : s.DirsDistinct → t.DirsDistinct
  queue   : s.QueuedOnce → t.QueuedOnce
  longs   : t.command.longs.Sublist s.command.longs
  load    : ∀ i : Slot, (t.ent i).load ≤ (s.ent i).load
  fills   : ∀ l : LineNo, s.FillAwaited l → t.FillAwaited l
  owes    : Owes s t

theorem Work.refl (s : State) : Work s s :=
  ⟨rfl, id, id, id, id, id, id, List.Sublist.refl _, fun _ => Nat.le_refl _, fun _ => id, .same rfl rfl rfl rfl rfl⟩

theorem Work.trans {s t u : State} (h : Work s t) (k : Work t u) : Work s u :=
  ⟨k.outer.trans h.outer, k.calls ∘ h.calls, k.keys ∘ h.keys, k.journal ∘ h.journal, k.urgent ∘ h.urgent, k.dirs ∘ h.dirs,
    k.queue ∘ h.queue, k.longs.trans h.longs, fun i => (k.load i).trans (h.load i), fun l => k.fills l ∘ h.fills l,
    h.owes.trans k.owes⟩

/-- Work done in a fold of operations that each only work. -/
theorem Work.foldl {α : Type} (f : State → α → State) (hf : ∀ s a, Work s (f s a)) (l : List α) :
    ∀ s, Work s (l.foldl f s) := by
  induction l with
  | nil => exact fun s => Work.refl s
  | cons a t ih => exact fun s => (hf s a).trans (ih (f s a))

theorem sublist_of_eq {α : Type} {a b : List α} (h : a = b) : a.Sublist b := h ▸ List.Sublist.refl _

/-! ## The elementary updates -/

theorem Work.ofParts {s t : State} (outer : t.outer = s.outer) (service : t.service = s.service)
    (journal : t.report.journal = s.report.journal) (lines : t.lines = s.lines) (queue : t.hygiene.queue = s.hygiene.queue)
    (longs : t.command.longs = s.command.longs) (roster : t.roster = s.roster) (issued : t.path.issued = s.path.issued)
    (owes : Owes s t) : Work s t := by
  refine ⟨outer, ?_, ?_, ?_, ?_, ?_, ?_, ?_, ?_, fun l h => ?_, owes⟩
  · simp [service]
  · simp [State.CallKeysDistinct, service]
  · simp [journal]
  · simp [State.ln, lines]
  · simp [State.DirsDistinct, State.ent, roster]
  · simp [State.QueuedOnce, queue]
  · simp [longs]
  · simp [State.ent, roster]
  · simpa [State.FillAwaited, State.ReadAwaited, State.ln, lines, issued] using h

theorem Work.self {s : State} : Work s s := Work.refl s

theorem State.DirsDistinct.setEnt {s : State} (h : s.DirsDistinct) (i : Slot) (e : Entry)
    (he : DirDistinct (s.ent i).dir → DirDistinct e.dir) : (s.setEnt i e).DirsDistinct := by
  intro k
  rw [State.ent_setEnt]
  split
  · exact he (h i)
  · exact h k

theorem Work.setEnt {s0 s : State} (h : Work s0 s) (i : Slot) (e : Entry) (he : (s.ent i).Calms e) :
    Work s0 (s.setEnt i e) := by
  refine h.trans ⟨rfl, id, id, id, id, fun hd => hd.setEnt i e he.dir, id, List.Sublist.refl _, fun k => ?_, fun _ => id, .same rfl rfl rfl rfl rfl⟩
  · rw [State.ent_setEnt]
    split
    · next hk => rw [hk]; exact he.load
    · exact Nat.le_refl _

theorem Work.modEnt {s0 s : State} (h : Work s0 s) (i : Slot) (f : Entry → Entry)
    (hf : ∀ e : Entry, e.Calms (f e)) : Work s0 (s.modEnt i f) := h.setEnt i _ (hf _)

theorem Work.modLn {s0 s : State} (h : Work s0 s) (l : LineNo) (f : Line → Line)
    (hf : ∀ x : Line, x.Calms (f x)) : Work s0 (s.modLn l f) := by
  refine h.trans ⟨rfl, id, id, id, fun hu k => ?_, id, id, List.Sublist.refl _, fun _ => Nat.le_refl _, fun k ha => ?_,
    .same rfl rfl rfl rfl rfl⟩
  · rw [State.ln_modLn]
    split
    · next hk => rw [← hk]; exact (hf _).fits (hu _)
    · exact hu _
  · intro ho
    rw [State.ln_modLn] at ho
    split at ho
    · next hk => rw [← hk] at ho; exact ha ((hf _).orphan ho)
    · exact ha ho

/-- The same change made to every line. -/
theorem Work.mapLines {s0 s : State} (h : Work s0 s) (f : Line → Line)
    (hf : ∀ x : Line, x.Calms (f x)) : Work s0 { s with lines := s.lines.map f } := by
  have hl : ∀ k, (({ s with lines := s.lines.map f } : State).ln k) = f (s.ln k) := fun k => by simp [State.ln]
  refine h.trans ⟨rfl, id, id, id, fun hu k => ?_, id, id, List.Sublist.refl _, fun _ => Nat.le_refl _, fun k ha => ?_,
    .same rfl rfl rfl rfl rfl⟩
  · rw [hl]; exact (hf _).fits (hu _)
  · intro ho
    rw [hl] at ho
    exact ha ((hf _).orphan ho)

theorem Work.modRslot {s0 s : State} (h : Work s0 s) (r : RecipeNo) (f : RecipeSlot → RecipeSlot) :
    Work s0 (s.modRslot r f) := h.trans (Work.ofParts rfl rfl rfl rfl rfl rfl rfl rfl (.same rfl rfl rfl rfl rfl))

theorem Work.modImage {s0 s : State} (h : Work s0 s) (f : ImageRec → ImageRec) : Work s0 (s.modImage f) :=
  h.trans (Work.ofParts rfl rfl rfl rfl rfl rfl rfl rfl (.same rfl rfl rfl rfl rfl))

theorem Work.modRollout {s0 s : State} (h : Work s0 s) (f : RolloutRec → RolloutRec) : Work s0 (s.modRollout f) :=
  h.trans (Work.ofParts rfl rfl rfl rfl rfl rfl rfl rfl (.same rfl rfl rfl rfl rfl))

theorem Work.modUpd {s0 s : State} (h : Work s0 s) (i : Slot) (f : UpdRec → UpdRec) : Work s0 (s.modUpd i f) :=
  h.modEnt i _ (fun _ => .same rfl rfl rfl)

theorem Work.modDir {s0 s : State} (h : Work s0 s) (i : Slot) (f : List DirEntry → List DirEntry)
    (hf : ∀ d, DirDistinct d → DirDistinct (f d)) : Work s0 (s.modDir i f) :=
  h.modEnt i _ (fun _ => ⟨Nat.le_refl _, hf _⟩)

/-- Entries changed in other fields than the recipe slot. -/
theorem DirDistinct.map {d : List DirEntry} (h : DirDistinct d) (f : DirEntry → DirEntry) (hf : ∀ x, (f x).recipe = x.recipe) :
    DirDistinct (d.map f) := by
  refine List.pairwise_map.mpr (List.Pairwise.imp ?_ h)
  intro a b hab
  rw [hf, hf]; exact hab

theorem DirDistinct.filter {d : List DirEntry} (h : DirDistinct d) (p : DirEntry → Bool) : DirDistinct (d.filter p) :=
  List.Pairwise.filter p h

theorem DirDistinct.nil : DirDistinct [] := List.Pairwise.nil

theorem DirDistinct.mapDir {d : List DirEntry} (h : DirDistinct d) (r : RecipeNo) (f : DirEntry → DirEntry)
    (hf : ∀ x, (f x).recipe = x.recipe) : DirDistinct (mapDir r f d) :=
  h.map _ (fun x => by split <;> simp [hf])

/-- An entry put in front of those of other recipe slots. -/
theorem DirDistinct.cons {d : List DirEntry} (h : DirDistinct d) (x : DirEntry) (hx : ∀ y ∈ d, y.recipe ≠ x.recipe) :
    DirDistinct (x :: d) := List.Pairwise.cons (fun y hy e => hx y hy e.symm) h

theorem Work.recipe {s0 s : State} (h : Work s0 s) (r : RecipeUnit) : Work s0 { s with recipe := r } :=
  h.trans (Work.ofParts rfl rfl rfl rfl rfl rfl rfl rfl (.same rfl rfl rfl rfl rfl))

theorem Work.cache {s0 s : State} (h : Work s0 s) (r : CacheUnit) : Work s0 { s with cache := r } :=
  h.trans (Work.ofParts rfl rfl rfl rfl rfl rfl rfl rfl (.same rfl rfl rfl rfl rfl))

theorem Work.update {s0 s : State} (h : Work s0 s) (r : UpdateUnit) : Work s0 { s with update := r } :=
  h.trans (Work.ofParts rfl rfl rfl rfl rfl rfl rfl rfl (.same rfl rfl rfl rfl rfl))

theorem Work.queueUrgent {s0 s : State} (h : Work s0 s) (l : LineNo) (q : Queued) : Work s0 (queueUrgent l q s) := by
  refine h.modLn l _ (fun x => ⟨fun hx => ?_, by unfold Line.Orphaned; split <;> exact id⟩)
  split
  · next hl =>
      simp only [Config.urgentMax] at hl
      exact ⟨by simp; omega, fun _ => hx.turn hl⟩
  · next hl =>
      simp only [Config.urgentMax] at hl
      exact ⟨hx.size, fun h => absurd h hl⟩

theorem Work.removeTelegrams {s0 s : State} (h : Work s0 s) (p : Queued → Bool) : Work s0 (removeTelegrams p s) :=
  h.mapLines _ (fun x => ⟨fun _ => by
    refine ⟨List.length_take_le _ _, fun hl => ?_⟩
    simp only [Config.urgentMax, List.length_take] at hl ⊢
    exact List.drop_eq_nil_of_le (by omega), id⟩)

theorem Work.complete {s0 s : State} (h : Work s0 s) (tag : Half) (kind : Byte) (r : ResultCode) (d1 d2 d3 : Word) :
    Work s0 (complete tag kind r d1 d2 d3 s) := h.trans (Work.ofParts rfl rfl rfl rfl rfl rfl rfl rfl (.same rfl rfl rfl rfl rfl))

theorem Work.endLong {s0 s : State} (h : Work s0 s) (o : LongObj) (r : ResultCode) (d1 d2 d3 : Word) :
    Work s0 (endLong o r d1 d2 d3 s) := by
  refine h.trans ?_
  have hw : Work s { s with command := { s.command with longs := s.command.longs.filter (fun y => y.obj != o) } } :=
    ⟨rfl, id, id, id, id, id, id, List.filter_sublist, fun _ => Nat.le_refl _, fun _ => id, .same rfl rfl rfl rfl rfl⟩
  unfold Machine.endLong
  split
  · exact Work.refl s
  · dsimp only; split
    · exact hw
    · exact hw.complete ..

theorem Work.passJournal {s0 s : State} (h : Work s0 s) (b : JBody) : Work s0 (passJournal b s) := by
  refine h.trans ?_
  unfold Machine.passJournal
  split
  · next hl =>
      refine ⟨rfl, id, id, fun _ => ?_, id, id, id, List.Sublist.refl _, fun _ => Nat.le_refl _, fun _ => id, .same rfl rfl rfl rfl rfl⟩
      simp [Config.journalMax] at hl ⊢; omega
  · exact Work.ofParts rfl rfl rfl rfl rfl rfl rfl rfl (.same rfl rfl rfl rfl rfl)

/-- Reads that keep their owners, and stay wanted where they were. -/
theorem State.ReadAwaited.disregardIssued {s : State} {l : LineNo} (h : s.ReadAwaited l) (p : IssueOwner → Bool)
    (hp : p (.fill l) = false) : (Machine.disregardIssued p s).ReadAwaited l := by
  obtain ⟨q, hq, ho, hd⟩ := h
  exact ⟨q, List.mem_map.mpr ⟨q, hq, by simp [ho, hp]⟩, ho, hd⟩

theorem disregardIssued_outer (p : IssueOwner → Bool) (s : State) : (disregardIssued p s).outer = s.outer := by
  simp only [State.outer, Machine.disregardIssued, List.map_map]
  congr 1
  apply List.map_congr_left
  intro x _
  simp only [Function.comp]
  split <;> rfl

theorem Work.disregardIssued {s0 s : State} (h : Work s0 s) (p : IssueOwner → Bool) (hp : ∀ l, p (.fill l) = false) :
    Work s0 (disregardIssued p s) :=
  h.trans ⟨disregardIssued_outer p s, id, id, id, id, id, id, List.Sublist.refl _, fun _ => Nat.le_refl _,
    fun l ha ho => (ha ho).disregardIssued p (hp l), .same rfl rfl rfl rfl rfl⟩

theorem Work.raiseEvent {s0 s : State} (h : Work s0 s) (e : Event) : Work s0 (raiseEvent e s) := by
  refine h.trans ?_
  unfold Machine.raiseEvent
  split
  · next hh => split <;> exact Work.ofParts rfl rfl rfl rfl rfl rfl rfl rfl ⟨.inl rfl, .inr ⟨hh, rfl⟩, rfl⟩
  · exact Work.refl s

theorem Work.markServiceOverrun {s0 s : State} (h : Work s0 s) : Work s0 (markServiceOverrun s) := by
  refine h.trans ?_
  unfold Machine.markServiceOverrun
  split
  · next hh => exact Work.ofParts rfl rfl rfl rfl rfl rfl rfl rfl ⟨.inl rfl, .inr ⟨hh, rfl⟩, rfl⟩
  · exact Work.refl s

theorem Work.oweSite {s0 s : State} (h : Work s0 s) : Work s0 (oweSite s) :=
  h.trans (Work.ofParts rfl rfl rfl rfl rfl rfl rfl rfl ⟨.inr rfl, .inl ⟨rfl, rfl, rfl⟩, rfl⟩)

/-- A hygiene queue that has lost entries, or whose entries have changed in other fields than the oven. -/
theorem Work.queueOf {s0 s : State} (h : Work s0 s) (q : List CleanWait)
    (hq : (q.map (fun w => w.slot)).Sublist (s.hygiene.queue.map (fun w => w.slot))) :
    Work s0 { s with hygiene := { s.hygiene with queue := q } } := by
  refine h.trans ⟨rfl, id, id, id, id, id, fun hs => ?_, List.Sublist.refl _, fun _ => Nat.le_refl _, fun _ => id, .same rfl rfl rfl rfl rfl⟩
  have hs' : (s.hygiene.queue.map (fun w => w.slot)).Pairwise (fun a b => a ≠ b) := List.pairwise_map.mpr hs
  exact List.pairwise_map.mp (hs'.sublist hq)

theorem Work.leaveCleaning {s0 s : State} (h : Work s0 s) (i : Slot) : Work s0 (leaveCleaning i s) :=
  h.queueOf _ (List.filter_sublist.map _)

theorem Work.reprogramCleaning {s0 s : State} (h : Work s0 s) (i : Slot) (p : Byte) :
    Work s0 (reprogramCleaning i p s) := by
  refine h.queueOf _ ?_
  rw [List.map_map]
  refine sublist_of_eq (List.map_congr_left fun w _ => ?_)
  simp only [Function.comp]; split <;> rfl

theorem Work.setIdleWait {s0 s : State} (h : Work s0 s) (i : Slot) (b : Bool) : Work s0 (setIdleWait i b s) := by
  refine h.queueOf _ ?_
  rw [List.map_map]
  refine sublist_of_eq (List.map_congr_left fun w _ => ?_)
  simp only [Function.comp]; split <;> rfl

/-- An oven joins the cleaning queue only where it is not queued already. -/
theorem Work.joinCleaning {s0 s : State} (h : Work s0 s) (i : Slot) (p : Byte) (o : Origin) (hq : s.cleanQueued i = false) :
    Work s0 (joinCleaning i p o s) := by
  refine h.trans ⟨rfl, id, id, id, id, id, fun hs => ?_, List.Sublist.refl _, fun _ => Nat.le_refl _, fun _ => id, .same rfl rfl rfl rfl rfl⟩
  simp only [State.cleanQueued, List.any_eq_false, beq_iff_eq] at hq
  simp only [State.QueuedOnce, Machine.joinCleaning, List.pairwise_append, List.pairwise_cons, List.Pairwise.nil,
    List.mem_singleton]
  exact ⟨hs, by simp, fun a ha b hb => by subst hb; exact hq a ha⟩

/-! ### The call table -/

theorem Work.callsOf {s0 s : State} (h : Work s0 s) (cs : List Call)
    (hc : (cs.map (fun c => (c.source, c.cause))).Sublist (s.service.calls.map (fun c => (c.source, c.cause)))) :
    Work s0 { s with service := { s.service with calls := cs } } := by
  refine h.trans ⟨rfl, fun hs => ?_, fun hs => ?_, id, id, id, id, List.Sublist.refl _, fun _ => Nat.le_refl _, fun _ => id, .same rfl rfl rfl rfl rfl⟩
  · have := hc.length_le
    simp only [List.length_map] at this
    exact Nat.le_trans this hs
  · have hs' : (s.service.calls.map (fun c => (c.source, c.cause))).Pairwise (fun a b => ¬(a.1 = b.1 ∧ a.2 = b.2)) :=
      List.pairwise_map.mpr hs
    exact List.pairwise_map.mp (hs'.sublist hc)

/-- Calls changed in other fields than their keys. -/
theorem Work.mapCalls {s0 s : State} (h : Work s0 s) (f : Call → Call)
    (hf : ∀ c, (f c).source = c.source ∧ (f c).cause = c.cause) :
    Work s0 { s with service := { s.service with calls := s.service.calls.map f } } := by
  refine h.callsOf _ ?_
  rw [List.map_map]
  refine sublist_of_eq (List.map_congr_left fun c _ => ?_)
  simp [hf c]

theorem dropOldestAck_sublist : ∀ l t, dropOldestAck l = some t → t.Sublist l ∧ t.length + 1 = l.length := by
  intro l
  induction l with
  | nil => intro t h; simp [dropOldestAck] at h
  | cons c l ih =>
    intro t h
    unfold dropOldestAck at h
    split at h
    · simp only [Option.some.injEq] at h
      subst h
      exact ⟨List.sublist_cons_self _ _, rfl⟩
    · cases hd : dropOldestAck l with
      | none => simp [hd] at h
      | some u =>
        simp only [hd, Option.map_some, Option.some.injEq] at h
        subst h
        exact ⟨(ih u hd).1.cons_cons c, by simp [(ih u hd).2]⟩

theorem Work.joinCall {s : State} (src : Source) (cause : Cause) (sev : Severity) (details : List Word) (table : List Call)
    (ht : table.Sublist s.service.calls) (hl : s.service.calls.length ≤ 32 → table.length ≤ 31)
    (hk : s.service.calls.any (fun c => c.hasKey src cause) = false) :
    Work s (joinCall src cause sev details table s) := by
  refine ⟨rfl, fun hs => ?_, fun hs => ?_, id, id, id, id, List.Sublist.refl _, fun _ => Nat.le_refl _, fun _ => id, .same rfl rfl rfl rfl rfl⟩
  · have := hl hs
    simp [Machine.joinCall]; omega
  · simp only [List.any_eq_false, Call.hasKey, Bool.and_eq_true, beq_iff_eq] at hk
    simp only [State.CallKeysDistinct, Machine.joinCall, List.pairwise_append, List.pairwise_cons, List.Pairwise.nil,
      List.mem_singleton]
    exact ⟨hs.sublist ht, by simp, fun a ha b hb => by subst hb; exact hk a (ht.subset ha)⟩

theorem Work.raiseCall {s0 s : State} (h : Work s0 s) (src : Source) (cause : Cause) (sev : Severity)
    (details : List Word) : Work s0 (raiseCall src cause sev details s) := by
  refine h.trans ?_
  unfold Machine.raiseCall
  split
  · exact Work.refl s
  · split
    · refine (Work.refl s).mapCalls _ (fun c => ?_)
      split
      · unfold Call.merge; dsimp only; split <;> simp
      · simp
    · next hk =>
        split
        · next hl =>
            exact Work.joinCall _ _ _ _ _ (List.Sublist.refl _) (by simp [Config.callsMax] at hl; omega)
              (by simpa using hk)
        · next hl =>
            split
            · next t ht =>
                have := dropOldestAck_sublist _ _ ht
                exact Work.joinCall _ _ _ _ _ this.1 (by omega) (by simpa using hk)
            · refine Work.markServiceOverrun (Work.oweSite ?_)
              exact ⟨rfl, id, id, id, id, id, id, List.Sublist.refl _, fun _ => Nat.le_refl _, fun _ => id, .same rfl rfl rfl rfl rfl⟩

theorem Work.removeCallsOf {s0 s : State} (h : Work s0 s) (i : Slot) : Work s0 (removeCallsOf i s) :=
  h.callsOf _ (List.filter_sublist.map _)


/-! ## Ops -/

/-- R37: the telegrams removed are gone, and the others keep their order. -/
theorem waitingOn_removeTelegrams (p : Queued → Bool) (s : State) (l : LineNo) :
    (removeTelegrams p s).waitingOn l = (s.waitingOn l).filter (fun q => !p q) := by
  simp [State.waitingOn, State.ln, Machine.removeTelegrams, List.take_append_drop]

/-- R40: a telegram goes behind all that wait on its line. -/
theorem waitingOn_queueUrgent (l : LineNo) (q : Queued) (s : State) (h : s.OffersWaitInTurn l) :
    (queueUrgent l q s).waitingOn l = s.waitingOn l ++ [q] := by
  unfold State.OffersWaitInTurn at h
  unfold Machine.queueUrgent State.waitingOn
  simp only [State.ln_modLn, Config.urgentMax, if_true]
  by_cases hl : (s.ln l).urgent.length < 16
  · simp [hl, h hl]
  · simp [hl]

theorem Work.sendTo {s0 s : State} (h : Work s0 s) (i : Slot) (o : Owner) (t : Telegram) :
    Work s0 (Machine.sendTo i o t s) := by
  unfold Machine.sendTo
  try dsimp only
  repeat' first
    | with_reducible assumption | with_reducible exact Work.refl _ | with_reducible refine Work.queueUrgent ?_ ..
    | split

theorem Work.sendAssign {s0 s : State} (h : Work s0 s) (i : Slot) (serial : Word) :
    Work s0 (Machine.sendAssign i serial s) := by
  unfold Machine.sendAssign
  try dsimp only
  repeat' first
    | with_reducible assumption | with_reducible exact Work.refl _ | with_reducible refine Work.queueUrgent ?_ ..
    | split

theorem Work.sendConfirm {s0 s : State} (h : Work s0 s) (i : Slot) (serial : Word) :
    Work s0 (Machine.sendConfirm i serial s) := by
  unfold Machine.sendConfirm
  try dsimp only
  repeat' first
    | with_reducible assumption | with_reducible exact Work.refl _ | with_reducible refine Work.queueUrgent ?_ ..
    | split

theorem Work.sendUnassign {s0 s : State} (h : Work s0 s) (i : Slot) :
    Work s0 (Machine.sendUnassign i s) := by
  unfold Machine.sendUnassign
  try dsimp only
  repeat' first
    | with_reducible assumption | with_reducible exact Work.refl _ | with_reducible refine Work.queueUrgent ?_ ..
    | split

theorem Work.joinSchedule {s0 s : State} (h : Work s0 s) (i : Slot) : Work s0 (Machine.joinSchedule i s) := by
  refine h.modLn _ _ (fun x => ?_)
  split
  · exact .same rfl rfl rfl
  · exact .same rfl rfl rfl

theorem Work.leaveSchedule {s0 s : State} (h : Work s0 s) (i : Slot) : Work s0 (Machine.leaveSchedule i s) :=
  h.mapLines _ (fun _ => .same rfl rfl rfl)

theorem Work.toIdle {s0 s : State} (h : Work s0 s) (i : Slot) :
    Work s0 (Machine.toIdle i s) := by
  unfold Machine.toIdle
  repeat' first
    | with_reducible assumption | with_reducible exact Work.refl _
    | (with_reducible refine Work.modEnt ?_ _ _ (fun _ => by first | exact .same rfl rfl rfl | exact ⟨by simp [Entry.load], id⟩)) | split

theorem Work.queueRosterAbort {s0 s : State} (h : Work s0 s) (i : Slot) :
    Work s0 (Machine.queueRosterAbort i s) := by
  unfold Machine.queueRosterAbort
  repeat' first
    | with_reducible assumption | with_reducible exact Work.refl _ | with_reducible refine Work.sendTo ?_ ..
    | (with_reducible refine Work.modEnt ?_ _ _ (fun _ => by first | exact .same rfl rfl rfl | exact ⟨by simp [Entry.load], id⟩)) | split


/-! ## Flags -/

theorem Work.setCount {s0 s : State} (h : Work s0 s) (i : Slot) (n : Nat) :
    Work s0 (Machine.setCount i n s) := by
  unfold Machine.setCount
  try dsimp only
  repeat' first
    | with_reducible assumption | with_reducible exact Work.refl _
    | (with_reducible refine Work.modEnt ?_ _ _ (fun _ => by first | exact .same rfl rfl rfl | exact ⟨by simp [Entry.load], id⟩))
    | with_reducible refine Work.raiseEvent ?_ .. | split


/-! ## Service -/

theorem Work.raiseProtocol {s0 s : State} (h : Work s0 s) (i : Slot) (n : Notice) :
    Work s0 (Machine.raiseProtocol i n s) := by
  unfold Machine.raiseProtocol
  repeat' first
    | with_reducible assumption | with_reducible exact Work.refl _ | with_reducible refine Work.raiseCall ?_ ..
    | split

theorem Work.ackCall {s0 s : State} (h : Work s0 s) (tag : Half) (source cause : Byte) :
    Work s0 (Machine.ackCall tag source cause s) := by
  unfold Machine.ackCall
  dsimp only
  repeat' first
    | with_reducible assumption | with_reducible refine Work.complete ?_ .. | split
  refine h.mapCalls _ (fun c => ?_)
  split <;> simp

theorem Work.closeCall {s0 s : State} (h : Work s0 s) (tag : Half) (source cause : Byte) :
    Work s0 (Machine.closeCall tag source cause s) := by
  unfold Machine.closeCall
  dsimp only
  repeat' first
    | with_reducible assumption | with_reducible refine Work.complete ?_ .. | split
  exact h.callsOf _ (List.filter_sublist.map _)


/-! ## Hygiene -/

theorem Work.autoPlace {s0 s : State} (h : Work s0 s) (i : Slot) : Work s0 (Machine.autoPlace i s) := by
  unfold Machine.autoPlace
  split
  · next hq => exact h.joinCleaning _ _ _ (by simp only [Bool.and_eq_true, Bool.not_eq_true'] at hq; exact hq.2)
  · exact h

theorem Work.accrue {s0 s : State} (h : Work s0 s) (i : Slot) :
    Work s0 (Machine.accrue i s) := by
  unfold Machine.accrue
  try dsimp only
  repeat' first
    | with_reducible assumption | with_reducible exact Work.refl _ | with_reducible refine Work.setCount ?_ ..
    | with_reducible refine Work.autoPlace ?_ .. | split

theorem Work.accrueAll {s0 s : State} (h : Work s0 s) : Work s0 (Machine.accrueAll s) :=
  h.trans (Work.foldl _ (fun s i => (Work.refl s).accrue i) _ _)

theorem Work.passClean {s0 s : State} (h : Work s0 s) (i : Slot) (o : Origin) (program : Byte) (queued : Word) (start : Option Word) (r : CleanOutcome) (phases : BitVec 5) (maximum : Option Int) (seconds : Half) :
    Work s0 (Machine.passClean i o program queued start r phases maximum seconds s) := by
  unfold Machine.passClean
  repeat' first
    | with_reducible assumption | with_reducible exact Work.refl _ | with_reducible refine Work.passJournal ?_ ..
    | split

theorem Work.passCleanOf {s0 s : State} (h : Work s0 s) (i : Slot) (c : CleanRec) (r : CleanOutcome) :
    Work s0 (Machine.passCleanOf i c r s) := by
  unfold Machine.passCleanOf
  repeat' first
    | with_reducible assumption | with_reducible exact Work.refl _ | with_reducible refine Work.passClean ?_ ..
    | split

theorem Work.endOffer {s0 s : State} (h : Work s0 s) (i : Slot) :
    Work s0 (Machine.endOffer i s) := by
  unfold Machine.endOffer
  repeat' first
    | with_reducible assumption | with_reducible exact Work.refl _
    | (with_reducible refine Work.modEnt ?_ _ _ (fun _ => by first | exact .same rfl rfl rfl | exact ⟨by simp [Entry.load], id⟩)) | split

/-- The offer turns into the cleaning, so that the capacity in use does not grow. -/
theorem Work.cleaningBegins {s0 s : State} (h : Work s0 s) (i : Slot) (f : OfferRec) (ho : (s.ent i).offerOut = true) :
    Work s0 (Machine.cleaningBegins i f s) := by
  have hw : Work s0 ((Machine.leaveCleaning i (Machine.endOffer i s)).modEnt i fun e =>
      { e with activity := .cleaning,
               cleaning := some { program := f.program, origin := f.origin, queued := f.queued, start := s.report.clock,
                                  threshold := f.threshold, phases := 0, maximum := none, seconds := 0 } }) := by
    refine h.trans ?_
    have hl : Work s (Machine.leaveCleaning i s) := (Work.refl s).leaveCleaning i
    refine ⟨hl.outer, hl.calls, hl.keys, hl.journal, hl.urgent, fun hd k => ?_, hl.queue, hl.longs, fun k => ?_, hl.fills,
      .same rfl rfl rfl rfl rfl⟩
    · have he : (s.roster[k]).dir.Pairwise (fun a b => a.recipe ≠ b.recipe) := hd k
      by_cases hk : k = i
      · subst hk
        simpa [State.modEnt, Machine.endOffer, Machine.leaveCleaning, State.setEnt, State.ent] using he
      · simpa [State.modEnt, Machine.endOffer, Machine.leaveCleaning, State.setEnt, State.ent, Vector.getElem_set_ne,
          Fin.val_inj, Ne.symm hk] using he
    by_cases hk : k = i
    · subst hk
      have h1 : (s.ent k).load ≥ 1 := by simp [Entry.load, ho]
      refine Nat.le_trans ?_ h1
      simp [State.modEnt, Machine.endOffer, Machine.leaveCleaning, State.setEnt, State.ent, Entry.load]
    · refine Nat.le_of_eq (congrArg Entry.load ?_)
      simp [State.modEnt, Machine.endOffer, Machine.leaveCleaning, State.setEnt, State.ent, Vector.getElem_set_ne, Fin.val_inj,
        Ne.symm hk]
  unfold Machine.cleaningBegins
  dsimp only
  split
  · exact hw.queueRosterAbort i
  · exact hw

theorem Work.cleaningDeclined {s0 s : State} (h : Work s0 s) (i : Slot) (f : OfferRec) :
    Work s0 (Machine.cleaningDeclined i f s) := by
  unfold Machine.cleaningDeclined
  try dsimp only
  repeat' first
    | with_reducible assumption | with_reducible exact Work.refl _ | with_reducible refine Work.passClean ?_ ..
    | with_reducible refine Work.leaveCleaning ?_ .. | with_reducible refine Work.endOffer ?_ ..
    | (with_reducible refine Work.modEnt ?_ _ _ (fun _ => by first | exact .same rfl rfl rfl | exact ⟨by simp [Entry.load], id⟩)) | split

theorem Work.cleanGoOutcome {s0 s : State} (h : Work s0 s) (i : Slot) (o : Outcome) :
    Work s0 (Machine.cleanGoOutcome i o s) := by
  unfold Machine.cleanGoOutcome
  split
  · exact h
  · next f hf =>
      have ho : (s.ent i).offerOut = true := by
        unfold Entry.openOffer at hf; split at hf <;> simp_all
      repeat' first
        | with_reducible assumption | with_reducible refine Work.setIdleWait ?_ .. | with_reducible refine Work.endOffer ?_ ..
        | with_reducible refine Work.cleaningDeclined ?_ .. | with_reducible refine Work.cleaningBegins ?_ _ _ ho | split

theorem Work.endCleaning {s0 s : State} (h : Work s0 s) (i : Slot) :
    Work s0 (Machine.endCleaning i s) := by
  unfold Machine.endCleaning
  repeat' first
    | with_reducible assumption | with_reducible exact Work.refl _ | with_reducible refine Work.toIdle ?_ ..
    | (with_reducible refine Work.modEnt ?_ _ _ (fun _ => by first | exact .same rfl rfl rfl | exact ⟨by simp [Entry.load], id⟩)) | split

theorem Work.cleanEnded {s0 s : State} (h : Work s0 s) (i : Slot) (c : CleanRec) (r : CleanEnd) :
    Work s0 (Machine.cleanEnded i c r s) := by
  unfold Machine.cleanEnded
  try dsimp only
  repeat' first
    | with_reducible assumption | with_reducible exact Work.refl _ | with_reducible refine Work.complete ?_ ..
    | with_reducible refine Work.setCount ?_ .. | with_reducible refine Work.endCleaning ?_ ..
    | with_reducible refine Work.passCleanOf ?_ ..
    | (with_reducible refine Work.modEnt ?_ _ _ (fun _ => by first | exact .same rfl rfl rfl | exact ⟨by simp [Entry.load], id⟩))
    | with_reducible refine Work.raiseCall ?_ .. | with_reducible refine Work.autoPlace ?_ .. | split

theorem Work.cleanPhase {s0 s : State} (h : Work s0 s) (i : Slot) (c : CleanRec) (p : Phase) (rawMax secs : Half) :
    Work s0 (Machine.cleanPhase i c p rawMax secs s) := by
  unfold Machine.cleanPhase
  try dsimp only
  repeat' first
    | with_reducible assumption | with_reducible exact Work.refl _
    | (with_reducible refine Work.modEnt ?_ _ _ (fun _ => by first | exact .same rfl rfl rfl | exact ⟨by simp [Entry.load], id⟩)) | split

theorem Work.strayCleaning {s0 s : State} (h : Work s0 s) (i : Slot) (n : Notice) :
    Work s0 (Machine.strayCleaning i n s) := by
  unfold Machine.strayCleaning
  try dsimp only
  repeat' first
    | with_reducible assumption | with_reducible exact Work.refl _ | with_reducible refine Work.raiseProtocol ?_ ..
    | split

theorem Work.cleanPhaseNotice {s0 s : State} (h : Work s0 s) (i : Slot) (p : Phase) (rawMax secs : Half) :
    Work s0 (Machine.cleanPhaseNotice i p rawMax secs s) := by
  unfold Machine.cleanPhaseNotice
  repeat' first
    | with_reducible assumption | with_reducible exact Work.refl _ | with_reducible refine Work.cleanPhase ?_ ..
    | with_reducible refine Work.strayCleaning ?_ .. | split

theorem Work.cleanEndNotice {s0 s : State} (h : Work s0 s) (i : Slot) (r : CleanEnd) :
    Work s0 (Machine.cleanEndNotice i r s) := by
  unfold Machine.cleanEndNotice
  repeat' first
    | with_reducible assumption | with_reducible exact Work.refl _ | with_reducible refine Work.cleanEnded ?_ ..
    | with_reducible refine Work.strayCleaning ?_ .. | split

theorem Work.cleanRequest {s0 s : State} (h : Work s0 s) (i : Slot) (program : Byte) :
    Work s0 (Machine.cleanRequest i program s) := by
  unfold Machine.cleanRequest
  try dsimp only
  repeat' first
    | with_reducible assumption | with_reducible refine Work.sendTo ?_ ..
    | with_reducible refine Work.reprogramCleaning ?_ ..
    | with_reducible refine Work.joinCleaning ?_ _ _ _ (by simpa using ‹¬s.cleanQueued i = true›) | split

theorem Work.closeCleaningUnknown {s0 s : State} (h : Work s0 s) (i : Slot) :
    Work s0 (Machine.closeCleaningUnknown i s) := by
  unfold Machine.closeCleaningUnknown
  repeat' first
    | with_reducible assumption | with_reducible exact Work.refl _ | with_reducible refine Work.endCleaning ?_ ..
    | with_reducible refine Work.passCleanOf ?_ .. | with_reducible refine Work.toIdle ?_ .. | split

theorem Work.requeueExpired {s0 s : State} (h : Work s0 s) (i : Slot) :
    Work s0 (Machine.requeueExpired i s) := by
  unfold Machine.requeueExpired
  try dsimp only
  repeat' first
    | with_reducible assumption | with_reducible exact Work.refl _
    | (with_reducible refine Work.modEnt ?_ _ _ (fun _ => by first | exact .same rfl rfl rfl | exact ⟨by simp [Entry.load], id⟩))
    | with_reducible refine Work.autoPlace ?_ .. | split

theorem Work.clean {s0 s : State} (h : Work s0 s) (tag : Half) (oven program : Byte) :
    Work s0 (Machine.clean tag oven program s) := by
  unfold Machine.clean
  try dsimp only
  repeat' first
    | with_reducible assumption | with_reducible refine Work.complete ?_ ..
    | with_reducible refine Work.reprogramCleaning ?_ .. | split
  next hq => exact h.joinCleaning _ _ _ (by simpa using hq)

theorem Work.cancelClean {s0 s : State} (h : Work s0 s) (tag : Half) (oven : Byte) :
    Work s0 (Machine.cancelClean tag oven s) := by
  unfold Machine.cancelClean
  try dsimp only
  repeat' first
    | with_reducible assumption | with_reducible exact Work.refl _ | with_reducible refine Work.complete ?_ ..
    | with_reducible refine Work.leaveCleaning ?_ .. | split


/-! ## Cache -/

theorem Work.sendEvict {s0 s : State} (h : Work s0 s) (i : Slot) (r : RecipeNo) :
    Work s0 (Machine.sendEvict i r s) := by
  unfold Machine.sendEvict
  repeat' first
    | with_reducible assumption | with_reducible exact Work.refl _ | with_reducible refine Work.sendTo ?_ .. | split

theorem Work.evictAtEnd {s0 s : State} (h : Work s0 s) (i : Slot) : Work s0 (Machine.evictAtEnd i s) :=
  (h.modDir i _ (fun _ hd => hd.map _ (fun x => by split <;> rfl))).trans
    (Work.foldl _ (fun s (x : DirEntry) => (Work.refl s).sendEvict i x.recipe) _ _)

theorem Work.returnIdle {s0 s : State} (h : Work s0 s) (i : Slot) :
    Work s0 (Machine.returnIdle i s) := by
  unfold Machine.returnIdle
  repeat' first
    | with_reducible assumption | with_reducible exact Work.refl _ | with_reducible refine Work.evictAtEnd ?_ ..
    | with_reducible refine Work.toIdle ?_ .. | split

theorem Work.reduceDirectory {s0 s : State} (h : Work s0 s) (i : Slot) :
    Work s0 (Machine.reduceDirectory i s) := by
  refine h.modEnt i _ (fun e => ⟨Nat.le_refl _, fun hd => ?_⟩)
  show DirDistinct e.reducedDir
  unfold Entry.reducedDir
  split
  · exact hd.filter _
  · exact DirDistinct.nil

theorem Work.flushReduce {s0 s : State} (h : Work s0 s) (i : Slot) :
    Work s0 (Machine.flushReduce i s) := by
  unfold Machine.flushReduce
  repeat' first
    | with_reducible assumption | with_reducible exact Work.refl _ | with_reducible refine Work.sendTo ?_ ..
    | with_reducible refine Work.reduceDirectory ?_ .. | split

theorem Work.staleAt {s0 s : State} (h : Work s0 s) (r : RecipeNo)  (i : Slot) :
    Work s0 (Machine.staleAt r s i) := by
  unfold Machine.staleAt
  repeat' first
    | with_reducible assumption | with_reducible exact Work.refl _ | with_reducible refine Work.modDir ?_ _ _ (fun _ hd => hd.mapDir _ _ (fun _ => rfl))
    | with_reducible refine Work.evictAtEnd ?_ .. | with_reducible refine Work.sendEvict ?_ .. | split

theorem Work.markFillsStale {s0 s : State} (h : Work s0 s) (r : RecipeNo) : Work s0 (Machine.markFillsStale r s) :=
  h.mapLines _ (fun x => ⟨fun hx => hx.same rfl rfl, fun ⟨g, hg, ha, hs⟩ => by
    obtain ⟨f, hf, rfl⟩ := Option.map_eq_some_iff.mp hg
    refine ⟨f, hf, ?_, ?_⟩
    · split at ha <;> exact ha
    · split at hs <;> exact hs⟩)

theorem Work.staleRecipe {s0 s : State} (h : Work s0 s) (r : RecipeNo) : Work s0 (Machine.staleRecipe r s) :=
  (h.trans (Work.foldl _ (fun s i => (Work.refl s).staleAt r i) _ _)).markFillsStale r

theorem Work.releaseWaits {s0 s : State} (h : Work s0 s) (r : RecipeNo) : Work s0 (Machine.releaseWaits r s) :=
  h.mapLines _ (fun _ => .same rfl rfl rfl)

theorem Work.commitNotice {s0 s : State} (h : Work s0 s) (r : RecipeNo) (g : Gate) :
    Work s0 (Machine.commitNotice r g s) := by
  unfold Machine.commitNotice
  repeat' first
    | with_reducible assumption | with_reducible exact Work.refl _ | with_reducible refine Work.releaseWaits ?_ ..
    | with_reducible refine Work.staleRecipe ?_ .. | split | with_reducible refine Work.cache ?_ _

theorem Work.answerRefusal {s0 s : State} (h : Work s0 s) (i : Slot) (p : PendingStart) (why : Reason) :
    Work s0 (Machine.answerRefusal i p why s) := by
  unfold Machine.answerRefusal
  repeat' first
    | with_reducible assumption | with_reducible exact Work.refl _ | with_reducible refine Work.endLong ?_ ..
    | with_reducible refine Work.sendTo ?_ .. | split

theorem Work.refuseStart {s0 s : State} (h : Work s0 s) (i : Slot) (why : Reason) :
    Work s0 (Machine.refuseStart i why s) := by
  unfold Machine.refuseStart
  repeat' first
    | with_reducible assumption | with_reducible exact Work.refl _ | with_reducible refine Work.answerRefusal ?_ ..
    | with_reducible refine Work.returnIdle ?_ ..
    | (with_reducible refine Work.modEnt ?_ _ _ (fun _ => by first | exact .same rfl rfl rfl | exact ⟨by simp [Entry.load], id⟩)) | split

theorem Work.composeGrant {s0 s : State} (h : Work s0 s) (i : Slot) :
    Work s0 (Machine.composeGrant i s) := by
  unfold Machine.composeGrant
  dsimp only
  split
  · exact h
  · next p _ =>
    split
    · exact h
    · next x hx =>
        refine Work.sendTo ?_ ..
        refine Work.modEnt h i _ (fun e => ⟨Nat.le_refl _, fun hd => ?_⟩)
        have hr : x.recipe = p.recipe := by simpa using List.find?_some hx
        exact (hd.filter _).cons x (fun y hy => by
          rw [hr]; simpa using (List.mem_filter.mp hy).2)

theorem Work.joinFillQueue {s0 s : State} (h : Work s0 s) (i : Slot) :
    Work s0 (Machine.joinFillQueue i s) := by
  unfold Machine.joinFillQueue
  repeat' first
    | with_reducible assumption | with_reducible exact Work.refl _
    | (with_reducible refine Work.modLn ?_ _ _ (fun _ => by first | exact .same rfl rfl rfl | (dsimp only; split <;> exact .same rfl rfl rfl)))
    | split

theorem Work.leaveFillQueue {s0 s : State} (h : Work s0 s) (l : LineNo) (i : Slot) :
    Work s0 (Machine.leaveFillQueue l i s) := by
  unfold Machine.leaveFillQueue
  repeat' first
    | with_reducible assumption | with_reducible exact Work.refl _
    | (with_reducible refine Work.modLn ?_ _ _ (fun _ => by first | exact .same rfl rfl rfl | (dsimp only; split <;> exact .same rfl rfl rfl)))
    | split

theorem Work.beginStart {s0 s : State} (h : Work s0 s) (i : Slot) (r : RecipeNo) (o : Origin) (tag : Option Half) :
    Work s0 (Machine.beginStart i r o tag s) := by
  unfold Machine.beginStart
  try dsimp only
  repeat' first
    | with_reducible assumption | with_reducible exact Work.refl _
    | (with_reducible refine Work.modEnt ?_ _ _ (fun _ => by first | exact .same rfl rfl rfl | exact ⟨by simp [Entry.load], id⟩))
    | with_reducible refine Work.composeGrant ?_ .. | with_reducible refine Work.joinFillQueue ?_ .. | split

theorem Work.startRequest {s0 s : State} (h : Work s0 s) (i : Slot) (r : RecipeNo) :
    Work s0 (Machine.startRequest i r s) := by
  unfold Machine.startRequest
  repeat' first
    | with_reducible assumption | with_reducible exact Work.refl _ | with_reducible refine Work.sendTo ?_ ..
    | with_reducible refine Work.beginStart ?_ .. | split

/-- What one line's fill asks for may be left undone: everything else is as after work. -/
structure Near (l : LineNo) (s t : State) : Prop where
  outer   : t.outer = s.outer
  calls   : s.service.calls.length ≤ 32 → t.service.calls.length ≤ 32
  keys    : s.CallKeysDistinct → t.CallKeysDistinct
  journal : s.report.journal.length ≤ 8 → t.report.journal.length ≤ 8
  urgent  : (∀ l : LineNo, (s.ln l).Fits) → ∀ l : LineNo, (t.ln l).Fits
  dirs    : s.DirsDistinct → t.DirsDistinct
  queue   : s.QueuedOnce → t.QueuedOnce
  longs   : t.command.longs.Sublist s.command.longs
  load    : ∀ i : Slot, (t.ent i).load ≤ (s.ent i).load
  fills   : ∀ k : LineNo, k ≠ l → s.FillAwaited k → t.FillAwaited k
  owes    : Owes s t

theorem Work.near {s t : State} (h : Work s t) (l : LineNo) : Near l s t :=
  ⟨h.outer, h.calls, h.keys, h.journal, h.urgent, h.dirs, h.queue, h.longs, h.load, fun k _ => h.fills k,
    h.owes⟩

theorem Near.trans {l : LineNo} {s t u : State} (h : Near l s t) (k : Near l t u) : Near l s u :=
  ⟨k.outer.trans h.outer, k.calls ∘ h.calls, k.keys ∘ h.keys, k.journal ∘ h.journal, k.urgent ∘ h.urgent, k.dirs ∘ h.dirs,
    k.queue ∘ h.queue, k.longs.trans h.longs, fun i => (k.load i).trans (h.load i), fun m hm => k.fills m hm ∘ h.fills m hm,
    h.owes.trans k.owes⟩

/-- Work by which one line's fill is settled, whatever it was before: it has ended, streams or waits for an answer. -/
structure Mends (l : LineNo) (s t : State) : Prop where
  near : Near l s t
  done : t.FillAwaited l

theorem Mends.work {l : LineNo} {s t : State} (h : Mends l s t) : Work s t :=
  ⟨h.near.outer, h.near.calls, h.near.keys, h.near.journal, h.near.urgent, h.near.dirs, h.near.queue, h.near.longs, h.near.load,
    fun k hk => if e : k = l then e ▸ h.done else h.near.fills k e hk,
    h.near.owes⟩

theorem Mends.then {l : LineNo} {s t u : State} (h : Mends l s t) (k : Work t u) : Mends l s u :=
  ⟨h.near.trans (k.near l), k.fills l h.done⟩

/-- A line whose fill alone has changed. -/
theorem Near.modLn {l : LineNo} {s0 s : State} (h : Near l s0 s) (f : Line → Line) (hf : ∀ x : Line, x.Fits → (f x).Fits) :
    Near l s0 (s.modLn l f) := by
  refine h.trans ⟨rfl, id, id, id, fun hu k => ?_, id, id, List.Sublist.refl _, fun _ => Nat.le_refl _, fun k hk ha ho => ha ?_,
    .same rfl rfl rfl rfl rfl⟩
  · rw [State.ln_modLn]
    split
    · next hk => rw [← hk]; exact hf _ (hu _)
    · exact hu _
  · rw [State.ln_modLn_ne _ _ _ _ hk] at ho; exact ho

theorem Near.setFill {l : LineNo} {s0 s : State} (h : Near l s0 s) (f : Option Fill) : Near l s0 (Machine.setFill l f s) :=
  h.modLn _ (fun _ hx => hx.same rfl rfl)

theorem Near.disregardIssued {l : LineNo} {s0 s : State} (h : Near l s0 s) (p : IssueOwner → Bool)
    (hp : ∀ k, k ≠ l → p (.fill k) = false) : Near l s0 (Machine.disregardIssued p s) :=
  h.trans ⟨disregardIssued_outer p s, id, id, id, id, id, id, List.Sublist.refl _, fun _ => Nat.le_refl _,
    fun k hk ha ho => (ha ho).disregardIssued p (hp k hk), .same rfl rfl rfl rfl rfl⟩

/-- The buffer set free, or given to a fill that is not abandoned or streams. -/
theorem Mends.setFill {l : LineNo} {s0 s : State} (h : Near l s0 s) (f : Option Fill)
    (hf : ∀ g, f = some g → g.abandoned = true → g.streaming = true) : Mends l s0 (Machine.setFill l f s) := by
  refine ⟨h.setFill f, fun ⟨g, hg, ha, hs⟩ => ?_⟩
  simp only [Machine.setFill, State.ln_modLn_self] at hg
  rw [hf g hg ha] at hs
  cases hs

theorem Work.setFill {s0 s : State} (h : Work s0 s) (l : LineNo) (f : Option Fill)
    (hf : ∀ g, f = some g → g.abandoned = true → g.streaming = true) : Work s0 (Machine.setFill l f s) :=
  (Mends.setFill (h.near l) f hf).work

theorem Work.setStage {s0 s : State} (h : Work s0 s) (i : Slot) (st : Stage) :
    Work s0 (Machine.setStage i st s) := by
  unfold Machine.setStage
  repeat' first
    | with_reducible assumption | with_reducible exact Work.refl _
    | (with_reducible refine Work.modEnt ?_ _ _ (fun _ => by first | exact .same rfl rfl rfl | exact ⟨by simp [Entry.load], id⟩)) | split

theorem Work.grantFill {s0 s : State} (h : Work s0 s) (l : LineNo) (i : Slot) (r : RecipeNo) :
    Work s0 (Machine.grantFill l i r s) := by
  unfold Machine.grantFill
  try dsimp only
  repeat' first
    | with_reducible assumption | with_reducible exact Work.refl _ | with_reducible refine Work.modRslot ?_ ..
    | with_reducible refine Work.setStage ?_ .. | with_reducible refine Work.leaveFillQueue ?_ ..
    | with_reducible refine Work.setFill ?_ _ _ (by intro g hg; simp at hg; try (subst hg; simp)) | split

theorem Work.waitFill {s0 s : State} (h : Work s0 s) (l : LineNo) (i : Slot) :
    Work s0 (Machine.waitFill l i s) := by
  unfold Machine.waitFill
  repeat' first
    | with_reducible assumption | with_reducible exact Work.refl _
    | (with_reducible refine Work.modLn ?_ _ _ (fun _ => by first | exact .same rfl rfl rfl | (dsimp only; split <;> exact .same rfl rfl rfl)))
    | split

theorem Work.registerFills {s0 s : State} (h : Work s0 s) (l : LineNo) (ws : List FillWait) :
    Work s0 (Machine.registerFills l ws s) := by
  induction ws generalizing s with
  | nil => exact h
  | cons w t ih =>
    unfold Machine.registerFills
    repeat' first
      | with_reducible assumption | with_reducible refine ih ?_ | with_reducible refine Work.refuseStart ?_ ..
      | with_reducible refine Work.leaveFillQueue ?_ .. | with_reducible refine Work.waitFill ?_ ..
      | with_reducible refine Work.grantFill ?_ .. | split
theorem Work.registerAll {s0 s : State} (h : Work s0 s) : Work s0 (Machine.registerAll s) :=
  h.trans (Work.foldl _ (fun s l => (Work.refl s).registerFills l _) _ _)

theorem Work.placeStream {s0 s : State} (h : Work s0 s) (l : LineNo) (x : Stream) :
    Work s0 (Machine.placeStream l x s) := by
  unfold Machine.placeStream
  repeat' first
    | with_reducible assumption | with_reducible exact Work.refl _
    | (with_reducible refine Work.modLn ?_ _ _ (fun _ => by first | exact .same rfl rfl rfl | (dsimp only; split <;> exact .same rfl rfl rfl)))
    | split

theorem Work.removeStream {s0 s : State} (h : Work s0 s) (l : LineNo) (k : StreamKind) (i : Slot) :
    Work s0 (Machine.removeStream l k i s) := by
  unfold Machine.removeStream
  repeat' first
    | with_reducible assumption | with_reducible exact Work.refl _
    | (with_reducible refine Work.modLn ?_ _ _ (fun _ => by first | exact .same rfl rfl rfl | (dsimp only; split <;> exact .same rfl rfl rfl)))
    | split

theorem Work.modStream {s0 s : State} (h : Work s0 s) (l : LineNo) (k : StreamKind) (i : Slot) (f : Stream → Stream) :
    Work s0 (Machine.modStream l k i f s) := by
  unfold Machine.modStream
  repeat' first
    | with_reducible assumption | with_reducible exact Work.refl _
    | (with_reducible refine Work.modLn ?_ _ _ (fun _ => by first | exact .same rfl rfl rfl | (dsimp only; split <;> exact .same rfl rfl rfl)))
    | split

theorem Work.endFillStream {s0 s : State} (h : Work s0 s) (l : LineNo) (i : Slot) :
    Work s0 (Machine.endFillStream l i s) := by
  unfold Machine.endFillStream
  repeat' first
    | with_reducible assumption | with_reducible exact Work.refl _ | with_reducible refine Work.setFill ?_ _ _ (by intro g hg; simp at hg; try (subst hg; simp))
    | with_reducible refine Work.removeStream ?_ .. | split

theorem Mends.fillGood {s0 s : State} {l : LineNo} (h : Near l s0 s) (f : Fill) : Mends l s0 (Machine.fillGood l f s) := by
  unfold Machine.fillGood
  split
  · exact (Mends.setFill h none (fun _ e => nomatch e)).then ((Work.refl _).refuseStart ..)
  · refine (Mends.setFill h _ (fun g hg _ => ?_)).then (((Work.refl _).setStage ..).placeStream ..)
    cases hg; rfl

theorem Mends.fillBad {s0 s : State} {l : LineNo} (h : Near l s0 s) (f : Fill) : Mends l s0 (Machine.fillBad l f s) :=
  (Mends.setFill h none (fun _ e => nomatch e)).then ((Work.refl _).refuseStart ..)

/-- R101: the filled entry stands before the entries of other recipe slots. -/
theorem DirDistinct.afterFill {e : Entry} (h : DirDistinct e.dir) (f : Fill) : DirDistinct (e.afterFill f) :=
  (h.filter _).cons _ (fun y hy => by
    have := (List.mem_filter.mp hy).2
    simp only [Bool.and_eq_true, bne_iff_ne] at this
    exact this.1)

theorem Work.fillComplete {s0 s : State} (h : Work s0 s) (l : LineNo) (f : Fill) :
    Work s0 (Machine.fillComplete l f s) := by
  unfold Machine.fillComplete
  try dsimp only
  repeat' first
    | with_reducible assumption | with_reducible exact Work.refl _ | with_reducible refine Work.endFillStream ?_ ..
    | (with_reducible refine Work.modEnt ?_ _ _ (fun _ => ⟨Nat.le_refl _, fun hd => hd.afterFill f⟩))
    | with_reducible refine Work.joinFillQueue ?_ .. | with_reducible refine Work.setStage ?_ ..
    | with_reducible refine Work.sendEvict ?_ .. | with_reducible refine Work.composeGrant ?_ .. | split

theorem Work.fillBlockOutcome {s0 s : State} (h : Work s0 s) (l : LineNo) (i : Slot) (last : Bool) (o : Outcome) :
    Work s0 (Machine.fillBlockOutcome l i last o s) := by
  unfold Machine.fillBlockOutcome
  repeat' first
    | with_reducible assumption | with_reducible exact Work.refl _ | with_reducible refine Work.endFillStream ?_ ..
    | with_reducible refine Work.fillComplete ?_ .. | with_reducible refine Work.modStream ?_ ..
    | with_reducible refine Work.refuseStart ?_ .. | split

theorem Near.abandonStage {s0 s : State} (h : Work s0 s) (i : Slot) (st : Stage) :
    Near (s.ent i).line s0 (Machine.abandonStage i st s) := by
  cases st
  case reading =>
    show Near (s.ent i).line s0 (s.modLn (s.ent i).line fun x =>
      { x with fill := x.fill.map (fun f => { f with abandoned := true }) })
    exact (h.near (s.ent i).line).modLn _ (fun _ hx => hx.same rfl rfl)
  all_goals
    refine Work.near ?_ _
    unfold Machine.abandonStage
    dsimp only
    repeat' first
      | with_reducible assumption | with_reducible refine Work.leaveFillQueue ?_ ..
      | with_reducible refine Work.modStream ?_ .. | with_reducible refine Work.endFillStream ?_ ..
      | with_reducible refine Work.removeTelegrams ?_ ..
      | (with_reducible refine Work.modEnt ?_ _ _ (fun _ => .same rfl rfl rfl)) | split

theorem Near.abandonStart {s0 s : State} (h : Work s0 s) (i : Slot) :
    Near (s.ent i).line s0 (Machine.abandonStart i s) := by
  unfold Machine.abandonStart
  split
  · exact (h.toIdle i).near _
  · exact (Near.abandonStage h i _).trans (((Work.refl _).refuseStart ..).near _)

theorem Work.makeCook {s0 s : State} (h : Work s0 s) (i : Slot) (k : CookRec) :
    Work s0 (Machine.makeCook i k s) := by
  unfold Machine.makeCook
  repeat' first
    | with_reducible assumption | with_reducible exact Work.refl _
    | (with_reducible refine Work.modEnt ?_ _ _ (fun _ => by first | exact .same rfl rfl rfl | exact ⟨by simp [Entry.load], id⟩))
    | with_reducible refine Work.modRslot ?_ .. | split

theorem Work.closeCook {s0 s : State} (h : Work s0 s) (i : Slot) (k : CookRec) (o : CookOutcome) (steps : Byte) :
    Work s0 (Machine.closeCook i k o steps s) := by
  unfold Machine.closeCook
  repeat' first
    | with_reducible assumption | with_reducible exact Work.refl _ | with_reducible refine Work.passJournal ?_ ..
    | (with_reducible refine Work.modEnt ?_ _ _ (fun _ => by first | exact .same rfl rfl rfl | exact ⟨by simp [Entry.load], id⟩))
    | with_reducible refine Work.modRslot ?_ .. | split

theorem Work.endCook {s0 s : State} (h : Work s0 s) (i : Slot) (k : CookRec) (o : CookOutcome) (steps : Byte) :
    Work s0 (Machine.endCook i k o steps s) := by
  unfold Machine.endCook
  repeat' first
    | with_reducible assumption | with_reducible exact Work.refl _ | with_reducible refine Work.returnIdle ?_ ..
    | with_reducible refine Work.closeCook ?_ .. | split

theorem Work.closeCookUnknown {s0 s : State} (h : Work s0 s) (i : Slot) :
    Work s0 (Machine.closeCookUnknown i s) := by
  unfold Machine.closeCookUnknown
  repeat' first
    | with_reducible assumption | with_reducible exact Work.refl _ | with_reducible refine Work.reduceDirectory ?_ ..
    | with_reducible refine Work.toIdle ?_ .. | with_reducible refine Work.closeCook ?_ .. | split

theorem find?_none_ne {d : List DirEntry} {r : RecipeNo} (h : d.find? (fun x => x.recipe == r) = none) :
    ∀ y ∈ d, y.recipe ≠ r := fun y hy => by simpa using List.find?_eq_none.mp h y hy

/-- R108: an adoption keeps the directory without doubles. -/
theorem DirDistinct.adoptDir {d : List DirEntry} (h : DirDistinct d) (r : RecipeNo) (v : Byte) (stale : Bool) :
    DirDistinct (adoptDir d r v stale).1 := by
  unfold Machine.adoptDir
  dsimp only
  split
  · next x hx =>
      have hr : x.recipe = r := by simpa using List.find?_some hx
      have hf : ∀ y ∈ d.filter (fun y => y.recipe != r), y.recipe ≠ r := fun y hy => by
        simpa using (List.mem_filter.mp hy).2
      split
      · exact (h.filter _).cons _ (fun y hy => by rw [hr]; exact hf y hy)
      · exact (h.filter _).cons _ hf
  · next hx =>
      split
      · exact h.cons _ (find?_none_ne hx)
      · exact DirDistinct.cons (List.Pairwise.sublist (List.dropLast_sublist d) h) _
          (fun y hy => find?_none_ne hx y (List.mem_of_mem_dropLast hy))

theorem Work.adopt {s0 s : State} (h : Work s0 s) (i : Slot) (t : Byte) (r : RecipeNo) (v : Byte) :
    Work s0 (Machine.adopt i t r v s) := by
  have hd : ∀ (b : Bool) (g : Option GrantRec),
      Work s0 (s.setEnt i { s.ent i with dir := (adoptDir (s.ent i).dir r v b).1, grant := g }) :=
    fun b g => h.setEnt i _ ⟨Nat.le_refl _, fun hd => hd.adoptDir r v b⟩
  unfold Machine.adopt
  try dsimp only
  repeat' first
    | with_reducible assumption | with_reducible exact Work.refl _
    | exact hd _ _
    | with_reducible refine Work.sendEvict ?_ .. | with_reducible refine Work.makeCook ?_ ..
    | with_reducible refine Work.queueRosterAbort ?_ .. | split

theorem Work.takeCookNews {s0 s : State} (h : Work s0 s) (i : Slot) (n : CookNews) :
    Work s0 (Machine.takeCookNews i n s) := by
  unfold Machine.takeCookNews
  repeat' first
    | with_reducible assumption | with_reducible exact Work.refl _
    | (with_reducible refine Work.modEnt ?_ _ _ (fun _ => by first | exact .same rfl rfl rfl | exact ⟨by simp [Entry.load], id⟩))
    | with_reducible refine Work.endCook ?_ .. | split

theorem Work.cookNotice {s0 s : State} (h : Work s0 s) (i : Slot) (nt : Notice) (t : Byte) (r : RecipeNo) (v : Byte) (n : CookNews) :
    Work s0 (Machine.cookNotice i nt t r v n s) := by
  unfold Machine.cookNotice
  try dsimp only
  repeat' first
    | with_reducible assumption | with_reducible exact Work.refl _ | with_reducible refine Work.takeCookNews ?_ ..
    | with_reducible refine Work.adopt ?_ .. | with_reducible refine Work.raiseProtocol ?_ .. | split

theorem Work.grantAcked {s0 s : State} (h : Work s0 s) (i : Slot) (p : PendingStart) (g : GrantRec) :
    Work s0 (Machine.grantAcked i p g s) := by
  unfold Machine.grantAcked
  try dsimp only
  repeat' first
    | with_reducible assumption | with_reducible exact Work.refl _ | with_reducible refine Work.makeCook ?_ ..
    | (with_reducible refine Work.modEnt ?_ _ _ (fun _ => by first | exact .same rfl rfl rfl | exact ⟨by simp [Entry.load], id⟩))
    | with_reducible refine Work.endLong ?_ .. | split

theorem Work.grantEnds {s0 s : State} (h : Work s0 s) (i : Slot) (p : PendingStart) (r : ResultCode) (d : Word) :
    Work s0 (Machine.grantEnds i p r d s) := by
  unfold Machine.grantEnds
  try dsimp only
  repeat' first
    | with_reducible assumption | with_reducible exact Work.refl _ | with_reducible refine Work.returnIdle ?_ ..
    | (with_reducible refine Work.modEnt ?_ _ _ (fun _ => by first | exact .same rfl rfl rfl | exact ⟨by simp [Entry.load], id⟩))
    | with_reducible refine Work.endLong ?_ .. | split

theorem Work.evictIfIdle {s0 s : State} (h : Work s0 s) (i : Slot) :
    Work s0 (Machine.evictIfIdle i s) := by
  unfold Machine.evictIfIdle
  repeat' first
    | with_reducible assumption | with_reducible exact Work.refl _ | with_reducible refine Work.evictAtEnd ?_ ..
    | split

theorem Work.abandonedGrant {s0 s : State} (h : Work s0 s) (i : Slot) (t : Byte) (r : RecipeNo) (v : Byte) (o : Outcome) :
    Work s0 (Machine.abandonedGrant i t r v o s) := by
  unfold Machine.abandonedGrant
  try dsimp only
  repeat' first
    | with_reducible assumption | with_reducible exact Work.refl _ | with_reducible refine Work.adopt ?_ ..
    | with_reducible refine Work.evictIfIdle ?_ ..
    | (with_reducible refine Work.modEnt ?_ _ _ (fun _ => by first | exact .same rfl rfl rfl | exact ⟨by simp [Entry.load], id⟩)) | split

theorem Work.grantOutcome {s0 s : State} (h : Work s0 s) (i : Slot) (t : Byte) (r : RecipeNo) (v : Byte) (o : Outcome) :
    Work s0 (Machine.grantOutcome i t r v o s) := by
  unfold Machine.grantOutcome
  repeat' first
    | with_reducible assumption | with_reducible exact Work.refl _ | with_reducible refine Work.grantAcked ?_ ..
    | with_reducible refine Work.grantEnds ?_ ..
    | (with_reducible refine Work.modEnt ?_ _ _ (fun _ => by first | exact .same rfl rfl rfl | exact ⟨by simp [Entry.load], id⟩))
    | with_reducible refine Work.abandonedGrant ?_ .. | split

theorem Work.evictEnded {s0 s : State} (h : Work s0 s) (i : Slot) (r : RecipeNo) :
    Work s0 (Machine.evictEnded i r s) := by
  unfold Machine.evictEnded
  repeat' first
    | with_reducible assumption | with_reducible exact Work.refl _ | with_reducible refine Work.setStage ?_ .. | split

theorem Work.evictOutcome {s0 s : State} (h : Work s0 s) (i : Slot) (r : RecipeNo) (o : Outcome) :
    Work s0 (Machine.evictOutcome i r o s) := by
  unfold Machine.evictOutcome
  repeat' first
    | with_reducible assumption | with_reducible exact Work.refl _ | with_reducible refine Work.evictEnded ?_ ..
    | with_reducible refine Work.modDir ?_ _ _ (fun _ hd => hd.mapDir _ _ (fun _ => rfl))
    | with_reducible refine Work.modDir ?_ _ _ (fun _ hd => hd.filter _)
    | with_reducible refine Work.evictAtEnd ?_ .. | split

theorem Work.flushOutcome {s0 s : State} (h : Work s0 s) (i : Slot) (o : Outcome) :
    Work s0 (Machine.flushOutcome i o s) := by
  unfold Machine.flushOutcome
  repeat' first
    | with_reducible assumption | with_reducible exact Work.refl _
    | (with_reducible refine Work.modEnt ?_ _ _ (fun _ => by first | exact .same rfl rfl rfl | exact ⟨by simp [Entry.load], id⟩)) | split

theorem Work.resendFlush {s0 s : State} (h : Work s0 s) (i : Slot) :
    Work s0 (Machine.resendFlush i s) := by
  unfold Machine.resendFlush
  repeat' first
    | with_reducible assumption | with_reducible exact Work.refl _ | with_reducible refine Work.sendTo ?_ ..
    | (with_reducible refine Work.modEnt ?_ _ _ (fun _ => by first | exact .same rfl rfl rfl | exact ⟨by simp [Entry.load], id⟩)) | split

theorem Work.resendEvictions {s0 s : State} (h : Work s0 s) (i : Slot) : Work s0 (Machine.resendEvictions i s) := by
  unfold Machine.resendEvictions
  dsimp only
  have h1 : Work s0 (s.modDir i fun d => d.map (DirEntry.heldByUse (s.ent i))) :=
    h.modDir i _ (fun _ hd => hd.map _ (fun x => by unfold DirEntry.heldByUse; split <;> rfl))
  refine h1.trans ?_
  refine Work.foldl (fun s (x : DirEntry) =>
    Machine.sendEvict i x.recipe (s.modDir i (mapDir x.recipe fun y => { y with eviction := .outstanding }))) (fun s x => ?_) _ _
  have h2 : Work s (s.modDir i (mapDir x.recipe fun y => { y with eviction := .outstanding })) :=
    Work.modDir (Work.refl s) i _ (fun d hd => DirDistinct.mapDir hd x.recipe _ (fun _ => rfl))
  exact h2.sendEvict i x.recipe

theorem Work.abortCommand {s0 s : State} (h : Work s0 s) (tag : Half) (oven : Byte) :
    Work s0 (Machine.abortCommand tag oven s) := by
  unfold Machine.abortCommand
  try dsimp only
  repeat' first
    | with_reducible assumption | with_reducible exact Work.refl _ | with_reducible refine Work.complete ?_ ..
    | with_reducible refine Work.sendTo ?_ .. | split | with_reducible refine Work.cache ?_ _

theorem Work.completeAbort {s0 s : State} (h : Work s0 s) (a : PendingAbort) (r : ResultCode) (d2 : Word) :
    Work s0 (Machine.completeAbort a r d2 s) := by
  unfold Machine.completeAbort
  repeat' first
    | with_reducible assumption | with_reducible exact Work.refl _ | with_reducible refine Work.complete ?_ .. | split

theorem Work.abortOutcome {s0 s : State} (h : Work s0 s) (i : Slot) (gone : Bool) (o : Outcome) :
    Work s0 (Machine.abortOutcome i gone o s) := by
  unfold Machine.abortOutcome
  try dsimp only
  repeat' first
    | with_reducible assumption | with_reducible exact Work.refl _ | with_reducible refine Work.completeAbort ?_ ..
    | split | with_reducible refine Work.cache ?_ _

theorem Work.removeAborts {s0 s : State} (h : Work s0 s) (i : Slot) : Work s0 (Machine.removeAborts i s) :=
  (h.cache _).trans (Work.foldl _ (fun s a => (Work.refl s).completeAbort a .done 1) _ _)


/-! ## Recipes -/

theorem Work.startEngine {s0 s : State} (h : Work s0 s) :
    Work s0 (Machine.startEngine s) := by
  unfold Machine.startEngine
  repeat' first
    | with_reducible assumption | with_reducible exact Work.refl _ | split | with_reducible refine Work.recipe ?_ _

theorem Work.leavePublishList {s0 s : State} (h : Work s0 s) (r : RecipeNo) :
    Work s0 (Machine.leavePublishList r s) := by
  unfold Machine.leavePublishList
  repeat' first
    | with_reducible assumption | with_reducible exact Work.refl _ | with_reducible refine Work.startEngine ?_ ..
    | split | with_reducible refine Work.recipe ?_ _

theorem Work.publishFault {s0 s : State} (h : Work s0 s) (r : RecipeNo) (c : ResultCode) (d1 d2 : Word) :
    Work s0 (Machine.publishFault r c d1 d2 s) := by
  unfold Machine.publishFault
  repeat' first
    | with_reducible assumption | with_reducible exact Work.refl _ | with_reducible refine Work.endLong ?_ ..
    | with_reducible refine Work.leavePublishList ?_ .. | with_reducible refine Work.disregardIssued ?_ _ (fun _ => rfl)
    | with_reducible refine Work.modRslot ?_ .. | split

theorem Work.commit {s0 s : State} (h : Work s0 s) (r : RecipeNo) :
    Work s0 (Machine.commit r s) := by
  unfold Machine.commit
  try dsimp only
  repeat' first
    | with_reducible assumption | with_reducible exact Work.refl _ | with_reducible refine Work.releaseWaits ?_ ..
    | with_reducible refine Work.endLong ?_ .. | with_reducible refine Work.modRslot ?_ ..
    | with_reducible refine Work.commitNotice ?_ .. | split

theorem Work.publishRead {s0 s : State} (h : Work s0 s) (r : RecipeNo) (g : Staged) :
    Work s0 (Machine.publishRead r g s) := by
  unfold Machine.publishRead
  try dsimp only
  repeat' first
    | with_reducible assumption | with_reducible exact Work.refl _ | with_reducible refine Work.leavePublishList ?_ ..
    | with_reducible refine Work.modRslot ?_ .. | with_reducible refine Work.commit ?_ .. | split

theorem Work.publishAnswer {s0 s : State} (h : Work s0 s) (data : Option (List Word)) :
    Work s0 (Machine.publishAnswer data s) := by
  unfold Machine.publishAnswer
  try dsimp only
  repeat' first
    | with_reducible assumption | with_reducible exact Work.refl _ | with_reducible refine Work.publishFault ?_ ..
    | with_reducible refine Work.publishRead ?_ .. | split | with_reducible refine Work.recipe ?_ _

theorem Work.withdraw {s0 s : State} (h : Work s0 s) (tag : Half) (recipe : Byte) :
    Work s0 (Machine.withdraw tag recipe s) := by
  unfold Machine.withdraw
  try dsimp only
  repeat' first
    | with_reducible assumption | with_reducible exact Work.refl _ | with_reducible refine Work.complete ?_ ..
    | with_reducible refine Work.staleRecipe ?_ .. | with_reducible refine Work.modRslot ?_ .. | split

theorem Work.draftWritten {s0 s : State} (h : Work s0 s) (r : RecipeNo) :
    Work s0 (Machine.draftWritten r s) := by
  unfold Machine.draftWritten
  repeat' first
    | with_reducible assumption | with_reducible exact Work.refl _ | with_reducible refine Work.modRslot ?_ .. | split

theorem Work.quarantine {s0 s : State} (h : Work s0 s) (l : LineNo) (f : Fill) (v : Verdict) :
    Work s0 (Machine.quarantine l f v s) := by
  unfold Machine.quarantine
  repeat' first
    | with_reducible assumption | with_reducible exact Work.refl _ | with_reducible refine Work.raiseCall ?_ ..
    | with_reducible refine Work.modRslot ?_ .. | split

theorem Work.readerDone {s0 s : State} (h : Work s0 s) (r : RecipeNo) :
    Work s0 (Machine.readerDone r s) := by
  unfold Machine.readerDone
  try dsimp only
  repeat' first
    | with_reducible assumption | with_reducible exact Work.refl _ | with_reducible refine Work.modRslot ?_ ..
    | with_reducible refine Work.commit ?_ .. | split

theorem Mends.fillVerdict {s0 s : State} {l : LineNo} (h : Near l s0 s) (f : Fill) (v : Verdict) :
    Mends l s0 (Machine.fillVerdict l f v s) := by
  unfold Machine.fillVerdict
  dsimp only
  refine Mends.then ?_ ((Work.refl _).readerDone _)
  have hq : Near l s0 (if v = .good then s else Machine.quarantine l f v s) := by
    split
    · exact h
    · exact h.trans (((Work.refl _).quarantine ..).near l)
  split
  · exact Mends.setFill hq none (fun _ e => nomatch e)
  · split
    · next hv => rw [if_pos hv] at hq; exact Mends.fillGood hq f
    · next hv => rw [if_neg hv] at hq; exact Mends.fillBad hq f

/-- Taking a free value is work: the count of them is none of what the work leaves alone. -/
theorem Work.drawFree {s0 s : State} (h : Work s0 s) : Work s0 { s with freeCount := s.freeCount + 1 } :=
  h.trans (Work.ofParts rfl rfl rfl rfl rfl rfl rfl rfl (.same rfl rfl rfl rfl rfl))

theorem State.ReadAwaited.of_fillReadOut {s : State} {l : LineNo} (h : s.fillReadOut l = true) : s.ReadAwaited l := by
  obtain ⟨q, hq, hb⟩ := List.any_eq_true.mp h
  simp only [Bool.and_eq_true, beq_iff_eq, Bool.not_eq_true'] at hb
  exact ⟨q, hq, hb.1, hb.2⟩

theorem Mends.reportAbandoned {s0 s : State} {l : LineNo} (h : Near l s0 s) : Mends l s0 (Machine.reportAbandoned l s) := by
  unfold Machine.reportAbandoned
  split
  · next hf => exact ⟨h, fun ⟨g, hg, _⟩ => by rw [hf] at hg; cases hg⟩
  · next f hf =>
    split
    · next hc =>
        refine ⟨h, fun ⟨g, hg, ha, hs⟩ => ?_⟩
        rw [hf] at hg
        cases hg
        simp only [ha, hs, Bool.not_true, Bool.false_or] at hc
        exact .of_fillReadOut hc
    · split
      · exact Mends.fillVerdict h _ _
      · split
        · exact Mends.fillVerdict h _ _
        · exact Mends.fillVerdict (h.trans (((Work.refl s).drawFree).near l)) _ _

/-- R78, R102: after an answer to one of its reads a fill has ended, streams, or waits for a further answer. -/
theorem Mends.fillAnswer {s0 s : State} {l : LineNo} (h : Near l s0 s) (data : Option (List Word)) :
    Mends l s0 (Machine.fillAnswer l data s) := by
  unfold Machine.fillAnswer
  split
  · next hf => exact ⟨h, fun ⟨g, hg, _⟩ => by rw [hf] at hg; cases hg⟩
  · next f hf =>
    split
    · exact Mends.reportAbandoned (h.setFill _)
    · next hab =>
      split
      · refine Mends.fillVerdict (h.disregardIssued _ (fun k hk => ?_)) _ _
        simpa using hk
      · dsimp only
        split
        · exact Mends.setFill h _ (fun g hg ha => by cases hg; exact absurd ha hab)
        · exact Mends.fillVerdict h _ _


/-! ## Update -/

theorem Work.rejectImage {s0 s : State} (h : Work s0 s) (why : RejectReason) (found : Word) (stagedLen : Nat) :
    Work s0 (Machine.rejectImage why found stagedLen s) := by
  unfold Machine.rejectImage
  try dsimp only
  repeat' first
    | with_reducible assumption | with_reducible exact Work.refl _ | with_reducible refine Work.disregardIssued ?_ _ (fun _ => rfl)
    | with_reducible refine Work.modImage ?_ .. | with_reducible refine Work.endLong ?_ .. | split
    | with_reducible refine Work.update ?_ _

theorem Work.verifyImage {s0 s : State} (h : Work s0 s) (h : ImageHead) (stagedLen : Nat) :
    Work s0 (Machine.verifyImage h stagedLen s) := by
  unfold Machine.verifyImage
  try dsimp only
  repeat' first
    | with_reducible assumption | with_reducible exact Work.refl _ | with_reducible refine Work.modImage ?_ ..
    | with_reducible refine Work.endLong ?_ .. | split | with_reducible refine Work.update ?_ _

theorem Work.verifyAnswer {s0 s : State} (h : Work s0 s) (data : Option (List Word)) :
    Work s0 (Machine.verifyAnswer data s) := by
  unfold Machine.verifyAnswer
  try dsimp only
  repeat' first
    | with_reducible assumption | with_reducible exact Work.refl _ | with_reducible refine Work.rejectImage ?_ ..
    | with_reducible refine Work.verifyImage ?_ .. | split | with_reducible refine Work.update ?_ _

theorem Work.passUpdate {s0 s : State} (h : Work s0 s) (i : Slot) (o : UpdOutcome) (reported : Option Half) (blocks : Nat) (why : Option UpdReason) :
    Work s0 (Machine.passUpdate i o reported blocks why s) := by
  unfold Machine.passUpdate
  try dsimp only
  repeat' first
    | with_reducible assumption | with_reducible exact Work.refl _ | with_reducible refine Work.passJournal ?_ ..
    | split

theorem Work.markDone {s0 s : State} (h : Work s0 s) (i : Slot) :
    Work s0 (Machine.markDone i s) := by
  unfold Machine.markDone
  repeat' first
    | with_reducible assumption | with_reducible exact Work.refl _ | with_reducible refine Work.modRollout ?_ ..
    | split

theorem Work.markFailed {s0 s : State} (h : Work s0 s) (i : Slot) :
    Work s0 (Machine.markFailed i s) := by
  unfold Machine.markFailed
  repeat' first
    | with_reducible assumption | with_reducible exact Work.refl _ | with_reducible refine Work.modRollout ?_ ..
    | split

theorem Work.markSkipped {s0 s : State} (h : Work s0 s) (i : Slot) :
    Work s0 (Machine.markSkipped i s) := by
  unfold Machine.markSkipped
  repeat' first
    | with_reducible assumption | with_reducible exact Work.refl _ | with_reducible refine Work.modRollout ?_ ..
    | split

theorem Work.dropImageStream {s0 s : State} (h : Work s0 s) (i : Slot) :
    Work s0 (Machine.dropImageStream i s) := by
  unfold Machine.dropImageStream
  try dsimp only
  repeat' first
    | with_reducible assumption | with_reducible exact Work.refl _ | with_reducible refine Work.disregardIssued ?_ _ (fun _ => rfl)
    | with_reducible refine Work.modStream ?_ .. | with_reducible refine Work.removeStream ?_ .. | split
    | with_reducible refine Work.update ?_ _

theorem Work.leaveUpdating {s0 s : State} (h : Work s0 s) (i : Slot) (st : UpdState) :
    Work s0 (Machine.leaveUpdating i st s) := by
  unfold Machine.leaveUpdating
  repeat' first
    | with_reducible assumption | with_reducible exact Work.refl _ | with_reducible refine Work.toIdle ?_ ..
    | with_reducible refine Work.modUpd ?_ .. | split

theorem Work.failOven {s0 s : State} (h : Work s0 s) (i : Slot) (why : UpdReason) (block : Option Nat) (fourth : Option Word) (reported : Option Half) :
    Work s0 (Machine.failOven i why block fourth reported s) := by
  unfold Machine.failOven
  try dsimp only
  repeat' first
    | with_reducible assumption | with_reducible exact Work.refl _ | with_reducible refine Work.removeTelegrams ?_ ..
    | with_reducible refine Work.dropImageStream ?_ .. | with_reducible refine Work.markFailed ?_ ..
    | with_reducible refine Work.leaveUpdating ?_ .. | with_reducible refine Work.modUpd ?_ ..
    | with_reducible refine Work.raiseCall ?_ .. | with_reducible refine Work.raiseEvent ?_ ..
    | with_reducible refine Work.passUpdate ?_ .. | split

theorem Work.stopOven {s0 s : State} (h : Work s0 s) (i : Slot) :
    Work s0 (Machine.stopOven i s) := by
  unfold Machine.stopOven
  try dsimp only
  repeat' first
    | with_reducible assumption | with_reducible exact Work.refl _ | with_reducible refine Work.raiseEvent ?_ ..
    | with_reducible refine Work.passUpdate ?_ .. | with_reducible refine Work.markSkipped ?_ ..
    | with_reducible refine Work.leaveUpdating ?_ .. | with_reducible refine Work.dropImageStream ?_ .. | split

theorem Work.skipQueued {s0 s : State} (h : Work s0 s) (i : Slot) :
    Work s0 (Machine.skipQueued i s) := by
  unfold Machine.skipQueued
  repeat' first
    | with_reducible assumption | with_reducible exact Work.refl _ | with_reducible refine Work.raiseEvent ?_ ..
    | with_reducible refine Work.markSkipped ?_ .. | with_reducible refine Work.modUpd ?_ .. | split

theorem Work.failSuspended {s0 s : State} (h : Work s0 s) (i : Slot) :
    Work s0 (Machine.failSuspended i s) := by
  unfold Machine.failSuspended
  repeat' first
    | with_reducible assumption | with_reducible exact Work.refl _ | with_reducible refine Work.failOven ?_ .. | split

theorem Work.beginBlock {s0 s : State} (h : Work s0 s) (i : Slot) (n : Nat) :
    Work s0 (Machine.beginBlock i n s) := by
  unfold Machine.beginBlock
  try dsimp only
  repeat' first
    | with_reducible assumption | with_reducible exact Work.refl _ | with_reducible refine Work.modUpd ?_ .. | split
    | with_reducible refine Work.update ?_ _

theorem Work.takePick {s0 s : State} (h : Work s0 s) (l : LineNo) (i : Slot) :
    Work s0 (Machine.takePick l i s) := by
  unfold Machine.takePick
  try dsimp only
  repeat' first
    | with_reducible assumption | with_reducible exact Work.refl _
    | (with_reducible refine Work.modEnt ?_ _ _ (fun _ => by first | exact .same rfl rfl rfl | exact ⟨by simp [Entry.load], id⟩))
    | with_reducible refine Work.beginBlock ?_ .. | with_reducible refine Work.placeStream ?_ .. | split

theorem Work.pickOn {s0 s : State} (h : Work s0 s) (l : LineNo) :
    Work s0 (Machine.pickOn s l) := by
  unfold Machine.pickOn
  repeat' first
    | with_reducible assumption | with_reducible exact Work.refl _ | with_reducible refine Work.takePick ?_ .. | split

theorem Work.makePicks {s0 s : State} (h : Work s0 s) : Work s0 (Machine.makePicks s) :=
  h.trans (Work.foldl _ (fun s l => (Work.refl s).pickOn l) _ _)

theorem Work.endRollout {s0 s : State} (h : Work s0 s) :
    Work s0 (Machine.endRollout s) := by
  unfold Machine.endRollout
  try dsimp only
  repeat' first
    | with_reducible assumption | with_reducible exact Work.refl _ | with_reducible refine Work.endLong ?_ ..
    | with_reducible refine Work.modRollout ?_ .. | with_reducible refine Work.modImage ?_ .. | split

theorem Work.blockAnswer {s0 s : State} (h : Work s0 s) (i : Slot) (data : Option (List Word)) :
    Work s0 (Machine.blockAnswer i data s) := by
  unfold Machine.blockAnswer
  try dsimp only
  repeat' first
    | with_reducible assumption | with_reducible exact Work.refl _ | with_reducible refine Work.failOven ?_ ..
    | with_reducible refine Work.modUpd ?_ .. | with_reducible refine Work.modStream ?_ .. | split

theorem Work.imageBlockOutcome {s0 s : State} (h : Work s0 s) (l : LineNo) (i : Slot) (o : Outcome) :
    Work s0 (Machine.imageBlockOutcome l i o s) := by
  unfold Machine.imageBlockOutcome
  try dsimp only
  repeat' first
    | with_reducible assumption | with_reducible exact Work.refl _ | with_reducible refine Work.removeStream ?_ ..
    | with_reducible refine Work.stopOven ?_ .. | with_reducible refine Work.beginBlock ?_ ..
    | with_reducible refine Work.raiseEvent ?_ ..
    | with_reducible refine Work.modStream ?_ .. | with_reducible refine Work.sendTo ?_ ..
    | with_reducible refine Work.modUpd ?_ .. | with_reducible refine Work.failOven ?_ .. | split

theorem Work.switching {s0 s : State} (h : Work s0 s) (i : Slot) :
    Work s0 (Machine.switching i s) := by
  unfold Machine.switching
  exact h.modEnt i _ (fun _ => ⟨Nat.le_refl _, fun _ => DirDistinct.nil⟩)

theorem Work.switchOutcome {s0 s : State} (h : Work s0 s) (i : Slot) (o : Outcome) :
    Work s0 (Machine.switchOutcome i o s) := by
  unfold Machine.switchOutcome
  try dsimp only
  repeat' first
    | with_reducible assumption | with_reducible exact Work.refl _ | with_reducible refine Work.failOven ?_ ..
    | with_reducible refine Work.switching ?_ .. | split

theorem Work.askIdentity {s0 s : State} (h : Work s0 s) (i : Slot) :
    Work s0 (Machine.askIdentity i s) := by
  unfold Machine.askIdentity
  repeat' first
    | with_reducible assumption | with_reducible exact Work.refl _ | with_reducible refine Work.switching ?_ ..
    | with_reducible refine Work.sendTo ?_ .. | with_reducible refine Work.modUpd ?_ .. | split

theorem Work.setLevel {s0 s : State} (h : Work s0 s) (i : Slot) (level : Half) :
    Work s0 (Machine.setLevel i level s) := by
  unfold Machine.setLevel
  repeat' first
    | with_reducible assumption | with_reducible exact Work.refl _
    | (with_reducible refine Work.modEnt ?_ _ _ (fun _ => by first | exact .same rfl rfl rfl | exact ⟨by simp [Entry.load], id⟩)) | split

theorem Work.confirmOven {s0 s : State} (h : Work s0 s) (i : Slot) (reported : Half) :
    Work s0 (Machine.confirmOven i reported s) := by
  unfold Machine.confirmOven
  try dsimp only
  repeat' first
    | with_reducible assumption | with_reducible exact Work.refl _ | with_reducible refine Work.flushReduce ?_ ..
    | with_reducible refine Work.markDone ?_ .. | with_reducible refine Work.leaveUpdating ?_ ..
    | with_reducible refine Work.setLevel ?_ .. | with_reducible refine Work.raiseEvent ?_ ..
    | with_reducible refine Work.passUpdate ?_ .. | split

theorem Work.switchIdent {s0 s : State} (h : Work s0 s) (i : Slot) (o : Outcome) :
    Work s0 (Machine.switchIdent i o s) := by
  unfold Machine.switchIdent
  try dsimp only
  repeat' first
    | with_reducible assumption | with_reducible exact Work.refl _ | with_reducible refine Work.switching ?_ ..
    | with_reducible refine Work.failOven ?_ .. | with_reducible refine Work.setLevel ?_ ..
    | with_reducible refine Work.confirmOven ?_ .. | with_reducible refine Work.modUpd ?_ .. | split

theorem Work.haltOne {s0 s : State} (h : Work s0 s) (i : Slot) :
    Work s0 (Machine.haltOne s i) := by
  unfold Machine.haltOne
  try dsimp only
  repeat' first
    | with_reducible assumption | with_reducible exact Work.refl _ | with_reducible refine Work.markSkipped ?_ ..
    | with_reducible refine Work.modUpd ?_ .. | with_reducible refine Work.stopOven ?_ .. | split

theorem Work.rolloutHalt {s0 s : State} (h : Work s0 s) (tag : Half) : Work s0 (Machine.rolloutHalt tag s) := by
  have hf : Work s0 (slots.foldl Machine.haltOne s) := h.trans (Work.foldl _ (fun s i => (Work.refl s).haltOne i) _ _)
  unfold Machine.rolloutHalt
  dsimp only
  repeat' first
    | with_reducible assumption | with_reducible refine Work.complete ?_ .. | with_reducible refine Work.raiseEvent ?_ ..
    | with_reducible refine Work.modRollout ?_ .. | split


/-! ## Roster -/

theorem Work.markGone {s0 s : State} (h : Work s0 s) (i : Slot) : Work s0 (Machine.markGone i s) :=
  h.mapLines _ (fun _ => .same rfl rfl rfl)

theorem Work.vacate {s0 s : State} (h : Work s0 s) (i : Slot) (u : UpdRec) : Work s0 (Machine.vacate i u s) :=
  (((h.removeAborts i).removeTelegrams _).leaveSchedule i |>.markGone i).setEnt i _ ⟨Nat.zero_le _, fun _ => DirDistinct.nil⟩

theorem Work.failCommission {s0 s : State} (h : Work s0 s) (i : Slot) (r : ResultCode) (d1 : Word) (unassign : Bool) :
    Work s0 (Machine.failCommission i r d1 unassign s) := by
  unfold Machine.failCommission
  try dsimp only
  repeat' first
    | with_reducible assumption | with_reducible exact Work.refl _ | with_reducible refine Work.sendUnassign ?_ ..
    | with_reducible refine Work.endLong ?_ .. | with_reducible refine Work.vacate ?_ .. | split

theorem Work.enterInService {s0 s : State} (h : Work s0 s) (i : Slot) :
    Work s0 (Machine.enterInService i s) := by
  unfold Machine.enterInService
  try dsimp only
  repeat' first
    | with_reducible assumption | with_reducible exact Work.refl _
    | (with_reducible refine Work.modEnt ?_ _ _ (fun _ => by first | exact .same rfl rfl rfl | exact ⟨by simp [Entry.load], id⟩))
    | with_reducible refine Work.autoPlace ?_ .. | with_reducible refine Work.setCount ?_ ..
    | with_reducible refine Work.flushReduce ?_ .. | split

theorem Work.passCommission {s0 s : State} (h : Work s0 s) (i : Slot) (j : Job) (c : Cal) (errors : Option (Int × Int)) :
    Work s0 (Machine.passCommission i j c errors s) := by
  unfold Machine.passCommission
  try dsimp only
  repeat' first
    | with_reducible assumption | with_reducible exact Work.refl _ | with_reducible refine Work.passJournal ?_ ..
    | split

theorem Work.enterCalibrating {s0 s : State} (h : Work s0 s) (i : Slot) :
    Work s0 (Machine.enterCalibrating i s) := by
  unfold Machine.enterCalibrating
  repeat' first
    | with_reducible assumption | with_reducible exact Work.refl _ | with_reducible refine Work.sendTo ?_ ..
    | with_reducible refine Work.joinSchedule ?_ ..
    | (with_reducible refine Work.modEnt ?_ _ _ (fun _ => by first | exact .same rfl rfl rfl | exact ⟨by simp [Entry.load], id⟩)) | split

theorem Work.calFail {s0 s : State} (h : Work s0 s) (i : Slot) (errors : Option (Int × Int)) (why : CalEnd) :
    Work s0 (Machine.calFail i errors why s) := by
  unfold Machine.calFail
  try dsimp only
  repeat' first
    | with_reducible assumption | with_reducible exact Work.refl _ | with_reducible refine Work.leaveSchedule ?_ ..
    | (with_reducible refine Work.modEnt ?_ _ _ (fun _ => by first | exact .same rfl rfl rfl | exact ⟨by simp [Entry.load], id⟩))
    | with_reducible refine Work.endLong ?_ .. | with_reducible refine Work.raiseCall ?_ .. | split

theorem Work.calPass {s0 s : State} (h : Work s0 s) (i : Slot) (j : Job) (c : Cal) (e0 es : Int) :
    Work s0 (Machine.calPass i j c e0 es s) := by
  unfold Machine.calPass
  try dsimp only
  repeat' first
    | with_reducible assumption | with_reducible exact Work.refl _
    | (with_reducible refine Work.modEnt ?_ _ _ (fun _ => by first | exact .same rfl rfl rfl | exact ⟨by simp [Entry.load], id⟩))
    | with_reducible refine Work.enterInService ?_ .. | with_reducible refine Work.endLong ?_ ..
    | with_reducible refine Work.passCommission ?_ .. | split

theorem Work.judgeProbe {s0 s : State} (h : Work s0 s) (i : Slot) (rawLow rawHigh : Half) :
    Work s0 (Machine.judgeProbe i rawLow rawHigh s) := by
  unfold Machine.judgeProbe
  try dsimp only
  repeat' first
    | with_reducible assumption | with_reducible exact Work.refl _ | with_reducible refine Work.calPass ?_ ..
    | with_reducible refine Work.calFail ?_ .. | split

theorem Work.probeCheckOutcome {s0 s : State} (h : Work s0 s) (i : Slot) (o : Outcome) :
    Work s0 (Machine.probeCheckOutcome i o s) := by
  unfold Machine.probeCheckOutcome
  repeat' first
    | with_reducible assumption | with_reducible exact Work.refl _ | with_reducible refine Work.calFail ?_ .. | split

theorem Work.pairOutcome {s0 s : State} (h : Work s0 s) (i : Slot) (o : Outcome) :
    Work s0 (Machine.pairOutcome i o s) := by
  unfold Machine.pairOutcome
  generalize (s.ent i).state = st
  generalize (s.ent i).job = jb
  have h1 : ∀ j : Job, ∀ serial, Work s0 (s.modEnt i fun e => { e with pairing := false, job := some { j with kept := serial } }) :=
    fun j serial => h.modEnt _ _ (fun _ => .same rfl rfl rfl)
  cases jb with
  | none => cases st <;> exact h
  | some j =>
    cases st <;> first | exact h | skip
    cases o with
    | failed d => cases d <;> exact h.failCommission ..
    | valid r =>
      cases r with
      | pair serial =>
        dsimp only
        split
        · exact (h1 j serial).failCommission ..
        · exact ((h1 j serial).sendConfirm ..).joinSchedule ..
      | ack => exact h.failCommission ..
      | nak _ => exact h.failCommission ..
      | ident _ => exact h.failCommission ..
      | status _ => exact h.failCommission ..

theorem Work.confirmOutcome {s0 s : State} (h : Work s0 s) (i : Slot) (o : Outcome) :
    Work s0 (Machine.confirmOutcome i o s) := by
  unfold Machine.confirmOutcome
  split
  · refine Work.sendTo ?_ ..
    exact h.modEnt _ _ (fun _ => .same rfl rfl rfl)
  · exact h.failCommission ..
  · exact h

theorem Work.restored {s0 s : State} (h : Work s0 s) (i : Slot) (j : Job) (d : IdentReply) :
    Work s0 (Machine.restored i j d s) := by
  unfold Machine.restored
  try dsimp only
  repeat' first
    | with_reducible assumption | with_reducible exact Work.refl _ | with_reducible refine Work.setCount ?_ ..
    | (with_reducible refine Work.modEnt ?_ _ _ (fun _ => by first | exact .same rfl rfl rfl | exact ⟨by simp [Entry.load], id⟩))
    | with_reducible refine Work.adopt ?_ .. | with_reducible refine Work.enterInService ?_ ..
    | with_reducible refine Work.endLong ?_ .. | with_reducible refine Work.passCommission ?_ .. | split

theorem Work.judgeIdent {s0 s : State} (h : Work s0 s) (i : Slot) (j : Job) (d : IdentReply) :
    Work s0 (Machine.judgeIdent i j d s) := by
  unfold Machine.judgeIdent
  repeat' first
    | with_reducible assumption | with_reducible exact Work.refl _ | with_reducible refine Work.failCommission ?_ ..
    | (with_reducible refine Work.modEnt ?_ _ _ (fun _ => by first | exact .same rfl rfl rfl | exact ⟨by simp [Entry.load], id⟩))
    | with_reducible refine Work.restored ?_ .. | with_reducible refine Work.enterCalibrating ?_ .. | split

theorem Work.suspendActivity {s0 s : State} (h : Work s0 s) (i : Slot) (c : StopCause) :
    Work s0 (Machine.suspendActivity i c s) := by
  unfold Machine.suspendActivity
  have hl : ((Machine.reduceDirectory i s).ent i).line = (s.ent i).line := by
    rw [Machine.reduceDirectory, State.ent_modEnt_self]; rfl
  repeat' first
    | exact (Mends.reportAbandoned (hl ▸ Near.abandonStart (h.reduceDirectory i) i)).work
    | with_reducible assumption | with_reducible exact Work.refl _ | with_reducible refine Work.failSuspended ?_ ..
    | with_reducible refine Work.queueRosterAbort ?_ .. | with_reducible refine Work.closeCookUnknown ?_ ..
    | with_reducible refine Work.closeCleaningUnknown ?_ .. | split

theorem Work.suspend {s0 s : State} (h : Work s0 s) (i : Slot) (c : StopCause) :
    Work s0 (Machine.suspend i c s) := by
  unfold Machine.suspend
  try dsimp only
  repeat' first
    | with_reducible assumption | with_reducible exact Work.refl _
    | (with_reducible refine Work.modEnt ?_ _ _ (fun _ => by first | exact .same rfl rfl rfl | exact ⟨by simp [Entry.load], id⟩))
    | with_reducible refine Work.skipQueued ?_ .. | with_reducible refine Work.reduceDirectory ?_ ..
    | with_reducible refine Work.leaveCleaning ?_ .. | with_reducible refine Work.suspendActivity ?_ .. | split

theorem Work.addFaultCause {s0 s : State} (h : Work s0 s) (i : Slot) :
    Work s0 (Machine.addFaultCause i s) := by
  unfold Machine.addFaultCause
  try dsimp only
  repeat' first
    | with_reducible assumption | with_reducible exact Work.refl _
    | (with_reducible refine Work.modEnt ?_ _ _ (fun _ => by first | exact .same rfl rfl rfl | exact ⟨by simp [Entry.load], id⟩))
    | with_reducible refine Work.queueRosterAbort ?_ .. | split

theorem Work.returnToSuspended {s0 s : State} (h : Work s0 s) (i : Slot) (c : StopCause) :
    Work s0 (Machine.returnToSuspended i c s) := by
  unfold Machine.returnToSuspended
  repeat' first
    | with_reducible assumption | with_reducible exact Work.refl _ | with_reducible refine Work.reduceDirectory ?_ ..
    | with_reducible refine Work.leaveCleaning ?_ ..
    | (with_reducible refine Work.modEnt ?_ _ _ (fun _ => by first | exact .same rfl rfl rfl | exact ⟨by simp [Entry.load], id⟩)) | split

theorem Work.voidIdent {s0 s : State} (h : Work s0 s) (i : Slot) : Work s0 (Machine.voidIdent i s) :=
  h.mapLines _ (fun _ => ⟨fun hx => ⟨by simpa using hx.size, fun hl => by simpa using hx.turn (by simpa using hl)⟩, id⟩)

theorem Work.revalidated {s0 s : State} (h : Work s0 s) (i : Slot) (d : IdentReply) :
    Work s0 (Machine.revalidated i d s) := by
  unfold Machine.revalidated
  try dsimp only
  repeat' first
    | with_reducible assumption | with_reducible exact Work.refl _
    | (with_reducible refine Work.modEnt ?_ _ _ (fun _ => by first | exact .same rfl rfl rfl | exact ⟨by simp [Entry.load], id⟩))
    | with_reducible refine Work.enterInService ?_ .. | with_reducible refine Work.adopt ?_ .. | split

theorem Work.revalidateOutcome {s0 s : State} (h : Work s0 s) (i : Slot) (o : Outcome) :
    Work s0 (Machine.revalidateOutcome i o s) := by
  unfold Machine.revalidateOutcome
  try dsimp only
  repeat' first
    | with_reducible assumption | with_reducible exact Work.refl _ | with_reducible refine Work.raiseCall ?_ ..
    | with_reducible refine Work.returnToSuspended ?_ ..
    | (with_reducible refine Work.modEnt ?_ _ _ (fun _ => by first | exact .same rfl rfl rfl | exact ⟨by simp [Entry.load], id⟩))
    | with_reducible refine Work.revalidated ?_ .. | split

theorem Work.identOutcome {s0 s : State} (h : Work s0 s) (i : Slot) (void : Bool) (o : Outcome) :
    Work s0 (Machine.identOutcome i void o s) := by
  unfold Machine.identOutcome
  repeat' first
    | with_reducible assumption | with_reducible exact Work.refl _ | with_reducible refine Work.judgeIdent ?_ ..
    | with_reducible refine Work.failCommission ?_ .. | with_reducible refine Work.revalidateOutcome ?_ .. | split

theorem Work.rosterAbortOutcome {s0 s : State} (h : Work s0 s) (i : Slot) (o : Outcome) :
    Work s0 (Machine.rosterAbortOutcome i o s) := by
  unfold Machine.rosterAbortOutcome
  repeat' first
    | with_reducible assumption | with_reducible exact Work.refl _
    | (with_reducible refine Work.modEnt ?_ _ _ (fun _ => by first | exact .same rfl rfl rfl | exact ⟨by simp [Entry.load], id⟩)) | split

theorem Work.calBusyNotice {s0 s : State} (h : Work s0 s) (i : Slot) :
    Work s0 (Machine.calBusyNotice i s) := by
  unfold Machine.calBusyNotice
  repeat' first
    | with_reducible assumption | with_reducible exact Work.refl _
    | (with_reducible refine Work.modEnt ?_ _ _ (fun _ => by first | exact .same rfl rfl rfl | exact ⟨by simp [Entry.load], id⟩))
    | with_reducible refine Work.raiseProtocol ?_ .. | split

theorem Work.probeResultNotice {s0 s : State} (h : Work s0 s) (i : Slot) (rawLow rawHigh : Half) :
    Work s0 (Machine.probeResultNotice i rawLow rawHigh s) := by
  unfold Machine.probeResultNotice
  repeat' first
    | with_reducible assumption | with_reducible exact Work.refl _ | with_reducible refine Work.judgeProbe ?_ ..
    | with_reducible refine Work.raiseProtocol ?_ .. | split

theorem Work.faultNotice {s0 s : State} (h : Work s0 s) (i : Slot) (cls : Severity) (codes : List Half) :
    Work s0 (Machine.faultNotice i cls codes s) := by
  unfold Machine.faultNotice
  try dsimp only
  repeat' first
    | with_reducible assumption | with_reducible exact Work.refl _ | with_reducible refine Work.raiseCall ?_ ..
    | with_reducible refine Work.suspend ?_ .. | with_reducible refine Work.addFaultCause ?_ ..
    | with_reducible refine Work.calFail ?_ .. | with_reducible refine Work.voidIdent ?_ ..
    | with_reducible refine Work.returnToSuspended ?_ .. | split

theorem Work.silenceExpired {s0 s : State} (h : Work s0 s) (i : Slot) :
    Work s0 (Machine.silenceExpired i s) := by
  unfold Machine.silenceExpired
  try dsimp only
  repeat' first
    | with_reducible assumption | with_reducible exact Work.refl _
    | (with_reducible refine Work.modEnt ?_ _ _ (fun _ => by first | exact .same rfl rfl rfl | exact ⟨by simp [Entry.load], id⟩))
    | with_reducible refine Work.switching ?_ .. | with_reducible refine Work.suspend ?_ ..
    | with_reducible refine Work.raiseCall ?_ .. | with_reducible refine Work.closeCookUnknown ?_ ..
    | with_reducible refine Work.closeCleaningUnknown ?_ .. | split

theorem Work.switchExpired {s0 s : State} (h : Work s0 s) (i : Slot) :
    Work s0 (Machine.switchExpired i s) := by
  unfold Machine.switchExpired
  try dsimp only
  repeat' first
    | with_reducible assumption | with_reducible exact Work.refl _ | with_reducible refine Work.suspend ?_ ..
    | with_reducible refine Work.raiseCall ?_ .. | with_reducible refine Work.failOven ?_ .. | split

theorem Work.identResendExpired {s0 s : State} (h : Work s0 s) (i : Slot) :
    Work s0 (Machine.identResendExpired i s) := by
  unfold Machine.identResendExpired
  try dsimp only
  repeat' first
    | with_reducible assumption | with_reducible exact Work.refl _
    | (with_reducible refine Work.modEnt ?_ _ _ (fun _ => by first | exact .same rfl rfl rfl | exact ⟨by simp [Entry.load], id⟩))
    | with_reducible refine Work.sendTo ?_ .. | split

theorem Work.retire {s0 s : State} (h : Work s0 s) (tag : Half) (slot : Byte) :
    Work s0 (Machine.retire tag slot s) := by
  unfold Machine.retire
  try dsimp only
  repeat' first
    | with_reducible assumption | with_reducible exact Work.refl _ | with_reducible refine Work.complete ?_ ..
    | with_reducible refine Work.sendUnassign ?_ .. | with_reducible refine Work.skipQueued ?_ ..
    | with_reducible refine Work.leaveCleaning ?_ .. | with_reducible refine Work.vacate ?_ ..
    | with_reducible refine Work.removeCallsOf ?_ .. | split

theorem Work.release {s0 s : State} (h : Work s0 s) (tag : Half) (slot : Byte) :
    Work s0 (Machine.release tag slot s) := by
  unfold Machine.release
  try dsimp only
  repeat' first
    | with_reducible assumption | with_reducible exact Work.refl _ | with_reducible refine Work.complete ?_ ..
    | with_reducible refine Work.sendTo ?_ ..
    | (with_reducible refine Work.modEnt ?_ _ _ (fun _ => by first | exact .same rfl rfl rfl | exact ⟨by simp [Entry.load], id⟩)) | split


/-! ## Lines -/

theorem Work.beginTransaction {s0 s : State} (h : Work s0 s) (l : LineNo) (q : Queued) :
    Work s0 (Machine.beginTransaction l q s) := by
  unfold Machine.beginTransaction
  repeat' first
    | with_reducible assumption | with_reducible exact Work.refl _
    | (with_reducible refine Work.modLn ?_ _ _ (fun _ => by first | exact .same rfl rfl rfl | (dsimp only; split <;> exact .same rfl rfl rfl)))
    | split

theorem Work.identBegins {s0 s : State} (h : Work s0 s) (q : Queued) :
    Work s0 (Machine.identBegins q s) := by
  unfold Machine.identBegins
  repeat' first
    | with_reducible assumption | with_reducible exact Work.refl _
    | (with_reducible refine Work.modEnt ?_ _ _ (fun _ => by first | exact .same rfl rfl rfl | exact ⟨by simp [Entry.load], id⟩)) | split

theorem Work.takeUrgent {s0 s : State} (h : Work s0 s) (l : LineNo) (q : Queued) (rest : List Queued)
    (hq : (s.ln l).urgent = q :: rest) : Work s0 (Machine.takeUrgent l q rest s) := by
  refine Work.identBegins (Work.beginTransaction (h.trans ?_) _ _) _
  refine ⟨rfl, id, id, id, fun hu k => ?_, id, id, List.Sublist.refl _, fun _ => Nat.le_refl _, fun k ha ho => ha ?_,
    .same rfl rfl rfl rfl rfl⟩
  swap
  · rw [State.ln_modLn] at ho
    split at ho
    · next hk => rw [hk]; exact ho
    · exact ho
  rw [State.ln_modLn]
  split
  · have hs := (hu l).size
    have ht := (hu l).turn
    rw [hq] at hs ht
    simp only [List.length_cons] at hs ht
    refine ⟨by simp only [List.length_append, List.length_take]; omega, fun hl => ?_⟩
    simp only [List.length_append, List.length_take] at hl
    by_cases hr : rest.length + 1 < 16
    · simp [ht hr]
    · exact List.drop_eq_nil_of_le (by omega)
  · exact hu k

theorem Work.beginPoll {s0 s : State} (h : Work s0 s) (l : LineNo) (i : Slot) :
    Work s0 (Machine.beginPoll l i s) := by
  unfold Machine.beginPoll
  try dsimp only
  repeat' first
    | with_reducible assumption | with_reducible exact Work.refl _ | with_reducible refine Work.beginTransaction ?_ ..
    | (with_reducible refine Work.modLn ?_ _ _ (fun _ => by first | exact .same rfl rfl rfl | (dsimp only; split <;> exact .same rfl rfl rfl)))
    | split

theorem Work.beginBlockTelegram {s0 s : State} (h : Work s0 s) (l : LineNo) (x : Stream) (t : Telegram) :
    Work s0 (Machine.beginBlockTelegram l x t s) := by
  unfold Machine.beginBlockTelegram
  try dsimp only
  repeat' first
    | with_reducible assumption | with_reducible exact Work.refl _ | with_reducible refine Work.beginTransaction ?_ ..
    | with_reducible refine Work.modStream ?_ .. | split

theorem Work.scheduleNext {s0 s : State} (h : Work s0 s) (l : LineNo) : Work s0 (Machine.scheduleNext l s) := by
  unfold Machine.scheduleNext
  dsimp only
  split
  · next hq => exact h.takeUrgent _ _ _ hq
  · repeat' first
      | with_reducible assumption | with_reducible refine Work.beginPoll ?_ ..
      | with_reducible refine Work.beginBlockTelegram ?_ .. | split

theorem Work.schedulerChoice {s0 s : State} (h : Work s0 s) (l : LineNo) :
    Work s0 (Machine.schedulerChoice l s) := by
  unfold Machine.schedulerChoice
  repeat' first
    | with_reducible assumption | with_reducible exact Work.refl _ | with_reducible refine Work.scheduleNext ?_ ..
    | split

theorem Work.setDue {s0 s : State} (h : Work s0 s) (overdue : Bool) (i : Slot) : Work s0 (Machine.setDue overdue i s) :=
  h.mapLines _ (fun _ => .same rfl rfl rfl)

theorem Work.liveness {s0 s : State} (h : Work s0 s) (i : Slot) (valid : Bool) :
    Work s0 (Machine.liveness i valid s) := by
  unfold Machine.liveness
  try dsimp only
  repeat' first
    | with_reducible assumption | with_reducible exact Work.refl _
    | (with_reducible refine Work.modEnt ?_ _ _ (fun _ => by first | exact .same rfl rfl rfl | exact ⟨by simp [Entry.load], id⟩))
    | with_reducible refine Work.raiseEvent ?_ .. | split

theorem Work.takeNotice {s0 s : State} (h : Work s0 s) (i : Slot) (n : Notice) :
    Work s0 (Machine.takeNotice i n s) := by
  unfold Machine.takeNotice
  repeat' first
    | with_reducible assumption | with_reducible exact Work.refl _ | with_reducible refine Work.startRequest ?_ ..
    | with_reducible refine Work.cleanRequest ?_ .. | with_reducible refine Work.cookNotice ?_ ..
    | with_reducible refine Work.cleanPhase ?_ .. | with_reducible refine Work.cleanPhaseNotice ?_ ..
    | with_reducible refine Work.cleanEndNotice ?_ .. | with_reducible refine Work.faultNotice ?_ ..
    | with_reducible refine Work.calBusyNotice ?_ .. | with_reducible refine Work.probeResultNotice ?_ .. | split

theorem Work.acceptNotice {s0 s : State} (h : Work s0 s) (i : Slot) (t : Bool) (n : Notice) :
    Work s0 (Machine.acceptNotice i t n s) := by
  unfold Machine.acceptNotice
  repeat' first
    | with_reducible assumption | with_reducible exact Work.refl _ | with_reducible refine Work.takeNotice ?_ ..
    | (with_reducible refine Work.modEnt ?_ _ _ (fun _ => by first | exact .same rfl rfl rfl | exact ⟨by simp [Entry.load], id⟩)) | split

theorem Work.takeReadings {s0 s : State} (h : Work s0 s) (i : Slot) (r : StatusReply) :
    Work s0 (Machine.takeReadings i r s) := by
  unfold Machine.takeReadings
  try dsimp only
  repeat' first
    | with_reducible assumption | with_reducible exact Work.refl _
    | (with_reducible refine Work.modEnt ?_ _ _ (fun _ => by first | exact .same rfl rfl rfl | exact ⟨by simp [Entry.load], id⟩)) | split

theorem Work.takeStatus {s0 s : State} (h : Work s0 s) (i : Slot) (r : StatusReply) :
    Work s0 (Machine.takeStatus i r s) := by
  unfold Machine.takeStatus
  try dsimp only
  repeat' first
    | with_reducible assumption | with_reducible exact Work.refl _ | with_reducible refine Work.resendEvictions ?_ ..
    | with_reducible refine Work.resendFlush ?_ .. | with_reducible refine Work.takeReadings ?_ ..
    | with_reducible refine Work.setIdleWait ?_ .. | with_reducible refine Work.acceptNotice ?_ .. | split

theorem Work.deliverTo {s0 s : State} (h : Work s0 s) (l : LineNo) (q : Queued) (i : Slot) (o : Outcome) :
    Work s0 (Machine.deliverTo l q i o s) := by
  unfold Machine.deliverTo
  repeat' first
    | with_reducible assumption | with_reducible exact Work.refl _ | with_reducible refine Work.takeStatus ?_ ..
    | with_reducible refine Work.switchIdent ?_ .. | with_reducible refine Work.identOutcome ?_ ..
    | with_reducible refine Work.probeCheckOutcome ?_ .. | with_reducible refine Work.fillBlockOutcome ?_ ..
    | with_reducible refine Work.evictOutcome ?_ .. | with_reducible refine Work.flushOutcome ?_ ..
    | with_reducible refine Work.grantOutcome ?_ .. | with_reducible refine Work.abortOutcome ?_ ..
    | with_reducible refine Work.rosterAbortOutcome ?_ .. | with_reducible refine Work.cleanGoOutcome ?_ ..
    | with_reducible refine Work.imageBlockOutcome ?_ .. | with_reducible refine Work.switchOutcome ?_ .. | split

theorem Work.deliverGone {s0 s : State} (h : Work s0 s) (l : LineNo) (q : Queued) (i : Slot) (o : Outcome) :
    Work s0 (Machine.deliverGone l q i o s) := by
  unfold Machine.deliverGone
  repeat' first
    | with_reducible assumption | with_reducible exact Work.refl _ | with_reducible refine Work.abortOutcome ?_ ..
    | with_reducible refine Work.endFillStream ?_ .. | with_reducible refine Work.removeStream ?_ .. | split

theorem Work.deliverUntargeted {s0 s : State} (h : Work s0 s) (q : Queued) (o : Outcome) :
    Work s0 (Machine.deliverUntargeted q o s) := by
  unfold Machine.deliverUntargeted
  repeat' first
    | with_reducible assumption | with_reducible exact Work.refl _ | with_reducible refine Work.pairOutcome ?_ ..
    | with_reducible refine Work.confirmOutcome ?_ .. | split

theorem Work.deliver {s0 s : State} (h : Work s0 s) (l : LineNo) (t : Transaction) (o : Outcome) :
    Work s0 (Machine.deliver l t o s) := by
  unfold Machine.deliver
  try dsimp only
  repeat' first
    | with_reducible assumption | with_reducible exact Work.refl _
    | with_reducible refine Work.deliverUntargeted ?_ .. | with_reducible refine Work.deliverGone ?_ ..
    | with_reducible refine Work.deliverTo ?_ .. | with_reducible refine Work.liveness ?_ ..
    | with_reducible refine Work.switching ?_ .. | with_reducible refine Work.askIdentity ?_ .. | split

theorem Work.endTransaction {s0 s : State} (h : Work s0 s) (l : LineNo) (t : Transaction) (o : Outcome) :
    Work s0 (Machine.endTransaction l t o s) := by
  unfold Machine.endTransaction
  repeat' first
    | with_reducible assumption | with_reducible exact Work.refl _ | with_reducible refine Work.deliver ?_ ..
    | (with_reducible refine Work.modLn ?_ _ _ (fun _ => by first | exact .same rfl rfl rfl | (dsimp only; split <;> exact .same rfl rfl rfl)))
    | split

theorem Work.attemptEnds {s0 s : State} (h : Work s0 s) (l : LineNo) (t : Transaction) :
    Work s0 (Machine.attemptEnds l t s) := by
  unfold Machine.attemptEnds
  repeat' first
    | with_reducible assumption | with_reducible exact Work.refl _
    | (with_reducible refine Work.modLn ?_ _ _ (fun _ => by first | exact .same rfl rfl rfl | (dsimp only; split <;> exact .same rfl rfl rfl)))
    | with_reducible refine Work.endTransaction ?_ .. | split

theorem Work.damagedReply {s0 s : State} (h : Work s0 s) (l : LineNo) (t : Transaction) :
    Work s0 (Machine.damagedReply l t s) := by
  unfold Machine.damagedReply
  repeat' first
    | with_reducible assumption | with_reducible exact Work.refl _
    | (with_reducible refine Work.modLn ?_ _ _ (fun _ => by first | exact .same rfl rfl rfl | (dsimp only; split <;> exact .same rfl rfl rfl)))
    | split

theorem Work.transmitEnd {s0 s : State} (h : Work s0 s) (l : LineNo) :
    Work s0 (Machine.transmitEnd l s) := by
  unfold Machine.transmitEnd
  repeat' first
    | with_reducible assumption | with_reducible exact Work.refl _
    | (with_reducible refine Work.modLn ?_ _ _ (fun _ => by first | exact .same rfl rfl rfl | (dsimp only; split <;> exact .same rfl rfl rfl)))
    | split

theorem Work.replyStarts {s0 s : State} (h : Work s0 s) (l : LineNo) :
    Work s0 (Machine.replyStarts l s) := by
  unfold Machine.replyStarts
  repeat' first
    | with_reducible assumption | with_reducible exact Work.refl _
    | (with_reducible refine Work.modLn ?_ _ _ (fun _ => by first | exact .same rfl rfl rfl | (dsimp only; split <;> exact .same rfl rfl rfl)))
    | split

theorem Work.replyReceived {s0 s : State} (h : Work s0 s) (l : LineNo) (chars : List RawChar) :
    Work s0 (Machine.replyReceived l chars s) := by
  unfold Machine.replyReceived
  try dsimp only
  repeat' first
    | with_reducible assumption | with_reducible exact Work.refl _ | with_reducible refine Work.replyStarts ?_ ..
    | with_reducible refine Work.damagedReply ?_ .. | with_reducible refine Work.endTransaction ?_ .. | split

theorem Work.gapExpired {s0 s : State} (h : Work s0 s) (l : LineNo) :
    Work s0 (Machine.gapExpired l s) := by
  unfold Machine.gapExpired
  repeat' first
    | with_reducible assumption | with_reducible exact Work.refl _ | with_reducible refine Work.damagedReply ?_ ..
    | split

theorem Work.windowExpired {s0 s : State} (h : Work s0 s) (l : LineNo) :
    Work s0 (Machine.windowExpired l s) := by
  unfold Machine.windowExpired
  repeat' first
    | with_reducible assumption | with_reducible exact Work.refl _ | with_reducible refine Work.attemptEnds ?_ ..
    | split

theorem Work.quietStart {s0 s : State} (h : Work s0 s) (l : LineNo) :
    Work s0 (Machine.quietStart l s) := by
  unfold Machine.quietStart
  repeat' first
    | with_reducible assumption | with_reducible exact Work.refl _
    | (with_reducible refine Work.modLn ?_ _ _ (fun _ => by first | exact .same rfl rfl rfl | (dsimp only; split <;> exact .same rfl rfl rfl)))
    | split

theorem Work.quietEnd {s0 s : State} (h : Work s0 s) (l : LineNo) :
    Work s0 (Machine.quietEnd l s) := by
  unfold Machine.quietEnd
  repeat' first
    | with_reducible assumption | with_reducible exact Work.refl _ | with_reducible refine Work.attemptEnds ?_ ..
    | split

theorem Work.turnaroundEnd {s0 s : State} (h : Work s0 s) (l : LineNo) :
    Work s0 (Machine.turnaroundEnd l s) := by
  unfold Machine.turnaroundEnd
  repeat' first
    | with_reducible assumption | with_reducible exact Work.refl _
    | (with_reducible refine Work.modLn ?_ _ _ (fun _ => by first | exact .same rfl rfl rfl | (dsimp only; split <;> exact .same rfl rfl rfl)))
    | split

theorem Work.testStart {s0 s : State} (h : Work s0 s) (l : LineNo) :
    Work s0 (Machine.testStart l s) := by
  unfold Machine.testStart
  repeat' first
    | with_reducible assumption | with_reducible exact Work.refl _
    | (with_reducible refine Work.modLn ?_ _ _ (fun _ => by first | exact .same rfl rfl rfl | (dsimp only; split <;> exact .same rfl rfl rfl)))
    | split

theorem Work.testEnds {s0 s : State} (h : Work s0 s) (l : LineNo) (n : Nat) (f : FirstFault) :
    Work s0 (Machine.testEnds l n f s) := by
  unfold Machine.testEnds
  repeat' first
    | with_reducible assumption | with_reducible exact Work.refl _ | with_reducible refine Work.endLong ?_ ..
    | (with_reducible refine Work.modLn ?_ _ _ (fun _ => by first | exact .same rfl rfl rfl | (dsimp only; split <;> exact .same rfl rfl rfl)))
    | split

theorem Work.testHeard {s0 s : State} (h : Work s0 s) (l : LineNo) (chars : List RawChar) :
    Work s0 (Machine.testHeard l chars s) := by
  unfold Machine.testHeard
  try dsimp only
  repeat' first
    | with_reducible assumption | with_reducible exact Work.refl _ | with_reducible refine Work.testEnds ?_ .. | split

theorem Work.testWindow {s0 s : State} (h : Work s0 s) (l : LineNo) (chars : List RawChar) :
    Work s0 (Machine.testWindow l chars s) := by
  unfold Machine.testWindow
  try dsimp only
  repeat' first
    | with_reducible assumption | with_reducible exact Work.refl _ | with_reducible refine Work.testEnds ?_ .. | split


/-! ## Path -/

theorem Work.postedAnswer {s0 s : State} (h : Work s0 s) (q : Issued) (data : Option (List Word)) :
    Work s0 (Machine.postedAnswer q data s) := by
  unfold Machine.postedAnswer
  repeat' first
    | with_reducible assumption | with_reducible exact Work.refl _ | with_reducible refine Work.raiseCall ?_ ..
    | split


/-! ## Software -/

theorem Work.openProfile {s0 s : State} (h : Work s0 s) (tag : Half) : Work s0 (Machine.openProfile tag s) := by
  unfold Machine.openProfile
  dsimp only
  split
  · exact h.complete ..
  · refine Work.complete ?_ ..
    exact h.trans (Work.ofParts rfl rfl rfl rfl rfl rfl rfl rfl (.same rfl rfl rfl rfl rfl))


/-! ## Events -/

theorem Work.calLimitExpired {s0 s : State} (h : Work s0 s) (i : Slot) :
    Work s0 (Machine.calLimitExpired i s) := by
  unfold Machine.calLimitExpired
  repeat' first
    | with_reducible assumption | with_reducible exact Work.refl _ | with_reducible refine Work.calFail ?_ .. | split

theorem Work.switchLimitExpired {s0 s : State} (h : Work s0 s) (i : Slot) :
    Work s0 (Machine.switchLimitExpired i s) := by
  unfold Machine.switchLimitExpired
  repeat' first
    | with_reducible assumption | with_reducible exact Work.refl _ | with_reducible refine Work.switching ?_ ..
    | with_reducible refine Work.switchExpired ?_ .. | split

end Sys2Proof.Machine
end

