-- ==== Sys2Proof/Laws/Event.lean ====
section
/-! SUPPORT. What an event ends with: registrations, claims and the rollout's end keep everything that the owners' work keeps, and
the cleaning capacity within the profile's limit; the counters and the rewrite list are all that `finish` changes. -/

namespace Sys2Proof.Machine

/-- `Work` without the clause about the cleaning capacity. -/
structure Keeps (s t : State) : Prop where
  outer   : t.outer = s.outer
  calls   : s.service.calls.length ≤ 32 → t.service.calls.length ≤ 32
  keys    : s.CallKeysDistinct → t.CallKeysDistinct
  journal : s.report.journal.length ≤ 8 → t.report.journal.length ≤ 8
  urgent  : (∀ l : LineNo, (s.ln l).Fits) → ∀ l : LineNo, (t.ln l).Fits
  dirs    : s.DirsDistinct → t.DirsDistinct
  queue   : s.QueuedOnce → t.QueuedOnce
  longs   : t.command.longs.Sublist s.command.longs
  fills   : ∀ l : LineNo, s.FillAwaited l → t.FillAwaited l
  owes    : Owes s t

theorem Work.keeps {s t : State} (h : Work s t) : Keeps s t :=
  ⟨h.outer, h.calls, h.keys, h.journal, h.urgent, h.dirs, h.queue, h.longs, h.fills, h.owes⟩

theorem Keeps.refl (s : State) : Keeps s s := (Work.refl s).keeps

theorem Keeps.trans {s t u : State} (h : Keeps s t) (k : Keeps t u) : Keeps s u :=
  ⟨k.outer.trans h.outer, k.calls ∘ h.calls, k.keys ∘ h.keys, k.journal ∘ h.journal, k.urgent ∘ h.urgent, k.dirs ∘ h.dirs,
    k.queue ∘ h.queue, k.longs.trans h.longs, fun l => k.fills l ∘ h.fills l, h.owes.trans k.owes⟩

theorem Keeps.profile {s t : State} (h : Keeps s t) : t.profile = s.profile := congrArg Outer.profile h.outer

theorem Keeps.mode {s t : State} (h : Keeps s t) : t.mode = s.mode := congrArg Outer.mode h.outer

/-! ## The capacity in use (R123) -/

/-- The sum of what the entries of some slots take of the cleaning capacity. -/
def State.loadOf (s : State) (l : List Slot) : Nat := (l.map (fun i => (s.ent i).load)).sum

theorem countP_add_countP (s : State) (l : List Slot) :
    l.countP (fun i => (s.ent i).activity == .cleaning) + l.countP (fun i => (s.ent i).offerOut) = s.loadOf l := by
  induction l with
  | nil => rfl
  | cons a t ih =>
    have hl : s.loadOf (a :: t) = (s.ent a).load + s.loadOf t := rfl
    rw [hl, ← ih, List.countP_cons, List.countP_cons]
    simp only [Entry.load, beq_iff_eq]
    omega

theorem State.capacityInUse_eq (s : State) : s.capacityInUse = s.loadOf slots := countP_add_countP s slots

theorem State.loadOf_le {s t : State} (h : ∀ i : Slot, (t.ent i).load ≤ (s.ent i).load) (l : List Slot) :
    t.loadOf l ≤ s.loadOf l := by
  induction l with
  | nil => exact Nat.le_refl _
  | cons a r ih => exact Nat.add_le_add (h a) ih

/-- Work never adds to the capacity in use. -/
theorem Work.capacity {s t : State} (h : Work s t) : t.capacityInUse ≤ s.capacityInUse := by
  rw [State.capacityInUse_eq, State.capacityInUse_eq]
  exact State.loadOf_le h.load slots

theorem State.loadOf_one {s t : State} (i : Slot) (hi : (t.ent i).load ≤ (s.ent i).load + 1)
    (ho : ∀ k : Slot, k ≠ i → (t.ent k).load ≤ (s.ent k).load) (l : List Slot) (hl : l.Nodup) :
    t.loadOf l ≤ s.loadOf l + 1 := by
  induction l with
  | nil => exact Nat.zero_le _
  | cons a r ih =>
    have ha := (List.nodup_cons.mp hl).1
    have hr := (List.nodup_cons.mp hl).2
    have e1 : t.loadOf (a :: r) = (t.ent a).load + t.loadOf r := rfl
    have e2 : s.loadOf (a :: r) = (s.ent a).load + s.loadOf r := rfl
    by_cases hk : a = i
    · subst hk
      have : t.loadOf r ≤ s.loadOf r := by
        clear ih e1 e2 hl hr
        induction r with
        | nil => exact Nat.le_refl _
        | cons b r ih =>
          have hb : b ≠ a := fun h => ha (by simp [h])
          exact Nat.add_le_add (ho b hb) (ih (fun h => ha (List.mem_cons_of_mem _ h)))
      omega
    · have := ih hr
      have := ho a hk
      omega

theorem makeOffer_keeps (w : CleanWait) (s : State) : Keeps s (makeOffer w s) := by
  have h : Keeps s (s.modEnt w.slot fun e =>
      { e with offerOut := true,
               offer := some { program := w.program, origin := w.origin, queued := w.queued,
                               threshold := s.holdThreshold w.slot } }) :=
    ⟨rfl, id, id, id, id, fun hd => hd.setEnt _ _ (fun h => h), id, List.Sublist.refl _, fun _ => id,
      .same rfl rfl rfl rfl rfl⟩
  exact h.trans ((Work.refl _).sendTo ..).keeps

theorem makeOffer_load (w : CleanWait) (s : State) :
    ((makeOffer w s).ent w.slot).load ≤ (s.ent w.slot).load + 1 ∧
      ∀ k : Slot, k ≠ w.slot → ((makeOffer w s).ent k).load ≤ (s.ent k).load := by
  have h : Work (s.modEnt w.slot fun e =>
      { e with offerOut := true,
               offer := some { program := w.program, origin := w.origin, queued := w.queued,
                               threshold := s.holdThreshold w.slot } }) (makeOffer w s) := (Work.refl _).sendTo ..
  constructor
  · refine Nat.le_trans (h.load _) ?_
    rw [State.ent_modEnt_self]
    simp only [Entry.load]
    split <;> split <;> simp
  · intro k hk
    refine Nat.le_trans (h.load _) ?_
    rw [State.ent_modEnt_ne _ _ _ _ hk]

theorem makeOffer_capacity (w : CleanWait) (s : State) : (makeOffer w s).capacityInUse ≤ s.capacityInUse + 1 := by
  rw [State.capacityInUse_eq, State.capacityInUse_eq]
  exact State.loadOf_one w.slot (makeOffer_load w s).1 (makeOffer_load w s).2 slots (by decide)

theorem offersUpTo_keeps (n : Nat) : ∀ s, Keeps s (offersUpTo n s) := by
  induction n with
  | zero => exact Keeps.refl
  | succ n ih =>
    intro s
    unfold offersUpTo
    split
    · split
      · exact (makeOffer_keeps _ s).trans (ih _)
      · exact Keeps.refl s
    · exact Keeps.refl s

theorem offersUpTo_capacity (n : Nat) :
    ∀ s, s.capacityInUse ≤ s.profile.maxCleaning → (offersUpTo n s).capacityInUse ≤ s.profile.maxCleaning := by
  induction n with
  | zero => exact fun _ h => h
  | succ n ih =>
    intro s h
    unfold offersUpTo
    split
    · split
      · next hc _ w _ =>
          have hp := (makeOffer_keeps w s).profile
          have := ih (makeOffer w s) (by rw [hp]; exact Nat.le_trans (makeOffer_capacity w s) hc)
          rwa [hp] at this
      · exact h
    · exact h

/-- Offers where the limit already holds, or none at all where nothing may clean. -/
theorem makeClaims_keeps (s : State) : Keeps s (makeClaims s) := by
  have hf : Keeps s { s with freeCount := s.freeCount + 1 } := ⟨rfl, id, id, id, id, id, id, List.Sublist.refl _, fun _ => id,
      .same rfl rfl rfl rfl rfl⟩
  unfold makeClaims
  dsimp only
  repeat' split
  · exact (hf.trans (offersUpTo_keeps 16 _)).trans ((Work.refl _).makePicks).keeps
  · exact (hf.trans ((Work.refl _).makePicks).keeps).trans (offersUpTo_keeps 16 _)
  · exact (offersUpTo_keeps 16 s).trans ((Work.refl _).makePicks).keeps

theorem makeClaims_capacity (s : State) (h : s.capacityInUse ≤ s.profile.maxCleaning) :
    (makeClaims s).capacityInUse ≤ s.profile.maxCleaning := by
  unfold makeClaims
  dsimp only
  repeat' split
  · exact Nat.le_trans ((Work.refl _).makePicks).capacity (offersUpTo_capacity 16 { s with freeCount := s.freeCount + 1 } h)
  · have hw := (Work.refl { s with freeCount := s.freeCount + 1 }).makePicks
    have := offersUpTo_capacity 16 _ (Nat.le_trans hw.capacity (by rw [hw.keeps.profile]; exact h))
    rwa [hw.keeps.profile] at this
  · exact Nat.le_trans ((Work.refl _).makePicks).capacity (offersUpTo_capacity 16 s h)

theorem settle_keeps (s : State) : Keeps s (settle s) :=
  ((Work.refl s).registerAll.keeps.trans (makeClaims_keeps _)).trans ((Work.refl _).endRollout).keeps

theorem settle_capacity (s : State) (h : s.capacityInUse ≤ s.profile.maxCleaning) :
    (settle s).capacityInUse ≤ s.profile.maxCleaning := by
  have h1 := (Work.refl s).registerAll
  have h2 := makeClaims_capacity (registerAll s) (Nat.le_trans h1.capacity (by rw [h1.keeps.profile]; exact h))
  rw [h1.keeps.profile] at h2
  exact Nat.le_trans ((Work.refl _).endRollout).capacity h2

/-! ## The end of an event -/

/-- The two forms of the end of an event. -/
theorem finish_cases (s x : State) :
    (x.running = true ∧ finish s x = { restCounters x with report := { (restCounters x).report with
      rewriteList := rewritesAfter x.report.rewriteList (owedBy s (restCounters x)) x.report.summaryRaised,
      summaryRaised := false } }) ∨
    (x.running = false ∧ finish s x = restCounters x) := by
  cases h : x.running with
  | true => exact Or.inl ⟨rfl, if_pos (show (restCounters x).running = true from h)⟩
  | false =>
    refine Or.inr ⟨rfl, if_neg ?_⟩
    rw [show (restCounters x).running = false from h]
    decide

/-- `finish` changes the rewrite list and the counters alone. -/
theorem finish_ends (s x : State) : (finish s x).EndsAs x := by
  rcases finish_cases s x with ⟨_, h⟩ | ⟨_, h⟩ <;> rw [h] <;> rfl

theorem finish_running (s x : State) : (finish s x).running = x.running := by
  rcases finish_cases s x with ⟨_, h⟩ | ⟨_, h⟩ <;> rw [h] <;> rfl

/-- A counter of a requester that does not ask is 0 at the end of an event (R66). -/
theorem finish_countersRest (s x : State) : (finish s x).CountersRest := by
  have hb : (finish s x).bulkAsking = x.bulkAsking := by
    rcases finish_cases s x with ⟨_, h⟩ | ⟨_, h⟩ <;> rw [h] <;> rfl
  have hp : (finish s x).procAsking = x.procAsking := by
    rcases finish_cases s x with ⟨_, h⟩ | ⟨_, h⟩ <;> rw [h] <;> rfl
  have cb : (finish s x).path.bulkCount = if x.bulkAsking then x.path.bulkCount else 0 := by
    rcases finish_cases s x with ⟨_, h⟩ | ⟨_, h⟩ <;> rw [h] <;> rfl
  have cp : (finish s x).path.procCount = if x.procAsking then x.path.procCount else 0 := by
    rcases finish_cases s x with ⟨_, h⟩ | ⟨_, h⟩ <;> rw [h] <;> rfl
  constructor
  · intro h; rw [hb] at h; rw [cb, h]; rfl
  · intro h; rw [hp] at h; rw [cp, h]; rfl

/-- Everything that was listed, and everything newly owed, is listed afterwards (R176, R178). -/
theorem mem_rewritesAfter {old owed : List RewriteItem} {raised : Bool} {x : RewriteItem} (hx : x ≠ .summary)
    (h : x ∈ old ∨ x ∈ owed) : x ∈ rewritesAfter old owed raised := by
  have hm : x ∈ old ++ owed.filter (fun y => !old.contains y) := by
    rw [List.mem_append]
    by_cases ho : x ∈ old
    · exact Or.inl ho
    · rcases h with h | h
      · exact Or.inl h
      · exact Or.inr (List.mem_filter.mpr ⟨h, by simpa using ho⟩)
  unfold rewritesAfter
  dsimp only
  split
  · exact List.mem_append_left _ (List.mem_filter.mpr ⟨hm, by simpa using hx⟩)
  · exact hm

/-! ## The order of the rewrite list (R178) -/

theorem NewlyOwed.nil (old : List RewriteItem) : NewlyOwed old [] := ⟨List.nodup_nil, by simp⟩

/-- Records that join behind others that have just joined. -/
theorem NewlyOwed.append {old a b : List RewriteItem} (h : NewlyOwed old a) (k : NewlyOwed (old ++ a) b) :
    NewlyOwed old (a ++ b) := by
  refine ⟨List.nodup_append.mpr ⟨h.1, k.1, ?_⟩, ?_⟩
  · rintro x hx y hy rfl
    exact (k.2 x hy).1 (List.mem_append_right _ hx)
  · intro x hx
    rcases List.mem_append.mp hx with hx | hx
    · exact h.2 x hx
    · exact ⟨fun ho => (k.2 x hx).1 (List.mem_append_left _ ho), (k.2 x hx).2⟩

/-- What an operation adds to the list joins behind what was listed. -/
theorem Owes.joined {s t : State} (h : Owes s t) :
    ∃ j, NewlyOwed s.report.rewriteList j ∧ t.report.rewriteList = s.report.rewriteList ++ j := by
  rcases h.list with e | e
  · exact ⟨[], .nil _, by simp [e]⟩
  · rw [e]
    unfold withSite
    split
    · exact ⟨[], .nil _, by simp⟩
    · next hc => exact ⟨[.site], ⟨by simp, by simpa using hc⟩, rfl⟩

theorem owedBy_nodup (s x : State) : (owedBy s x).Nodup ∧ .summary ∉ owedBy s x := by
  have hs : slots.Nodup := by decide
  unfold owedBy
  refine ⟨List.nodup_append.mpr ⟨?_, ?_, ?_⟩, ?_⟩
  · exact List.pairwise_map.mpr ((hs.filter _).imp (fun h e => h (by injection e)))
  · split <;> simp
  · rintro x hx y hy rfl
    obtain ⟨i, -, rfl⟩ := List.mem_map.mp hx
    split at hy <;> simp at hy
  · simp

theorem newlyOwed_filter (s x : State) (old : List RewriteItem) :
    NewlyOwed old ((owedBy s x).filter (fun y => !old.contains y)) := by
  refine ⟨(owedBy_nodup s x).1.filter _, fun y hy => ?_⟩
  obtain ⟨hm, hc⟩ := List.mem_filter.mp hy
  exact ⟨by simpa using hc, fun e => (owedBy_nodup s x).2 (e ▸ hm)⟩

/-- The end of an event: what was listed before it keeps its order, and a raise in it moves the summary word to the tail. -/
theorem finish_order (s : State) {x y : State} (h : Owes x y) (hr : y.running = true) :
    (y.report.summaryRaised = false → x.RewritesKept (finish s y)) ∧
      (y.report.summaryRaised = true → x.SummaryMoved (finish s y)) := by
  obtain ⟨a, ha, ea⟩ := h.joined
  have hl : (finish s y).report.rewriteList =
      rewritesAfter y.report.rewriteList (owedBy s (restCounters y)) y.report.summaryRaised := by
    rcases finish_cases s y with ⟨_, e⟩ | ⟨e, _⟩
    · rw [e]
    · rw [hr] at e; cases e
  have hb := newlyOwed_filter s (restCounters y) (x.report.rewriteList ++ a)
  have hj := ha.append hb
  rw [ea] at hl
  unfold rewritesAfter at hl
  dsimp only at hl
  refine ⟨fun hs => ⟨_, hj, ?_⟩, fun hs => ⟨_, hj, ?_⟩⟩
  · rw [hl, hs]; simp
  · have hf : ∀ l : List RewriteItem, (∀ z ∈ l, z ≠ .summary) → l.filter (fun z => z != .summary) = l := fun l hl =>
      List.filter_eq_self.mpr (fun z hz => by simpa using hl z hz)
    rw [hl, hs, if_pos rfl, List.filter_append, List.filter_append, hf a (fun z hz => (ha.2 z hz).2),
      hf _ (fun z hz => (hb.2 z hz).2), List.append_assoc (x.report.rewriteList.filter _)]

theorem nodup_append_newlyOwed {old j : List RewriteItem} (h : old.Nodup) (k : NewlyOwed old j) : (old ++ j).Nodup :=
  List.nodup_append.mpr ⟨h, k.1, by rintro x hx y hy rfl; exact (k.2 x hy).1 hx⟩

/-- The end of an event lists nothing twice and leaves no raise to be placed. -/
theorem finish_rewritesOnce (s : State) {x y : State} (hx : x.report.rewriteList.Nodup) (h : Owes x y)
    (hr : y.running = true) : (finish s y).RewritesOnce := by
  have ho := finish_order s h hr
  refine ⟨?_, ?_⟩
  · cases hs : y.report.summaryRaised with
    | false =>
      obtain ⟨j, hj, e⟩ := ho.1 hs
      rw [e]; exact nodup_append_newlyOwed hx hj
    | true =>
      obtain ⟨j, hj, e⟩ := ho.2 hs
      have hn : (x.report.rewriteList.filter (fun z => z != .summary) ++ j).Nodup :=
        nodup_append_newlyOwed (hx.filter _) ⟨hj.1, fun z hz =>
          ⟨fun hm => (hj.2 z hz).1 (List.mem_filter.mp hm).1, (hj.2 z hz).2⟩⟩
      rw [e]
      refine List.nodup_append.mpr ⟨hn, by simp, ?_⟩
      rintro z hz w hw rfl
      rw [List.mem_singleton] at hw
      subst hw
      rcases List.mem_append.mp hz with hz | hz
      · simpa using (List.mem_filter.mp hz).2
      · exact (hj.2 _ hz).2 rfl
  · rcases finish_cases s y with ⟨_, e⟩ | ⟨e, _⟩
    · rw [e]
    · rw [hr] at e; cases e

/-- A raise that the part hears has the summary word placed at the end of the event. -/
theorem raiseEvent_summaryRaised (e : Event) {s : State} (h : s.hears = true) : (raiseEvent e s).report.summaryRaised = true := by
  unfold raiseEvent
  rw [if_pos (show (s.running && !s.hrst) = true from h)]
  split <;> rfl

/-- An answer leaves the state as it is, or ends an old request (R69), or is an event. -/
theorem takeAnswer_next {own : IssueOwner → Bool} {a : MemAnswer} {f : Issued → Option (List Word) → State → State} {s t : State}
    (h : takeAnswer own a f s = .next t) :
    t = s ∨ (∃ q rest, s.oldIssued = q :: rest ∧ t = { s with oldIssued := rest }) ∨ ∃ x, t = finish s x := by
  unfold takeAnswer at h
  split at h
  · next _ _ q rest ho =>
    split at h
    · cases h; exact Or.inr (Or.inl ⟨q, rest, ho, rfl⟩)
    · cases h; exact Or.inl rfl
  · cases h; exact Or.inl rfl
  · split at h
    · cases h; exact Or.inl rfl
    · dsimp only at h
      split at h
      · cases h; exact Or.inr (Or.inr ⟨_, rfl⟩)
      · split at h
        · cases h; exact Or.inr (Or.inr ⟨_, rfl⟩)
        · split at h
          · cases h; exact Or.inr (Or.inr ⟨_, rfl⟩)
          · cases h

/-- The same, for a state given in another form. -/
theorem finish_endsAs {s x y : State} (h : x = y) : (finish s x).EndsAs y := h ▸ finish_ends s x

theorem finish_rewriteList (s : State) {x : State} (h : x.running = true) :
    (finish s x).report.rewriteList =
      rewritesAfter x.report.rewriteList (owedBy s (restCounters x)) x.report.summaryRaised := by
  rcases finish_cases s x with ⟨_, h'⟩ | ⟨h', _⟩
  · rw [h']
  · simp [h] at h'

/-! ## The rows of software -/

theorem watchRow_of_hears (f : State → State) {s : State} (h : s.hears = true) : watchRow f s = finish s (f s) := if_pos h

theorem commandRow_of_hears (f : State → State) {s : State} (h : s.hears = true) : commandRow f s = finish s (f s.taken) :=
  if_pos h

/-! ## The rows of the lines and of the timers -/

theorem plainEvent_running (f : State → State) {s : State} (h : s.mode = .running) : plainEvent f s = finish s (f s) :=
  if_pos (by simp [State.running, h])

theorem workEvent_running (f : State → State) {s : State} (h : s.mode = .running) : workEvent f s = finish s (settle (f s)) :=
  if_pos (by simp [State.running, h])

theorem settled_running (f : State → State) {s : State} (h : s.mode = .running) : settled f s = settle (f s) :=
  if_pos (by simp [State.running, h])

/-! ## Answers of memory (R51, R67, R70) -/

theorem takeAnswer_ok {own : IssueOwner → Bool} {f : Issued → Option (List Word) → State → State} {s : State} {o : IssueOwner}
    {r : MemRequest} {rest : List Issued} {data : List Word} (h : s.AnswerFor o r rest) (ho : own o = true)
    (hd : data.length = MemRequest.answerLen r) :
    takeAnswer own (.ok data) f s = .next (finish s (f { owner := o, req := r, disregard := false } (some data)
      (s.answered rest))) := by
  obtain ⟨h0, h⟩ := h
  simp [takeAnswer, h0, h, ho, hd, State.answered]

theorem takeAnswer_error {own : IssueOwner → Bool} {f : Issued → Option (List Word) → State → State} {s : State}
    {o : IssueOwner} {r : MemRequest} {rest : List Issued} (h : s.AnswerFor o r rest) (ho : own o = true) :
    takeAnswer own .error f s = .next (finish s (f { owner := o, req := r, disregard := false } none
      (offerOf { owner := o, req := r, disregard := false } (s.answered rest)))) := by
  obtain ⟨h0, h⟩ := h
  simp [takeAnswer, h0, h, ho, State.answered]

/-- R67, R70: an answer that is disregarded ends its request, and an ERROR is offered to its capture record (log 36). -/
theorem takeAnswer_disregarded_ok {own : IssueOwner → Bool} (f : Issued → Option (List Word) → State → State) {s : State}
    {o : IssueOwner} {r : MemRequest} {rest : List Issued} (data : List Word) (h0 : s.oldIssued = [])
    (h : s.path.issued = { owner := o, req := r, disregard := true } :: rest) (ho : own o = true) :
    takeAnswer own (.ok data) f s = .next (finish s (s.answered rest)) := by
  simp [takeAnswer, h0, h, ho, State.answered]

theorem takeAnswer_disregarded_error {own : IssueOwner → Bool} (f : Issued → Option (List Word) → State → State) {s : State}
    {o : IssueOwner} {r : MemRequest} {rest : List Issued} (h0 : s.oldIssued = [])
    (h : s.path.issued = { owner := o, req := r, disregard := true } :: rest) (ho : own o = true) :
    takeAnswer own .error f s =
      .next (finish s (offerOf { owner := o, req := r, disregard := true } (s.answered rest))) := by
  simp [takeAnswer, h0, h, ho, State.answered]

/-- A row acts on nothing while the oldest request still to be answered is another owner's (log 7). -/
theorem takeAnswer_other {own : IssueOwner → Bool} (a : MemAnswer) (f : Issued → Option (List Word) → State → State) {s : State}
    {q : Issued} {rest : List Issued} (h : s.oldIssued ++ s.path.issued = q :: rest) (ho : own q.owner = false) :
    takeAnswer own a f s = .next s := by
  unfold takeAnswer
  cases h0 : s.oldIssued with
  | nil => rw [h0] at h; simp at h; simp [h, ho]
  | cons x t => rw [h0] at h; simp at h; simp [h.1, ho]

/-- The answer to a request issued before the part reset ends that request and does nothing else (R69). -/
theorem takeAnswer_old {own : IssueOwner → Bool} (a : MemAnswer) (f : Issued → Option (List Word) → State → State) {s : State}
    {q : Issued} {rest : List Issued} (h : s.oldIssued = q :: rest) (ho : own q.owner = true) :
    takeAnswer own a f s = .next { s with oldIssued := rest } := by
  unfold takeAnswer
  simp [h, ho]

theorem length_bytesOf (d : List Word) : (bytesOf d).length = 4 * d.length := by
  induction d with
  | nil => rfl
  | cons a t ih =>
    have h : bytesOf (a :: t) = le32 a ++ bytesOf t := rfl
    rw [h, List.length_append, ih]; simp [le32]; omega

end Sys2Proof.Machine
end

