-- ==== Sys2Proof/Laws/Operands.lean ====
section
/-! SUPPORT. The bytes that name ovens, lines, recipe slots, call sources and causes read back as what they name, so do the
two and four bytes of a field; which bytes the image check takes as 0; the telegrams that allow an ACK or a NAK are told by their
kind. -/

namespace Sys2Proof.Machine

theorem slotOf_slotByte : ∀ i : Slot, slotOf (slotByte i) = some i := by decide

theorem slotOf_none {b : Byte} (h : 16 ≤ b.toNat) : slotOf b = none := dif_neg (by omega)

theorem lineOf_none {b : Byte} (h : 4 ≤ b.toNat) : lineOf b = none := dif_neg (by omega)

theorem recipeOf_none {b : Byte} (h : 64 ≤ b.toNat) : recipeOf b = none := dif_neg (by omega)

theorem lineOf_ofNat : ∀ l : LineNo, lineOf (BitVec.ofNat 8 l.val) = some l := by decide

theorem recipeOf_recipeByte : ∀ r : RecipeNo, recipeOf (recipeByte r) = some r := by decide

theorem causeOf_code : ∀ c : Cause, causeOf c.code = some c := by intro c; cases c <;> rfl

theorem sourceOf_oven : ∀ i : Slot, sourceOf (Source.code (.oven i)) = some (.oven i) := by decide

theorem sourceOf_recipe : ∀ r : RecipeNo, sourceOf (Source.code (.recipe r)) = some (.recipe r) := by decide

theorem sourceOf_code : ∀ s : Source, sourceOf s.code = some s
  | .oven i => sourceOf_oven i
  | .recipe r => sourceOf_recipe r
  | .site => by decide

theorem sourceOf_none {b : Byte} (h : ¬(b.toNat < 16 ∨ (64 ≤ b.toNat ∧ b.toNat < 128) ∨ b = 0xFF)) : sourceOf b = none := by
  unfold sourceOf
  rw [dif_neg (by tauto), dif_neg (by tauto), if_neg (by tauto)]

theorem causeOf_none {b : Byte} (h : ¬(1 ≤ b.toNat ∧ b.toNat ≤ 8)) : causeOf b = none := by
  unfold causeOf
  split <;> first | rfl | (exfalso; omega)

theorem halfOf_extract (h : Half) : halfOf (h.extractLsb' 0 8) (h.extractLsb' 8 8) = h := by
  apply BitVec.eq_of_getLsbD_eq
  intro i hi
  simp only [halfOf, BitVec.getLsbD_append, BitVec.getLsbD_extractLsb']
  interval_cases i <;> simp

theorem wordOf_extract (w : Word) :
    wordOf (w.extractLsb' 0 8) (w.extractLsb' 8 8) (w.extractLsb' 16 8) (w.extractLsb' 24 8) = w := by
  apply BitVec.eq_of_getLsbD_eq
  intro i hi
  simp only [wordOf, BitVec.getLsbD_append, BitVec.getLsbD_extractLsb']
  interval_cases i <;> simp

/-- R149: byte `k` of those at offset `off`, and after, is 0 in the image check field and itself elsewhere. -/
theorem maskImageBytes_getElem? (off : Nat) (l : List Byte) (k : Nat) :
    (maskImageBytes off l)[k]? = l[k]?.map (fun b => if 16 ≤ off + k ∧ off + k < 20 then 0 else b) := by
  unfold maskImageBytes
  rw [List.getElem?_map, List.getElem?_zipIdx, Option.map_map]
  simp only [Nat.zero_add]
  rfl

/-- R32, by the kinds of 11 §11.5: all but POLL, ASSIGN and IDENT_REQ. -/
theorem Telegram.takesAck_eq (t : Telegram) : t.takesAck = decide (t.code ∉ [(0x01 : Byte), 0x02, 0x05]) := by
  cases t <;> rfl

/-- R32, by the kinds of 11 §11.5: of those that take an ACK, all but UNASSIGN, FLUSH and DENY. -/
theorem Telegram.takesNak_eq (t : Telegram) :
    t.takesNak = decide (t.code ∉ [(0x01 : Byte), 0x02, 0x04, 0x05, 0x09, 0x0C]) := by
  cases t <;> rfl

end Sys2Proof.Machine
end

