-- ==== Sys2Proof/Laws/Path.lean ====
section
/-! SUPPORT. What raising an event kind, offering an error to a capture record, and deciding and delivering the entries of the
in-flight table can do, which recipe slot a request names, and which words a write hands over. -/

namespace Sys2Proof.Machine

/-! ## Event kinds (R179) -/

theorem getLsbD_eventBit {e : Event} {i : Nat} (h : (eventBit e).getLsbD i = true) : i = e.bitNo := by
  have hs : ((1 : BitVec 11) <<< e.bitNo).getLsbD i = true := h
  rw [BitVec.getLsbD_shiftLeft] at hs
  simp only [Bool.and_eq_true, Bool.not_eq_true', decide_eq_false_iff_not] at hs
  have h1 : (1#11).getLsbD (i - e.bitNo) = true := hs.2
  rw [BitVec.getLsbD_one] at h1
  simp at h1
  omega

/-- A kind that is pending already adds nothing to the pending set. -/
theorem or_eventBit {p : BitVec 11} {e : Event} (h : p.getLsbD e.bitNo = true) : p ||| eventBit e = p := by
  apply BitVec.eq_of_getLsbD_eq
  intro i _
  rw [BitVec.getLsbD_or]
  cases hx : (eventBit e).getLsbD i with
  | false => simp
  | true => have := getLsbD_eventBit hx; subst this; simp [h]

/-- What raising a kind does while the part hears: the two sets, and the scratch mark that brings the summary word up. -/
theorem raiseEvent_of_hears (e : Event) {s : State} (h : s.hears = true) :
    raiseEvent e s = { s with report := { s.report.raising e with summaryRaised := true } } := by
  unfold State.hears at h
  unfold raiseEvent ReportWriter.raising raisedPending raisedOverrun
  rw [if_pos h]
  split
  · next hb => simp [or_eventBit hb]
  · simp

theorem raiseEvent_of_not_hears (e : Event) {s : State} (h : s.hears = false) : raiseEvent e s = s := by
  unfold State.hears at h
  unfold raiseEvent
  rw [if_neg (by simp [h])]

/-! ## Capture records (R68) -/

/-- Setting the capture records changes the path unit, and of the report writer the rewrite list alone. -/
theorem setCaptures_eq (p : PathUnit) (s : State) :
    setCaptures p s = { s with
      path := p,
      report := { s.report with rewriteList := (setCaptures p s).report.rewriteList } } := by
  unfold setCaptures
  dsimp only
  split <;> rfl

/-- A changed capture record owes the site record (R68). -/
theorem site_mem_setCaptures {p : PathUnit} {s : State} (h : s.mode = .running) (hp : p.captures ≠ s.path.captures) :
    .site ∈ (setCaptures p s).report.rewriteList := by
  unfold setCaptures
  dsimp only
  rw [if_pos (by simp [State.running, h, hp])]
  unfold oweSite withSite
  dsimp only
  split
  · next hc => simpa using hc
  · simp

theorem raiseGuard_of_hears (a : Word) {s : State} (h : s.hears = true) :
    raiseGuard a s = { s with
      path := { s.path with capGuard := s.path.capGuard.offer a },
      report := { s.report.raising .guard with
        rewriteList := (raiseGuard a s).report.rewriteList, summaryRaised := true } } := by
  have hh : (setCaptures { s.path with capGuard := s.path.capGuard.offer a } s).hears = true := by
    rw [setCaptures_eq]; exact h
  unfold raiseGuard
  rw [raiseEvent_of_hears .guard hh, setCaptures_eq]
  rfl

/-- An event ends as the state that names the raised kind, whatever the rewrite list and its scratch mark. -/
theorem finish_raising (s x : State) (r : ReportWriter) (l : List RewriteItem) (b : Bool) :
    (finish s { x with report := { r with rewriteList := l, summaryRaised := b } }).EndsAs { x with report := r } := by
  have h := finish_ends s { x with report := { r with rewriteList := l, summaryRaised := b } }
  unfold State.EndsAs at h ⊢
  exact h

/-! ## The rewrite list (R178) -/

theorem setCaptures_owes (p : PathUnit) (s : State) : Owes s (setCaptures p s) := by
  unfold setCaptures
  dsimp only
  split
  · exact ⟨.inr rfl, .inl ⟨rfl, rfl, rfl⟩, rfl⟩
  · exact .same rfl rfl rfl rfl rfl

theorem raiseEvent_owes (e : Event) (s : State) : Owes s (raiseEvent e s) := ((Work.refl s).raiseEvent e).owes

theorem offerFault_owes (k : FaultCapture) (a : Word) (s : State) : Owes s (offerFault k a s) := by
  unfold offerFault
  dsimp only
  split
  · exact setCaptures_owes _ s
  · exact (setCaptures_owes _ s).trans (raiseEvent_owes _ _)

theorem raiseGuard_owes (a : Word) (s : State) : Owes s (raiseGuard a s) := by
  unfold raiseGuard
  exact (setCaptures_owes _ s).trans (raiseEvent_owes _ _)

/-! ## The recipe slot of a request (R58) -/

theorem recipeNoOf_val {w : Window} {r : MemRequest} (h : recipeOffset w r / 512 < 64) :
    (recipeNoOf w r).val = recipeOffset w r / 512 := Nat.mod_eq_of_lt h

/-- Two words of the burst lie in two slots; the slots rise along the burst, so its first and its last word tell. -/
theorem spansSlots_iff {w : Window} {r : MemRequest} (h : 0 < r.len) :
    spansSlots w r = true ↔
      ∃ j < r.len, ∃ k < r.len, (recipeOffset w r + 4 * j) / 512 ≠ (recipeOffset w r + 4 * k) / 512 := by
  have last : recipeOffset w r + 4 * r.len - 4 = recipeOffset w r + 4 * (r.len - 1) := by omega
  rw [spansSlots, last, bne_iff_ne]
  constructor
  · exact fun hne => ⟨0, h, r.len - 1, by omega, by simpa using hne⟩
  · rintro ⟨j, hj, k, hk, hne⟩ heq
    have within : ∀ m < r.len, (recipeOffset w r + 4 * m) / 512 = recipeOffset w r / 512 := fun m hm => by omega
    exact hne ((within j hj).trans (within k hk).symm)

theorem otherBank_val (b : Fin 2) : (otherBank b).val = 1 - b.val := by
  revert b; decide

/-! ## The words of a write (R55) -/

theorem MemRequest.length_writtenWords {r : MemRequest} (hd : r.data.length = r.len) (he : r.enables.length = r.len) :
    (MemRequest.writtenWords r).length = r.len := by
  simp [MemRequest.writtenWords, MemRequest.words, hd, he]

/-- R55: the words of a write in rising order, each with its address, its data and its enables. -/
theorem MemRequest.writtenWords_getElem? {r : MemRequest} {k : Nat} {v : Word} {en : BitVec 4} (hk : k < r.len)
    (hv : r.data[k]? = some v) (he : r.enables[k]? = some en) :
    (MemRequest.writtenWords r)[k]? = some (r.addr.toNat + 4 * k, v, en) := by
  unfold MemRequest.writtenWords MemRequest.words
  simp [List.getElem?_zip_eq_some, List.getElem?_map, List.getElem?_range hk, hv, he]

theorem watchedAt_of_get {s : State} (hn : s.profile.watched.Nodup) {k : Nat} {o : Word}
    (hk : s.profile.watched[k]? = some o) : s.watchedAt (s.controlBase + o.toNat) = some k := by
  obtain ⟨hl, rfl⟩ := List.getElem?_eq_some_iff.mp hk
  unfold State.watchedAt
  rw [List.findIdx?_eq_some_iff_getElem]
  refine ⟨by simpa using hl, by simp, fun j hj => ?_⟩
  have hne : s.profile.watched[j]'(by omega) ≠ s.profile.watched[k] := fun e => by
    have := (List.Nodup.getElem_inj_iff hn).mp e
    omega
  simp only [List.getElem_map, beq_iff_eq, Nat.add_left_cancel_iff]
  exact fun e => hne (BitVec.eq_of_toNat_eq e)

theorem watchedAt_none {s : State} {a : Nat} (h : ∀ o ∈ s.profile.watched, a ≠ s.controlBase + o.toNat) :
    s.watchedAt a = none := by
  unfold State.watchedAt
  rw [List.findIdx?_eq_none_iff]
  intro b hb
  obtain ⟨o, ho, rfl⟩ := List.mem_map.mp hb
  simpa using fun e => h o ho e.symm

/-! ## The in-flight table (R50) -/

theorem decideHeads_issued (s : State) {older : List InFlight} (h : ∀ e ∈ older, e.state = .issued) (t : List InFlight) :
    decideHeads s (older ++ t) = ((decideHeads s t).1, older ++ (decideHeads s t).2) := by
  induction older with
  | nil => rfl
  | cons a l ih =>
    have := ih (fun e he => h e (List.mem_cons_of_mem _ he))
    have ha := h a (by simp)
    simp [decideHeads, ha, this]

theorem deliverAnswered_waits {a : InFlight} (h : a.state ≠ .answered) (t : List InFlight) :
    deliverAnswered (a :: t) = ([], a :: t) := by
  unfold deliverAnswered
  rw [if_neg h]

/-! ## The reads that abandoned fills wait for (R78, R102) -/

/-- Where the lines are the same, and every wanted read is still to be answered. -/
theorem State.FillAwaited.mono {s t : State} {l : LineNo} (h : s.FillAwaited l) (hl : t.lines = s.lines)
    (hq : ∀ q ∈ s.path.issued, q.disregard = false → q ∈ t.path.issued) : t.FillAwaited l := by
  intro ho
  have ho' : (s.ln l).Orphaned := by simpa [State.ln, hl] using ho
  obtain ⟨q, hm, hw⟩ := h ho'
  exact ⟨q, hq q hm hw.2, hw⟩

theorem State.FillAwaited.endsAs {t x : State} {l : LineNo} (h : x.FillAwaited l) (e : t.EndsAs x) : t.FillAwaited l := by
  unfold State.EndsAs at e
  exact h.mono (by rw [e]) (fun q hq _ => by rw [e]; exact hq)

theorem finish_fillAwaited (s : State) {x : State} {l : LineNo} (h : x.FillAwaited l) : (finish s x).FillAwaited l :=
  h.endsAs (finish_ends s x)

/-- An answer leaves waiting every fill but the one whose read it answers. -/
theorem State.FillAwaited.answered {s : State} {l : LineNo} {q : Issued} {rest : List Issued} (h : s.FillAwaited l)
    (hq : s.path.issued = q :: rest) (hn : q.owner = .fill l → q.disregard = true) : (s.answered rest).FillAwaited l := by
  intro ho
  obtain ⟨x, hx, hw⟩ := h ho
  rw [hq] at hx
  rcases List.mem_cons.mp hx with rfl | hx
  · rw [hn hw.1] at hw; cases hw.2
  · exact ⟨x, hx, hw⟩

theorem issueRequest_fillAwaited (o : IssueOwner) (r : MemRequest) {s : State} {l : LineNo} (h : s.FillAwaited l) :
    (issueRequest o r s).FillAwaited l := h.mono rfl (fun _ hq _ => List.mem_append_left _ hq)

theorem clientIssued_fillAwaited (o : IssueOwner) {s : State} {l : LineNo} (h : s.FillAwaited l) :
    (clientIssued o s).FillAwaited l := by
  cases o
  case fill k =>
    rintro ⟨g, hg, ha, hs⟩
    refine h ?_
    rw [clientIssued, State.ln_modLn] at hg
    split at hg
    · next hk =>
        obtain ⟨f, hf, rfl⟩ := Option.map_eq_some_iff.mp hg
        exact ⟨f, hk ▸ hf, ha, hs⟩
    · exact ⟨g, hg, ha, hs⟩
  all_goals exact h

theorem setCaptures_fillAwaited (p : PathUnit) {s : State} {l : LineNo} (h : s.FillAwaited l)
    (hp : p.issued = s.path.issued) : (setCaptures p s).FillAwaited l := by
  rw [setCaptures_eq]
  exact h.mono rfl (fun q hq _ => by rw [← hp] at hq; exact hq)

theorem offerOf_fillAwaited (q : Issued) {s : State} {l : LineNo} (h : s.FillAwaited l) : (offerOf q s).FillAwaited l := by
  unfold offerOf offerFault
  split
  · next k _ =>
      have hc : (setCaptures (s.path.setCapture k ((s.path.capture k).offer q.req.addr)) s).FillAwaited l :=
        setCaptures_fillAwaited _ h (by cases k <;> rfl)
      dsimp only
      split
      · exact hc
      · exact ((Work.refl _).raiseEvent _).fills l hc
  · exact h

/-- The event that an answer to a fill's read ends in leaves every abandoned fill waiting that waited before. -/
theorem settled_fillAnswer_fillAwaited {l : LineNo} (data : Option (List Word)) {s : State}
    (h : ∀ k : LineNo, k ≠ l → s.FillAwaited k) (k : LineNo) : (settled (fillAnswer l data) s).FillAwaited k := by
  have hm := Mends.fillAnswer ((Work.refl s).near l) data
  have hk : (fillAnswer l data s).FillAwaited k := if e : k = l then e ▸ hm.done else hm.near.fills k e (h k e)
  unfold settled
  split
  · exact (settle_keeps _).fills k hk
  · exact hk

end Sys2Proof.Machine
end

