-- ==== Sys2Proof/Laws/PerInstr.lean ====
section
/-! SUPPORT. Per command: a row in which software speaks is never malformed, so that a parameter out of range is answered by the
command's own rule (R172) and not turned away; the rows that can be malformed carry what a port or a line delivers. -/

namespace Sys2Proof.Laws.Port

open Sys2Proof Sys2Proof.Machine

/-- A row of software's is well formed whatever its operands; a row that is not software's need not be. -/
def Statement (i : Instr) : Prop := fromSoftware i = true → i.wf = true

theorem partReset : Statement .partReset := fun h => Bool.noConfusion h
theorem resetRelease (psel1 psel0 : Bool) : Statement (.resetRelease psel1 psel0) := fun h => Bool.noConfusion h
theorem hrstAssert : Statement .hrstAssert := fun h => Bool.noConfusion h
theorem hrstRelease : Statement .hrstRelease := fun h => Bool.noConfusion h
theorem profileReadAnswer (a : MemAnswer) : Statement (.profileReadAnswer a) := fun h => Bool.noConfusion h
theorem processorRequest (r : ProcRequest) : Statement (.processorRequest r) := fun h => Bool.noConfusion h
theorem arbiterGrant : Statement .arbiterGrant := fun h => Bool.noConfusion h
theorem commandProducerIndexWrite (v : Word) : Statement (.commandProducerIndexWrite v) := fun _ => rfl
theorem completionConsumerIndexWrite (v : Word) : Statement (.completionConsumerIndexWrite v) := fun _ => rfl
theorem serviceConsumerIndexWrite (v : Word) : Statement (.serviceConsumerIndexWrite v) := fun _ => rfl
theorem journalConsumerIndexWrite (v : Word) : Statement (.journalConsumerIndexWrite v) := fun _ => rfl
theorem eventAcknowledgeWrite (v : Word) : Statement (.eventAcknowledgeWrite v) := fun _ => rfl
theorem siteClockLoadWrite (v : Word) : Statement (.siteClockLoadWrite v) := fun _ => rfl
theorem processorAnswer (a : MemAnswer) : Statement (.processorAnswer a) := fun h => Bool.noConfusion h
theorem postedWriteAnswer (a : MemAnswer) : Statement (.postedWriteAnswer a) := fun h => Bool.noConfusion h
theorem commandFetchAnswer (a : MemAnswer) : Statement (.commandFetchAnswer a) := fun h => Bool.noConfusion h
theorem publishReadAnswer (a : MemAnswer) : Statement (.publishReadAnswer a) := fun h => Bool.noConfusion h
theorem fillReadAnswer (l : LineNo) (a : MemAnswer) : Statement (.fillReadAnswer l a) := fun h => Bool.noConfusion h
theorem verifyReadAnswer (a : MemAnswer) : Statement (.verifyReadAnswer a) := fun h => Bool.noConfusion h
theorem imageBlockReadAnswer (a : MemAnswer) : Statement (.imageBlockReadAnswer a) := fun h => Bool.noConfusion h
theorem commission (tag : Half) (slot line drop : Byte) (serial : Word) (refLow refHigh : Half) : Statement (.commission tag slot line drop serial refLow refHigh) :=
  fun _ => rfl
theorem restore (tag : Half) (slot line drop : Byte) (serial : Word) (refLow refHigh rawLow rawHigh : Half) (minutes : Word) : Statement (.restore tag slot line drop serial refLow refHigh rawLow rawHigh minutes) :=
  fun _ => rfl
theorem recalibrate (tag : Half) (slot : Byte) (refLow refHigh : Half) : Statement (.recalibrate tag slot refLow refHigh) :=
  fun _ => rfl
theorem retire (tag : Half) (slot : Byte) : Statement (.retire tag slot) := fun _ => rfl
theorem release (tag : Half) (slot : Byte) : Statement (.release tag slot) := fun _ => rfl
theorem lineTest (tag : Half) (line : Byte) : Statement (.lineTest tag line) := fun _ => rfl
theorem publish (tag : Half) (recipe : Byte) : Statement (.publish tag recipe) := fun _ => rfl
theorem withdraw (tag : Half) (recipe : Byte) : Statement (.withdraw tag recipe) := fun _ => rfl
theorem cook (tag : Half) (oven recipe : Byte) : Statement (.cook tag oven recipe) := fun _ => rfl
theorem abort (tag : Half) (oven : Byte) : Statement (.abort tag oven) := fun _ => rfl
theorem clean (tag : Half) (oven program : Byte) : Statement (.clean tag oven program) := fun _ => rfl
theorem cancelClean (tag : Half) (oven : Byte) : Statement (.cancelClean tag oven) := fun _ => rfl
theorem ackCall (tag : Half) (source cause : Byte) : Statement (.ackCall tag source cause) := fun _ => rfl
theorem closeCall (tag : Half) (source cause : Byte) : Statement (.closeCall tag source cause) := fun _ => rfl
theorem stageClose (tag : Half) (length check : Word) : Statement (.stageClose tag length check) := fun _ => rfl
theorem rollout (tag : Half) (mask : Half) (downgrade : Byte) : Statement (.rollout tag mask downgrade) := fun _ => rfl
theorem rolloutHalt (tag : Half) : Statement (.rolloutHalt tag) := fun _ => rfl
theorem openProfile (tag : Half) : Statement (.openProfile tag) := fun _ => rfl
theorem completionPost : Statement .completionPost := fun h => Bool.noConfusion h
theorem servicePosting : Statement .servicePosting := fun h => Bool.noConfusion h
theorem journalRecordWrite : Statement .journalRecordWrite := fun h => Bool.noConfusion h
theorem mirrorRewrite : Statement .mirrorRewrite := fun h => Bool.noConfusion h
theorem eventSummaryWrite : Statement .eventSummaryWrite := fun h => Bool.noConfusion h
theorem siteClockMinuteExpiry : Statement .siteClockMinuteExpiry := fun h => Bool.noConfusion h
theorem schedulerChoice (l : LineNo) : Statement (.schedulerChoice l) := fun h => Bool.noConfusion h
theorem transmitEnd (l : LineNo) : Statement (.transmitEnd l) := fun h => Bool.noConfusion h
theorem replyReceived (l : LineNo) (chars : List RawChar) : Statement (.replyReceived l chars) := fun h => Bool.noConfusion h
theorem replyWindowExpiry (l : LineNo) : Statement (.replyWindowExpiry l) := fun h => Bool.noConfusion h
theorem quietEnd (l : LineNo) : Statement (.quietEnd l) := fun h => Bool.noConfusion h
theorem turnaroundEnd (l : LineNo) : Statement (.turnaroundEnd l) := fun h => Bool.noConfusion h
theorem pollDue (i : Slot) : Statement (.pollDue i) := fun h => Bool.noConfusion h
theorem pollOverdue (i : Slot) : Statement (.pollOverdue i) := fun h => Bool.noConfusion h
theorem silenceTimerExpiry (i : Slot) : Statement (.silenceTimerExpiry i) := fun h => Bool.noConfusion h
theorem lineTestStart (l : LineNo) : Statement (.lineTestStart l) := fun h => Bool.noConfusion h
theorem lineTestLoopbackEnd (l : LineNo) (chars : List RawChar) : Statement (.lineTestLoopbackEnd l chars) :=
  fun h => Bool.noConfusion h
theorem lineTestWindowExpiry (l : LineNo) (chars : List RawChar) : Statement (.lineTestWindowExpiry l chars) :=
  fun h => Bool.noConfusion h
theorem identResendExpiry (i : Slot) : Statement (.identResendExpiry i) := fun h => Bool.noConfusion h
theorem calibrationLimitExpiry (i : Slot) : Statement (.calibrationLimitExpiry i) := fun h => Bool.noConfusion h
theorem hygieneMinuteExpiry : Statement .hygieneMinuteExpiry := fun h => Bool.noConfusion h
theorem requeueTimerExpiry (i : Slot) : Statement (.requeueTimerExpiry i) := fun h => Bool.noConfusion h
theorem switchLimitExpiry (i : Slot) : Statement (.switchLimitExpiry i) := fun h => Bool.noConfusion h
theorem replyStartBitAccepted (l : LineNo) : Statement (.replyStartBitAccepted l) := fun h => Bool.noConfusion h
theorem quietStartBitAccepted (l : LineNo) : Statement (.quietStartBitAccepted l) := fun h => Bool.noConfusion h
theorem characterGapLimitExpiry (l : LineNo) : Statement (.characterGapLimitExpiry l) := fun h => Bool.noConfusion h

end Sys2Proof.Laws.Port
end

