-- ==== Sys2Proof/Laws/Reports.lean ====
section
/-! SUPPORT. What the report writer can serve (R178), and that a row which is not the one served changes nothing (log 4). -/

namespace Sys2Proof.Machine

theorem rewriteReady_head {s : State} {p : Producer} (h : s.rewriteReady = some p) :
    ∃ x, s.report.rewriteList.head? = some x ∧ p = x.producer := by
  unfold State.rewriteReady at h
  cases hl : s.report.rewriteList with
  | nil => rw [hl] at h; cases h
  | cons x t =>
    rw [hl] at h
    dsimp only at h
    split at h
    · exact ⟨x, rfl, (Option.some.inj h).symm⟩
    · cases h

/-- R178: what is served is the ready item of its own producer. -/
theorem served_ready {s : State} {p : Producer} (h : s.served = some p) :
    (∃ c, p = .completion c ∧ s.completionReady = some c) ∨ (∃ c, p = .service c ∧ s.serviceReady = some c) ∨
    (∃ j, p = .journal j ∧ s.journalReady = some j) ∨ ∃ x, s.report.rewriteList.head? = some x ∧ p = x.producer := by
  unfold State.served at h
  split at h
  · cases h
  split at h
  · split at h
    · exact .inr (.inr (.inr (rewriteReady_head h)))
    · cases h
  simp only [Option.or_eq_some_iff, Option.map_eq_some_iff] at h
  rcases h with ⟨c, hc, rfl⟩ | ⟨_, ⟨c, hc, rfl⟩ | ⟨_, ⟨j, hj, rfl⟩ | ⟨_, h⟩⟩⟩
  · exact .inl ⟨c, rfl, hc⟩
  · exact .inr (.inl ⟨c, rfl, hc⟩)
  · exact .inr (.inr (.inl ⟨j, rfl, hj⟩))
  · exact .inr (.inr (.inr (rewriteReady_head h)))

/-- A completion's posting with none ready (log 4). -/
theorem execCompletionPost_outOfTurn {s : State} (h : s.completionReady = none) : execCompletionPost s = .next s := by
  unfold execCompletionPost
  split
  · next c hc =>
    rcases served_ready hc with ⟨_, _, e⟩ | ⟨_, e, _⟩ | ⟨_, e, _⟩ | ⟨x, _, e⟩
    · rw [h] at e; cases e
    · cases e
    · cases e
    · cases x <;> cases e
  · rfl

theorem execServicePosting_outOfTurn {s : State} (h : s.serviceReady = none) : execServicePosting s = .next s := by
  unfold execServicePosting
  split
  · next c hc =>
    rcases served_ready hc with ⟨_, e, _⟩ | ⟨_, _, e⟩ | ⟨_, e, _⟩ | ⟨x, _, e⟩
    · cases e
    · rw [h] at e; cases e
    · cases e
    · cases x <;> cases e
  · rfl

theorem execJournalRecordWrite_outOfTurn {s : State} (h : s.journalReady = none) : execJournalRecordWrite s = .next s := by
  unfold execJournalRecordWrite
  split
  · next c hc =>
    rcases served_ready hc with ⟨_, e, _⟩ | ⟨_, e, _⟩ | ⟨_, _, e⟩ | ⟨x, _, e⟩
    · cases e
    · cases e
    · rw [h] at e; cases e
    · cases x <;> cases e
  · rfl

/-- A mirror rewrite while no record is at the list's head (log 4). -/
theorem execMirrorRewrite_outOfTurn {s : State}
    (h : s.report.rewriteList.head? = none ∨ s.report.rewriteList.head? = some .summary) :
    execMirrorRewrite s = .next s := by
  have idle : ∀ p, s.served = some p → ∀ x : RewriteItem, x ≠ .summary → p ≠ x.producer := by
    rintro p hp x hx rfl
    rcases served_ready hp with ⟨_, e, _⟩ | ⟨_, e, _⟩ | ⟨_, e, _⟩ | ⟨y, hy, e⟩
    · cases x <;> cases e
    · cases x <;> cases e
    · cases x <;> cases e
    · rw [hy] at h
      rcases h with h | h <;> cases h
      cases x <;> first | exact hx rfl | cases e
  unfold execMirrorRewrite
  split
  · next i hp => exact absurd rfl (idle _ hp (.oven i) nofun)
  · next hp => exact absurd rfl (idle _ hp .site nofun)
  · rfl

theorem execEventSummaryWrite_outOfTurn {s : State} (h : s.report.rewriteList.head? ≠ some .summary) :
    execEventSummaryWrite s = .next s := by
  unfold execEventSummaryWrite
  split
  · next hc =>
    rcases served_ready hc with ⟨_, e, _⟩ | ⟨_, e, _⟩ | ⟨_, e, _⟩ | ⟨x, hx, e⟩
    · cases e
    · cases e
    · cases e
    · cases x <;> first | exact absurd hx h | cases e
  · rfl
end Sys2Proof.Machine
end

