-- ==== Sys2Proof/Laws/Update.lean ====
section
/-! SUPPORT. What a failure (R162) and a stop (R164) of an oven's part in a rollout change, field by field: its image stream and its
block reads, its telegrams, its entry, the masks; and the raises and the journal record they make, each of which touches the
report writer and the service unit alone. -/

namespace Sys2Proof.Machine

/-! ## Raises and journal records -/

theorem raiseEvent_eq (e : Event) (s : State) : raiseEvent e s = { s with report := (raiseEvent e s).report } := by
  unfold raiseEvent
  split
  · split <;> rfl
  · rfl

theorem raiseCall_eq (src : Source) (cause : Cause) (sev : Severity) (details : List Word) (s : State) :
    raiseCall src cause sev details s = { s with
      service := (raiseCall src cause sev details s).service, report := (raiseCall src cause sev details s).report } := by
  unfold raiseCall joinCall markServiceOverrun oweSite
  repeat' first | rfl | split

theorem passJournal_eq (b : JBody) (s : State) :
    passJournal b s = { s with report := { s.report with
      journal := (passJournal b s).report.journal, gapPending := (passJournal b s).report.gapPending } } := by
  unfold passJournal
  split <;> rfl

/-- R174: the record waits, or leaves a gap. -/
theorem passJournal_passed (b : JBody) (s : State) :
    ((passJournal b s).report.journal, (passJournal b s).report.gapPending) = s.report.passed b := by
  by_cases h : s.report.journal.length < 8 <;> simp [passJournal, ReportWriter.passed, Config.journalMax, h]

/-! ## The image stream (R41, R162, R164) -/

theorem modStream_ln (l : LineNo) (k : StreamKind) (i : Slot) (f : Stream → Stream) (s : State) (n : LineNo) :
    (modStream l k i f s).ln n = { s.ln n with
      streams := if n = l then (s.ln n).streams.map (fun z => if z.kind = k ∧ z.slot = i then f z else z)
        else (s.ln n).streams } := by
  rw [modStream, State.ln_modLn]
  split
  · next h => rw [h]
  · rfl

theorem removeStream_ln (l : LineNo) (k : StreamKind) (i : Slot) (s : State) (n : LineNo) :
    (removeStream l k i s).ln n = { s.ln n with
      streams := if n = l then (s.ln n).streams.filter (fun z => !(z.kind == k && z.slot == i)) else (s.ln n).streams } := by
  rw [removeStream, State.ln_modLn]
  split
  · next h => rw [h]
  · rfl

theorem State.blockRunning_image_iff (s : State) (n : LineNo) (i : Slot) :
    s.blockRunning n .image i = true ↔
      ∃ tr k data, (s.ln n).trans = some tr ∧ tr.q.target = some i ∧ tr.q.tel = .imageBlock k data := by
  unfold State.blockRunning
  cases (s.ln n).trans with
  | none => simp
  | some tr =>
    obtain ⟨q, a, d, g⟩ := tr
    cases hq : q.tel <;> simp [hq]

/-- Beside the lines, the stream's end changes the oven's reads alone: those issued are disregarded, the others withdrawn. -/
theorem dropImageStream_eq (i : Slot) (s : State) :
    dropImageStream i s = { s with
      path := { s.path with issued := disregarding (fun o => o == .block i) s.path.issued }
      lines := (dropImageStream i s).lines
      update := { s.update with blockReads := s.update.blockReads.filter (fun b => b.slot != i) } } := by
  unfold dropImageStream
  dsimp only
  split <;> rfl

/-- On its line the stream goes at once, or is marked to go while a block of it is being sent. -/
theorem dropImageStream_ln (i : Slot) (s : State) (n : LineNo) :
    (dropImageStream i s).ln n = { s.ln n with
      streams := if n ≠ (s.ent i).line then (s.ln n).streams
        else if s.blockRunning n .image i = true then (s.ln n).streams.map (fun z =>
          if z.kind = .image ∧ z.slot = i then { z with ready := false, drop := true } else z)
        else (s.ln n).streams.filter (fun z => !(z.kind == .image && z.slot == i)) } := by
  unfold dropImageStream
  dsimp only
  generalize e : disregardIssued _ _ = y
  have hl : y.lines = s.lines := by rw [← e]; rfl
  have hb : y.blockRunning (s.ent i).line .image i = s.blockRunning (s.ent i).line .image i := by
    unfold State.blockRunning; rw [State.ln_congr hl]
  rw [hb]
  by_cases hn : n = (s.ent i).line
  · subst hn
    cases s.blockRunning (s.ent i).line .image i <;> simp [modStream_ln, removeStream_ln, State.ln_congr hl]
  · split <;> simp [hn, modStream_ln, removeStream_ln, State.ln_congr hl]

/-! ## The oven's part ends (R155, R162, R164) -/

/-- An entry whose oven has left SENDING and SWITCHING (R155). -/
def Entry.leftUpdating (e : Entry) (st : UpdState) : Entry :=
  { e with
    activity := .idle, abortMark := .unset
    upd := { e.upd with state := st, switchQueued := false, stopMark := false, limit := none, identAsked := false,
                        blockData := [], readsLeft := 0 } }

theorem leaveUpdating_eq (i : Slot) (st : UpdState) (s : State) :
    leaveUpdating i st s = s.setEnt i ((s.ent i).leftUpdating st) := by
  simp only [leaveUpdating, toIdle, State.modUpd, State.modEnt, State.setEnt_setEnt, State.ent_setEnt_self]
  rfl

/-- Everything that a stop changes (R164). -/
theorem stopOven_eq (i : Slot) (s : State) :
    stopOven i s = { dropImageStream i s with
      roster := (s.setEnt i ((s.ent i).leftUpdating .skipped)).roster
      update := { (dropImageStream i s).update with
        rollout := { s.update.rollout with skipped := s.update.rollout.skipped ||| slotBit i } }
      report := { s.report with
        journal := (stopOven i s).report.journal, gapPending := (stopOven i s).report.gapPending } } := by
  unfold stopOven passUpdate
  dsimp only
  rw [passJournal_eq, leaveUpdating_eq]
  have h := dropImageStream_eq i s
  generalize dropImageStream i s = y at h ⊢
  rw [h]
  rfl

/-- Everything that a failure changes (R162). -/
theorem failOven_eq (i : Slot) (why : UpdReason) (block : Option Nat) (fourth : Option Word) (reported : Option Half) (s : State) :
    failOven i why block fourth reported s = { dropImageStream i s with
      lines := (removeTelegrams (isSwitchTo i) (dropImageStream i s)).lines
      roster := (s.setEnt i { (s.ent i).leftUpdating .failed with
        upd := { ((s.ent i).leftUpdating .failed).upd with reason := some why } }).roster
      service := (failOven i why block fourth reported s).service
      report := (failOven i why block fourth reported s).report
      update := { (dropImageStream i s).update with
        rollout := { s.update.rollout with failed := s.update.rollout.failed ||| slotBit i } } } := by
  unfold failOven passUpdate
  dsimp only
  rw [raiseEvent_eq, passJournal_eq, leaveUpdating_eq, State.modUpd, State.modEnt, State.setEnt_setEnt, State.ent_setEnt_self]
  have h := dropImageStream_eq i s
  generalize dropImageStream i s = y at h ⊢
  rw [h]
  split
  · rfl
  · rw [raiseCall_eq]; rfl

end Sys2Proof.Machine
end

