-- ==== Sys2Proof/Tests/Slice0.lean ====
section
/-! SUPPORT. Small tests: the shape checks, the two check words, a whole profile record, the worked figures of the spec, and for
each statement of the certificate a state and operands that meet its hypotheses, clause by clause. -/

namespace Sys2Proof.Tests

open Sys2Proof Sys2Proof.Machine

set_option Elab.async false

/-! ## Shapes that Instr.wf turns away -/

def readReq : MemRequest := { write := false, addr := 0x40, len := 2, data := [], enables := [] }
def writeReq : MemRequest := { write := true, addr := 0x40, len := 1, data := [7], enables := [0xF] }

theorem test_wf_read : (Instr.processorRequest ⟨readReq, 0⟩).wf = true := by decide
theorem test_wf_write : (Instr.processorRequest ⟨writeReq, 7⟩).wf = true := by decide
theorem test_ill_alignment : (Instr.processorRequest ⟨{ readReq with addr := 0x42 }, 0⟩).wf = false := by decide
theorem test_ill_empty_burst : (Instr.processorRequest ⟨{ readReq with len := 0 }, 0⟩).wf = false := by decide
theorem test_ill_long_burst : (Instr.processorRequest ⟨{ readReq with len := 9 }, 0⟩).wf = false := by decide
theorem test_ill_write_data : (Instr.processorRequest ⟨{ writeReq with data := [] }, 0⟩).wf = false := by decide
theorem test_ill_write_enables : (Instr.processorRequest ⟨{ writeReq with enables := [] }, 0⟩).wf = false := by decide
theorem test_ill_read_data : (Instr.processorRequest ⟨{ readReq with data := [1] }, 0⟩).wf = false := by decide
theorem test_ill_read_enables : (Instr.processorRequest ⟨{ readReq with enables := [1] }, 0⟩).wf = false := by decide
theorem test_ill_answer : (Instr.verifyReadAnswer (.ok (List.replicate 9 0))).wf = false := by decide
theorem test_ill_empty_reply : (Instr.replyReceived 0 []).wf = false := by decide
theorem test_ill_long_reply : (Instr.replyReceived 0 (List.replicate 78 ⟨0, 0, 0⟩)).wf = false := by decide
theorem test_ill_loopback : (Instr.lineTestLoopbackEnd 0 (List.replicate 70 ⟨0, 0, 0⟩)).wf = false := by decide
theorem test_ill_loop_window : (Instr.lineTestWindowExpiry 0 (List.replicate 70 ⟨0, 0, 0⟩)).wf = false := by decide

/-! ## Check words (R192) -/

def digits : List Byte := [0x31, 0x32, 0x33, 0x34, 0x35, 0x36, 0x37, 0x38, 0x39]

theorem test_crc32 : crc32 digits = 0xCBF43926 := by decide +kernel
theorem test_crc16 : crc16 digits = 0x29B1 := by decide +kernel

theorem crc32Run_parts (r : Word) (l : List Byte) : crc32Run r l = crc32Run (crc32Run r (l.take 64)) (l.drop 64) := by
  unfold crc32Run
  rw [← List.foldl_append, List.take_append_drop]

/-! ## A profile record without a fault -/

def windowBytes (cls : Byte) (base size : Word) : List Byte := le32 base ++ le32 size ++ [cls, 0, 0, 0]

/-- Bytes 0-507: a PROFILE and a CONTROL window, no rings, no lines. -/
def goodBody : List Byte :=
  le32 0x32165046 ++ le16 1 ++ zeros 2 ++ windowBytes 1 0x1000 0x1000 ++ windowBytes 2 0x2000 0x1000 ++ zeros 152 ++
  le32 0x14000 ++ le32 0x15000 ++ le32 0 ++ le32 4 ++ le32 8 ++ le32 12 ++ le32 16 ++ le32 20 ++ zeros 12 ++
  [5, 10] ++ le16 30 ++ le16 120 ++ le16 300 ++ [20, 30] ++ le16 240 ++ le16 360 ++ le16 850 ++ le16 300 ++ [2, 15] ++
  le16 0x28 ++ [1, 1] ++ zeros 256

def goodRecord : List Byte := goodBody ++ le32 0xB622A177

/-- A record whose magic value alone is wrong; its check word is right again. -/
def badRecord : List Byte := 0 :: goodRecord.drop 1

theorem crc_0 : crc32Run 0xFFFFFFFF (goodBody.take 64) = 0x85BFE3EC := by decide +kernel
theorem crc_1 : crc32Run 0x85BFE3EC ((goodBody.drop 64).take 64) = 0xA273418A := by decide +kernel
theorem crc_2 : crc32Run 0xA273418A ((goodBody.drop 128).take 64) = 0x928B2D48 := by decide +kernel
theorem crc_3 : crc32Run 0x928B2D48 ((goodBody.drop 192).take 64) = 0x9CE99C7C := by decide +kernel
theorem crc_4 : crc32Run 0x9CE99C7C ((goodBody.drop 256).take 64) = 0x0C996CB9 := by decide +kernel
theorem crc_5 : crc32Run 0x0C996CB9 ((goodBody.drop 320).take 64) = 0x2DB32A33 := by decide +kernel
theorem crc_6 : crc32Run 0x2DB32A33 ((goodBody.drop 384).take 64) = 0x1BC27822 := by decide +kernel
theorem crc_7 : crc32Run 0x1BC27822 (goodBody.drop 448) = 0x49DD5E88 := by decide +kernel

theorem test_good_check : crc32 goodBody = 0xB622A177 := by
  have h : crc32Run crc32Start goodBody = 0x49DD5E88 := by
    unfold crc32Start
    rw [crc32Run_parts, crc_0, crc32Run_parts, crc_1, List.drop_drop, crc32Run_parts, crc_2, List.drop_drop,
      crc32Run_parts, crc_3, List.drop_drop, crc32Run_parts, crc_4, List.drop_drop, crc32Run_parts, crc_5,
      List.drop_drop, crc32Run_parts, crc_6, List.drop_drop]
    exact crc_7
  unfold crc32
  rw [h]
  decide

theorem good_body : goodRecord.take 508 = goodBody := by decide +kernel

theorem test_good_profile : profileFault goodRecord 0x1000 = none := by
  have h3 : (wordAt goodRecord 508 != crc32 (goodRecord.take 508)) = false := by
    rw [good_body, test_good_check]
    decide +kernel
  have hs : profileTests goodRecord 0x1000 =
      [(1, []), (2, []), (3, []), (4, []), (5, []), (6, []), (7, []), (8, []), (9, []), (10, []), (11, []), (12, []),
       (13, []), (14, []), (15, [])] := by
    unfold profileTests
    rw [h3]
    decide +kernel
  unfold profileFault
  rw [hs]
  rfl

theorem test_bad_magic : profileFault badRecord 0x1000 = some (1, 0) := by decide +kernel

/-! ## The worked figures of the spec -/

/-- Oven 2 of the worked example of 06: references 500 and 2500, raw readings 512 and 2497. -/
def sampleCal : Cal := { refLow := 500, refHigh := 2500, rawLow := 512, rawHigh := 2497 }

/-- Oven 5 of that example. -/
def otherCal : Cal := { refLow := 500, refHigh := 2500, rawLow := 490, rawHigh := 2510 }

/-- The DISINFECT maxima of the example, and the upper end of the range. -/
theorem test_correction :
    sampleCal.corrected 905 = 896 ∧ otherCal.corrected 861 = 867 ∧ sampleCal.corrected 32767 = 4000 := by
  decide

/-- The raw hold thresholds of the example. -/
theorem test_threshold : sampleCal.threshold 850 = 860 ∧ otherCal.threshold 850 = 844 := by decide

theorem test_completion_words :
    (completionOf 0x1234 0x30 .done 1 2 3).words = [BitVec.ofNat 32 (ResultCode.done.code.toNat * 2 ^ 24 + 0x301234), 1, 2, 3] := by
  decide

theorem test_oven_record_length : (State.reset.ovenBytes 3).length = 60 := by decide +kernel
theorem test_site_record_length : State.reset.siteBytes.length = 124 := by decide +kernel

/-! ## States for the hypotheses of the statements -/

def sampleProfile : Profile :=
  { Profile.unloaded with
    windows := [⟨.profile, 0x1000, 4096⟩, ⟨.control, 0x2000, 4096⟩, ⟨.report, 0x10000, 65536⟩, ⟨.recipeLive, 0x100000, 32768⟩,
      ⟨.recipeDraft, 0x108000, 32768⟩, ⟨.recipeStore, 0x110000, 65536⟩, ⟨.image, 0x200000, 1048576⟩],
    command := ⟨0x2100, 4⟩, completion := ⟨0x10800, 4⟩, service := ⟨0x11000, 4⟩, journal := ⟨0x12000, 4⟩,
    mirror := 0x14000, summary := 0x15000, watched := [0, 4, 8, 12, 16, 20],
    lines := #v[some .r125000, some .r125000, some .r125000, none],
    tDue := 240, tOver := 360, holdTemp := 850, holdSecs := 300, maxCleaning := 2, classes := 0x28, updates := true,
    autoClean := true }

/-- RUNNING, HRST deasserted, everything else as at reset. -/
def run : State := { State.reset with mode := .running, profile := sampleProfile }

/-- One oven in service on line 1. -/
def oven : Entry :=
  { Entry.reset with state := .inService, place := some (1, 5), identity := some ⟨0xABCD, 3, 7⟩, silence := some 0 }

def runWith (e : Entry) : State := run.setEnt 3 e

def freeLine : Line := { Line.reset with state := .free, rate := .r125000 }

def runLine (x : Line) : State := run.setLn 1 x

def onPath (p : PathUnit) : State := { run with path := p }

def inFlight (st : EntryState) : InFlight := { req := ⟨readReq, 2⟩, state := st, good := false, data := [] }

def issuedOne (o : IssueOwner) (r : MemRequest) : State := onPath { PathUnit.reset with issued := [⟨o, r, false⟩] }

/-! ## The step, reset, start-up -/

theorem test_hyps_StepRunsFrontCommand :
    ({ run with pending := [.arbiterGrant] } : State).pending = .arbiterGrant :: [] ∧ run.pending = [] := by decide

theorem test_hyps_CommandsKeepQueueTimeAndProfile : exec .completionPost State.reset = .next State.reset := rfl

theorem test_hyps_StartUpTaken_release :
    (State.reset.mode = .inReset ∧ State.reset.startIssued = 0 ∧ State.reset.path.issued = []) ∧ run.mode ≠ .inReset := by decide

def starting (issued bytes : Nat) : State :=
  { State.reset with
    mode := .startUp, startIssued := issued, startBytes := goodRecord.take bytes,
    path := { PathUnit.reset with issued := [⟨.profile, ownRead 0x1000 8, false⟩] } }

theorem test_hyps_StartUpTaken_answer :
    ((starting 8 0).mode = .startUp ∧ (starting 8 0).AnswerFor .profile (ownRead 0x1000 8) [] ∧ (ownRead 0x1000 8).write = false ∧
      (List.replicate 8 (0 : Word)).length = (ownRead 0x1000 8).len ∧ (starting 8 0).startBytes.length + 4 * 8 < 512 ∧
      (starting 8 0).startIssued < 16 ∧ ([] : List Issued).length < 8) ∧
    (starting 16 0).startBytes.length + 4 * 8 < 512 ∧ ¬((starting 16 0).startIssued < 16 ∧ ([] : List Issued).length < 8) := by
  refine ⟨⟨rfl, ⟨rfl, rfl⟩, rfl, by decide, by decide, by decide, by decide⟩, by decide, by decide⟩

theorem test_hyps_ProfileTestsInOrder :
    wordAt badRecord 0 ≠ 0x32165046 ∧
    (wordAt (le32 0x32165046) 0 = 0x32165046 ∧ halfAt (le32 0x32165046) 4 ≠ 1) ∧
    (wordAt (le32 0x32165046 ++ [1, 0]) 0 = 0x32165046 ∧ halfAt (le32 0x32165046 ++ [1, 0]) 4 = 1 ∧
      wordAt (le32 0x32165046 ++ [1, 0]) 508 ≠ crc32 ((le32 0x32165046 ++ [1, 0]).take 508)) := by decide +kernel

theorem starting_record : (starting 16 480).startBytes ++ bytesOf (wordsOf (goodRecord.drop 480)) = goodRecord := by decide +kernel

theorem test_hyps_GoodProfileEntersRunning :
    (starting 16 480).mode = .startUp ∧ (starting 16 480).AnswerFor .profile (ownRead 0x1000 8) [] ∧
    (wordsOf (goodRecord.drop 480)).length = (ownRead 0x1000 8).len ∧ (starting 16 480).startIssued = 16 ∧
    512 ≤ (starting 16 480).startBytes.length + 4 * (wordsOf (goodRecord.drop 480)).length ∧
    profileFault ((starting 16 480).startBytes ++ bytesOf (wordsOf (goodRecord.drop 480))) (starting 16 480).profileAddr = none := by
  refine ⟨rfl, ⟨rfl, rfl⟩, by decide +kernel, rfl, by decide +kernel, ?_⟩
  rw [starting_record]
  exact test_good_profile

def startingBad : State := { starting 16 480 with startBytes := badRecord.take 480 }

/-- A record with a wrong interrupt mask: fault 9, so that a diagnostic write follows. -/
def maskBody : List Byte := goodBody.take 216 ++ le32 0x800 ++ goodBody.drop 220

def maskRecord : List Byte := maskBody ++ le32 0x167ABF30

def startingMask : State := { starting 16 480 with startBytes := maskRecord.take 480 }

theorem mask_3 : crc32Run 0x928B2D48 ((maskBody.drop 192).take 64) = 0x8532CBF7 := by decide +kernel
theorem mask_4 : crc32Run 0x8532CBF7 ((maskBody.drop 256).take 64) = 0x4A47C2E1 := by decide +kernel
theorem mask_5 : crc32Run 0x4A47C2E1 ((maskBody.drop 320).take 64) = 0xB9779391 := by decide +kernel
theorem mask_6 : crc32Run 0xB9779391 ((maskBody.drop 384).take 64) = 0x180AF9FF := by decide +kernel
theorem mask_7 : crc32Run 0x180AF9FF (maskBody.drop 448) = 0xE98540CF := by decide +kernel

theorem mask_0 : crc32Run 0xFFFFFFFF (maskBody.take 64) = 0x85BFE3EC := by
  rw [show maskBody.take 64 = goodBody.take 64 by decide +kernel]; exact crc_0
theorem mask_1 : crc32Run 0x85BFE3EC ((maskBody.drop 64).take 64) = 0xA273418A := by
  rw [show (maskBody.drop 64).take 64 = (goodBody.drop 64).take 64 by decide +kernel]; exact crc_1
theorem mask_2 : crc32Run 0xA273418A ((maskBody.drop 128).take 64) = 0x928B2D48 := by
  rw [show (maskBody.drop 128).take 64 = (goodBody.drop 128).take 64 by decide +kernel]; exact crc_2

theorem test_mask_check : crc32 maskBody = 0x167ABF30 := by
  have h : crc32Run crc32Start maskBody = 0xE98540CF := by
    unfold crc32Start
    rw [crc32Run_parts, mask_0, crc32Run_parts, mask_1, List.drop_drop, crc32Run_parts, mask_2, List.drop_drop,
      crc32Run_parts, mask_3, List.drop_drop, crc32Run_parts, mask_4, List.drop_drop, crc32Run_parts, mask_5,
      List.drop_drop, crc32Run_parts, mask_6, List.drop_drop]
    exact mask_7
  unfold crc32
  rw [h]
  decide

theorem test_mask_profile : profileFault maskRecord 0x1000 = some (9, 216) := by
  have h3 : (wordAt maskRecord 508 != crc32 (maskRecord.take 508)) = false := by
    rw [show maskRecord.take 508 = maskBody by decide +kernel, test_mask_check]
    decide +kernel
  unfold profileFault profileTests
  rw [h3]
  decide +kernel

theorem mask_record : startingMask.startBytes ++ bytesOf (wordsOf (maskRecord.drop 480)) = maskRecord := by decide +kernel

theorem test_hyps_BadProfileEntersPassOnly :
    (startingBad.mode = .startUp ∧ startingBad.AnswerFor .profile (ownRead 0x1000 8) [] ∧
      (wordsOf (badRecord.drop 480)).length = (ownRead 0x1000 8).len ∧ startingBad.startIssued = 16 ∧
      512 ≤ startingBad.startBytes.length + 4 * (wordsOf (badRecord.drop 480)).length ∧
      profileFault (startingBad.startBytes ++ bytesOf (wordsOf (badRecord.drop 480))) startingBad.profileAddr = some (1, 0) ∧
      diagnosticWrite (startingBad.startBytes ++ bytesOf (wordsOf (badRecord.drop 480))) startingBad.profileAddr 1 = false) ∧
    (startingMask.mode = .startUp ∧ startingMask.startIssued = 16 ∧
      512 ≤ startingMask.startBytes.length + 4 * (wordsOf (maskRecord.drop 480)).length ∧
      profileFault (startingMask.startBytes ++ bytesOf (wordsOf (maskRecord.drop 480))) startingMask.profileAddr = some (9, 216) ∧
      diagnosticWrite (startingMask.startBytes ++ bytesOf (wordsOf (maskRecord.drop 480))) startingMask.profileAddr 9 = true) ∧
    ((starting 8 0).mode = .startUp ∧ (starting 8 0).AnswerFor .profile (ownRead 0x1000 8) []) := by
  refine ⟨⟨rfl, ⟨rfl, rfl⟩, by decide +kernel, rfl, by decide +kernel, by decide +kernel, by decide +kernel⟩,
    ⟨rfl, rfl, by decide +kernel, ?_, by decide +kernel⟩, rfl, ⟨rfl, rfl⟩⟩
  rw [mask_record]
  exact test_mask_profile

/-- The addresses of that record pass their tests, and code 1 comes before CHECK. -/
theorem test_hyps_BadProfileEntersPassOnly_follows :
    (4 ≤ (9 : Byte).toNat ∧ (9 : Byte).toNat ≤ 15 ∧ (wordAt maskRecord 184).toNat % 64 = 0 ∧ (wordAt maskRecord 188).toNat % 4 = 0) ∧
    (∀ x ∈ [((wordAt maskRecord 184).toNat, 1152), ((wordAt maskRecord 188).toNat, 4)],
      ¬InWindowOf maskRecord [1, 4, 5, 6, 7] x.1 x.2 ∧
      (∀ k < 6, ¬AreasOverlap x.1 x.2 ((controlArea maskRecord).1 + (wordAt maskRecord (192 + 4 * k)).toNat) 4) ∧
      (∀ k < 4, ¬AreasOverlap x.1 x.2 (profRing maskRecord k).base.toNat ((profRing maskRecord k).size * ringEntry k))) ∧
    (¬AreasOverlap (wordAt maskRecord 184).toNat 1152 (0x1000 : Word).toNat 512 ∧
      ¬AreasOverlap (wordAt maskRecord 184).toNat 1152 (wordAt maskRecord 188).toNat 4) ∧ ¬4 ≤ (1 : Byte).toNat := by
  unfold InWindowOf AreasOverlap
  decide +kernel

/-! ## HRST, the port, the arbiter, memory's answers -/

theorem test_hyps_HostRestarts :
    (run.hrst = false ∧ run.mode = .running) ∧
    (({ run with mode := .passOnly } : State).hrst = false ∧ ({ run with mode := .passOnly } : State).mode = .passOnly) ∧
    (State.reset.hrst = false ∧ State.reset.mode = .inReset) ∧
    (({ run with hrst := true } : State).hrst = true ∧ ({ run with hrst := true } : State).mode = .running) ∧
    (({ State.reset with hrst := true } : State).hrst = true ∧ ({ State.reset with hrst := true } : State).mode ≠ .running) := by
  decide

theorem test_hyps_SoftwareRows :
    fromSoftware (.openProfile 1) = true ∧ State.reset.hears = false ∧ ({ run with hrst := true } : State).hears = false := by
  decide

def openPort (l : List InFlight) : State := onPath { PathUnit.reset with portOpen := true, inflight := l }

def request (write : Bool) (a : Word) : ProcRequest :=
  ⟨if write then { writeReq with addr := a } else { readReq with addr := a }, 1⟩

theorem test_hyps_RequestTakenAndDecided :
    (request false 2).req.wf = false ∧
    ((request false 0x40).req.wf = true ∧ run.path.portOpen = false) ∧
    8 ≤ (openPort (List.replicate 8 (inFlight .issued))).path.inflight.length ∧
    ((openPort []).path.portOpen = true ∧ (openPort []).hears = true ∧ (openPort []).path.inflight.length < 8 ∧
      (openPort []).decision (request false 0x40).req = .request ∧
      (openPort []).decision (request true 0x10000).req = .answer true ∧
      (openPort []).decision (request false 0x110000).req = .answer false) ∧
    ({ openPort [] with path := { (openPort []).path with posted := [⟨0x14000, [1], .mirror⟩] } } : State).decision
      (request false 0x14000).req = .hold ∧
    ((openPort [inFlight .issued]).path.inflight ≠ [] ∧ ∀ e ∈ (openPort [inFlight .issued]).path.inflight, e.state = .issued) ∧
    ((openPort [inFlight .issued, inFlight .held]).path.inflight = [inFlight .issued] ++ inFlight .held :: [] ∧
      ∀ e ∈ [inFlight .issued], e.state = .issued) := by decide +kernel

def windowNo (k : Nat) : Window := sampleProfile.windows.getD k ⟨.unused, 0, 0⟩

theorem test_hyps_DecisionAndIssueTest :
    run.classify { readReq with addr := 0xFFFFFFFC } = .refused ∧ run.classify readReq = .plain ∧
    run.classify { readReq with addr := 0x1FF8 } = .inside (windowNo 0) ∧
    run.classify { readReq with addr := 0x1FFC } = .refused ∧
    run.classify { readReq with addr := 0x2000 } = .inside (windowNo 1) ∧
    run.classify { readReq with addr := 0x10000 } = .inside (windowNo 2) ∧
    run.classify { readReq with addr := 0x107FF8 } = .inside (windowNo 3) ∧
    run.classify { readReq with addr := 0x108000 } = .inside (windowNo 4) ∧
    run.classify { readReq with addr := 0x110000 } = .inside (windowNo 5) ∧
    run.classify { readReq with addr := 0x2FFFF8 } = .inside (windowNo 6) ∧
    spansSlots (windowNo 3) { readReq with addr := 0x1001FC } = true ∧
    spansSlots (windowNo 3) { readReq with addr := 0x1001F8 } = false ∧
    run.covered { readReq with addr := 0x10000 } = false ∧
    (onPath { PathUnit.reset with posted := [⟨0x10004, [1], .mirror⟩] }).covered { readReq with addr := 0x10000 } = true := by
  decide +kernel

/-- R58: slots of 512 bytes, the last one, and a burst of two words across a boundary. -/
theorem test_hyps_DecisionAndIssueTest_slots :
    ((windowNo 3).base.toNat ≤ (0x107FF8 : Word).toNat ∧ 0 < readReq.len ∧ ((0x107FF8 : Word).toNat - (windowNo 3).base.toNat) / 512 < 64) ∧
    (recipeNoOf (windowNo 3) { readReq with addr := 0x1001F8 } = 0 ∧ recipeNoOf (windowNo 3) { readReq with addr := 0x100200 } = 1 ∧
      recipeNoOf (windowNo 3) { readReq with addr := 0x107FF8 } = 63) ∧
    (spansSlots (windowNo 3) { readReq with addr := 0x1001FC, len := 1 } = false ∧
      spansSlots (windowNo 3) { readReq with addr := 0x1001E4, len := 8 } = true ∧
      spansSlots (windowNo 3) { readReq with addr := 0x1001E0, len := 8 } = false) ∧
    (bankAddr 0x110000 63 1 = 0x11FE00 ∧ otherBank 1 = 0) := by decide +kernel

def asking (m : ArbMode) (bulk proc : Nat) (read : Bool) (posted : List PostedWrite) (l : List InFlight) : State :=
  { onPath { PathUnit.reset with arbMode := m, bulkCount := bulk, procCount := proc, posted := posted, inflight := l } with
    command := { CommandUnit.reset with fetch := if read then .waiting else .unset } }

def oneWrite : List PostedWrite := [⟨0x15000, [0], .summary⟩]

def oneRequest : List InFlight := [inFlight .requesting]

theorem test_hyps_ArbiterChoosesInOrder :
    (16 ≤ (asking .normal 16 16 true [] []).path.bulkCount ∧ (asking .normal 16 16 true [] []).bulkAsking = true) ∧
    ((asking .drain 15 16 true oneWrite oneRequest).procAsking = true ∧
      16 ≤ (asking .drain 15 16 true oneWrite oneRequest).path.procCount ∧
      (asking .drain 15 16 true oneWrite oneRequest).path.bulkCount < 16) ∧
    ((asking .normal 15 15 true oneWrite oneRequest).path.arbMode = .normal ∧
      (asking .normal 15 15 true oneWrite oneRequest).procAsking = true ∧
      (asking .normal 15 15 true oneWrite []).procAsking = false ∧ (asking .normal 15 15 true oneWrite []).path.posted ≠ [] ∧
      (asking .normal 15 15 true [] []).path.posted = [] ∧ (asking .normal 15 15 true [] []).bulkAsking = true) ∧
    ((asking .drain 15 15 true oneWrite oneRequest).path.arbMode = .drain ∧
      (asking .drain 15 15 true [] oneRequest).procAsking = true ∧ (asking .drain 15 15 true [] []).procAsking = false) ∧
    (run.procAsking = false ∧ run.path.posted = [] ∧ run.bulkAsking = false ∧ run.chosen = none) ∧
    8 ≤ (onPath { PathUnit.reset with issued := List.replicate 8 ⟨.processor, readReq, false⟩ }).path.issued.length ∧
    State.reset.mode = .inReset := by decide +kernel

theorem test_hyps_PostedAndReadGrants :
    ((asking .normal 0 0 true oneWrite []).mode = .running ∧ (asking .normal 0 0 true oneWrite []).path.issued.length < 8 ∧
      (asking .normal 0 0 true oneWrite []).path.posted = ⟨0x15000, [0], .summary⟩ :: [] ∧
      (asking .normal 0 0 true oneWrite []).chosen = some .posted) ∧
    ((asking .normal 0 0 false [] oneRequest).chosen = some .proc ∧
      (asking .normal 0 0 false [] oneRequest).path.inflight = [] ++ inFlight .requesting :: [] ∧
      (inFlight .requesting).req.req.write = false ∧
      (asking .normal 0 0 false [] oneRequest).issueTest (inFlight .requesting).req.req = .issue 0x40) := by decide +kernel

def refusedEntry (a : Word) (write : Bool) : InFlight := { req := request write a, state := .requesting, good := false, data := [] }

def clashState : State :=
  { asking .normal 0 0 false [] [refusedEntry 0x200000 true] with
    update := { UpdateUnit.reset with image := { ImageRec.reset with state := .verifying } } }

theorem test_hyps_ProcessorWriteGranted_refused :
    ((asking .normal 0 0 false [] [refusedEntry 0x1000 true]).hears = true ∧
      (asking .normal 0 0 false [] [refusedEntry 0x1000 true]).chosen = some .proc ∧
      (asking .normal 0 0 false [] [refusedEntry 0x1000 true]).bulkAsking = false ∧
      (asking .normal 0 0 false [] [refusedEntry 0x1000 true]).issueTest (refusedEntry 0x1000 true).req.req = .guard) ∧
    (clashState.hears = true ∧ clashState.chosen = some .proc ∧ clashState.bulkAsking = false ∧
      clashState.issueTest (refusedEntry 0x200000 true).req.req = .clash) := by decide +kernel

theorem test_hyps_BulkReadGranted :
    (asking .normal 0 0 true [] []).path.issued.length < 8 ∧ (asking .normal 0 0 true [] []).chosen = some .bulk ∧
    (asking .normal 0 0 true [] []).clientRead ((asking .normal 0 0 true [] []).path.bulkNext + 0) =
      some (.command, ownRead 0x2100 8) ∧
    ∀ j : Fin 7, j.val < (0 : Fin 7).val → (asking .normal 0 0 true [] []).clientRead (0 + j) = none := by decide +kernel

def answering : State :=
  onPath { PathUnit.reset with issued := [⟨.processor, readReq, false⟩], inflight := [inFlight .issued] }

theorem test_hyps_MemoryAnswers :
    (answering.AnswerFor .processor readReq [] ∧ answering.path.inflight = [inFlight .issued] ∧
      [(1 : Word), 2].length = (if readReq.write then 0 else readReq.len)) ∧
    (onPath { PathUnit.reset with issued := [⟨.processor, readReq, true⟩] }).path.issued =
      { owner := .processor, req := readReq, disregard := true } :: [] ∧
    ((issuedOne (.posted .mirror) writeReq).AnswerFor (.posted .mirror) writeReq [] ∧ writeReq.write = true ∧
      (issuedOne (.posted .mirror) writeReq).hears = true ∧
      (∀ c ∈ (issuedOne (.posted .mirror) writeReq).service.calls, ¬(c.source = .site ∧ c.cause = .memoryFault)) ∧
      (issuedOne (.posted .mirror) writeReq).service.calls.length < 32) :=
  ⟨⟨⟨rfl, rfl⟩, rfl, rfl⟩, rfl, ⟨rfl, rfl⟩, rfl, by decide, by decide, by decide⟩

/-- A read at the head, two entries behind it that have their answers, and a read that still waits for its own. -/
def answeringSeveral : State :=
  onPath { PathUnit.reset with
    issued := [⟨.processor, readReq, false⟩, ⟨.processor, readReq, false⟩]
    inflight := [inFlight .issued, inFlight .answered, inFlight .answered, inFlight .issued, inFlight .held, inFlight .waiting] }

theorem test_hyps_MemoryAnswers_several :
    (answeringSeveral.AnswerFor .processor readReq [⟨.processor, readReq, false⟩] ∧
      answeringSeveral.path.inflight = inFlight .issued :: ([inFlight .answered, inFlight .answered] ++
        [inFlight .issued, inFlight .held, inFlight .waiting])) ∧
    (∀ x ∈ [inFlight .answered, inFlight .answered], x.state = .answered) ∧ (inFlight .issued).state ≠ .answered ∧
    (∀ x older newer, [inFlight .issued, inFlight .held, inFlight .waiting] = older ++ x :: newer → x.state = .waiting →
      ∃ y ∈ older, y.state = .held ∨ y.state = .requesting) := by
  refine ⟨⟨⟨rfl, rfl⟩, rfl⟩, by decide, by decide, ?_⟩
  intro x older newer h hx
  rcases older with _ | ⟨a, _ | ⟨b, t⟩⟩
  · simp only [List.nil_append, List.cons.injEq] at h
    exact absurd hx (by rw [← h.1]; decide)
  · simp only [List.cons_append, List.nil_append, List.cons.injEq] at h
    exact absurd hx (by rw [← h.2.1]; decide)
  · simp only [List.cons_append, List.cons.injEq] at h
    exact ⟨b, by simp, Or.inl (by rw [← h.2.1]; rfl)⟩

/-- The responses go in the order of the table, and the read that still waits keeps what is behind it. -/
theorem test_answers_in_order :
    (processorAnswer (some [1, 2]) (answeringSeveral.answered [⟨.processor, readReq, false⟩])).path.responses =
        [⟨2, true, [1, 2]⟩, ⟨2, false, []⟩, ⟨2, false, []⟩] ∧
      (processorAnswer none (answeringSeveral.answered [⟨.processor, readReq, false⟩])).path.inflight =
        [inFlight .issued, inFlight .held, inFlight .waiting] := by decide +kernel

theorem test_hyps_MemoryAnswers_owner :
    run.oldIssued = [] ∧ run.path.issued = [] ∧ readReq.write = false ∧ ([] : List Word).length ≠ readReq.len ∧
    (issuedOne .verify readReq).AnswerFor .verify readReq [] ∧ (issuedOne (.fill 1) readReq).AnswerFor (.fill 1) readReq [] :=
  ⟨rfl, rfl, rfl, by decide, ⟨rfl, rfl⟩, ⟨rfl, rfl⟩⟩

/-! ## Watched words and fetched commands -/

theorem test_hyps_WatchedWordsTaken_consumers :
    run.hears = true ∧ (run.report.complProd - (BitVec.setWidth 16 (0xFFFC : Word))).toNat ≤ run.profile.completion.size ∧
    run.profile.completion.size < (run.report.complProd - (BitVec.setWidth 16 (0xFFFB : Word))).toNat ∧
    (run.report.svcProd - (BitVec.setWidth 16 (0xFFFC : Word))).toNat ≤ run.profile.service.size ∧
    run.profile.journal.size < (run.report.jrnProd - (BitVec.setWidth 16 (1 : Word))).toNat := by decide

def commandWaiting : State :=
  { run with command := { CommandUnit.reset with p := 1 } }

theorem test_hyps_WatchedWordsTaken_producer :
    (run.hears = true ∧ run.profile.command.size ≠ 0 ∧ ((4 : Word).setWidth 16 - run.command.c).toNat ≤ run.profile.command.size) ∧
    run.profile.command.size < ((5 : Word).setWidth 16 - run.command.c).toNat ∧
    State.reset.profile.command.size = 0 ∧
    (commandWaiting.hears = true ∧ commandWaiting.command.stopped = false ∧ commandWaiting.command.c ≠ commandWaiting.command.p ∧
      commandWaiting.command.fetch = .unset ∧ commandWaiting.profile.command.size ≠ 0 ∧
      commandWaiting.command.owed <
        commandWaiting.profile.completion.size - (commandWaiting.report.complProd - commandWaiting.report.complCons).toNat) ∧
    run.command.c = run.command.p := by decide

theorem test_hyps_WatchedWordsTaken_eventsAndClock :
    run.hears = true ∧ run.mode = .running ∧
    ({ run with report := { ReportWriter.reset with clockTimer := some 0, clock := 0xFFFFFFFF } } : State).report.clockTimer ≠ none := by
  decide

theorem test_hyps_CommandFetchAnswered :
    (issuedOne .command { readReq with len := 8 }).AnswerFor .command { readReq with len := 8 } [] ∧
    (issuedOne .command { readReq with len := 8 }).hears = true ∧ (List.replicate 8 (0 : Word)).length = 8 ∧
    byteAt [0, 0, 0x70] 2 = 0x70 ∧ byteAt [0, 0, 0x71] 2 ∉ [(0x01 : Byte), 0x70] :=
  ⟨⟨rfl, rfl⟩, by decide, by decide, by decide, by decide⟩

def openCall (st : CallState) : Call :=
  { source := .oven 3, cause := .silent, severity := .stop, state := st, raiseNo := 1, raised := 0, lastRaised := 0, repeats := 1,
    escalated := false, postedBefore := false, details := [0] }

def withCall (st : CallState) : State := { run with service := { ServiceUnit.reset with calls := [openCall st] } }

theorem call_keys (st : CallState) : (withCall st).CallKeysDistinct := List.pairwise_singleton _ _

theorem test_hyps_AckCloseAndOpenTaken_calls :
    (withCall .posted).hears = true ∧ (withCall .posted).CallKeysDistinct ∧
    ¬((0x10 : Byte).toNat < 16 ∨ (64 ≤ (0x10 : Byte).toNat ∧ (0x10 : Byte).toNat < 128) ∨ (0x10 : Byte) = 0xFF) ∧
    ¬(1 ≤ (9 : Byte).toNat ∧ (9 : Byte).toNat ≤ 8) ∧
    (∀ c ∈ (withCall .posted).service.calls, ¬(c.source = .site ∧ c.cause = .memoryFault)) ∧
    (∃ c ∈ (withCall .unposted).service.calls, c.state = .unposted) ∧
    ((withCall .posted).service.calls = [] ++ openCall .posted :: [] ∧ (openCall .posted).state ≠ .unposted) ∧
    ((withCall .acknowledged).service.calls = [] ++ openCall .acknowledged :: [] ∧
      (openCall .acknowledged).state = .acknowledged) :=
  ⟨by decide, call_keys _, by decide, by decide, by decide, by decide, by decide, by decide⟩

theorem test_hyps_AckCloseAndOpenTaken_profile :
    run.hears = true ∧
    ({ run with update := { UpdateUnit.reset with image := { ImageRec.reset with state := .verifying } } } : State).update.image.state
      = .verifying ∧
    run.update.rollout.state ≠ .active ∧ run.update.image.state ≠ .verifying := by decide

/-! ## The commands of the owners -/

def held (o : LongObj) : State :=
  { run with command := { CommandUnit.reset with longs := [{ kind := 0x10, tag := 1, obj := o, orphaned := false }] } }

theorem test_hyps_ReleaseTaken :
    16 ≤ (16 : Byte).toNat ∧ (run.ent 3).state ≠ .suspended ∧
    (((runWith { oven with state := .suspended, activity := .cooking }).ent 3).state = .suspended ∧
      ((runWith { oven with state := .suspended, activity := .cooking }).ent 3).activity ≠ .idle) ∧
    (((runWith { oven with state := .suspended }).ent 3).state = .suspended ∧
      ((runWith { oven with state := .suspended }).ent 3).activity = .idle ∧
      ((runWith { oven with state := .suspended }).ent 3).offerOut = false) := by decide +kernel

theorem test_hyps_CommissioningCommandsTaken :
    31 < (32 : Byte).toNat ∧ (4000 : Int) < (4001 : Half).toInt ∧ (-401 : Half).toInt < -400 ∧
    (1 ≤ (31 : Byte).toNat ∧ (31 : Byte).toNat ≤ 31 ∧ -400 ≤ (-400 : Half).toInt ∧ (4000 : Half).toInt ≤ 4000) ∧
    (held (.oven 3)).held (.oven 3) = true ∧
    (run.held (.oven 3) = false ∧ ((runWith oven).ent 3).state ≠ .vacant ∧ (run.ent 3).state = .vacant ∧
      run.lineEnabled 3 = false) ∧
    run.commissionRefusal 3 1 31 0 100 = none ∧
    ((1000 : Half).toInt - (900 : Half).toInt ≥ 100 ∧ (65536 : Word).toNat > 65535 ∧ (65535 : Word).toNat ≤ 65535) := by
  decide +kernel

theorem test_hyps_CommissioningCommandsTaken_recalibrate :
    (held (.oven 3)).held (.oven 3) = true ∧ run.held (.oven 3) = false ∧ (run.ent 3).state ≠ .calFailed ∧
    (run.ent 3).state ≠ .inService ∧
    (((runWith { oven with offerOut := true }).ent 3).state = .inService ∧
      ((runWith { oven with offerOut := true }).ent 3).offerOut = true) ∧
    (((runWith oven).ent 3).state = .inService ∧ ((runWith oven).ent 3).activity = .idle ∧ ((runWith oven).ent 3).offerOut = false ∧
      ((runWith oven).ent 3).upd.state ≠ .queued) ∧
    (run.held (.oven 3) = false ∧ ((runWith { oven with upd := { UpdRec.reset with state := .queued } }).ent 3).upd.state = .queued) ∧
    ((99 : Half).toInt - (0 : Half).toInt < 100 ∧ 100 ≤ (100 : Half).toInt - (0 : Half).toInt) := by decide +kernel

theorem test_hyps_RetireTaken :
    run.hears = true ∧ (held (.oven 3)).held (.oven 3) = true ∧ (run.ent 3).state = .vacant ∧
    ((runWith oven).held (.oven 3) = false ∧ ((runWith oven).ent 3).state ≠ .vacant ∧
      ((runWith oven).ent 3).state ≠ .revalidating ∧ ((runWith oven).ent 3).activity = .idle ∧
      ((runWith oven).ent 3).offerOut = false ∧ ((runWith oven).ent 3).late = false) ∧
    ((runWith { oven with activity := .filling }).ent 3).activity ≠ .idle := by decide +kernel

def withSlot (q : RecipeSlot) : State := run.setRslot 63 q

theorem test_hyps_PublishAndWithdrawTaken :
    State.reset.hasStore = false ∧ 64 ≤ (64 : Byte).toNat ∧
    (run.hasStore = true ∧ run.held (.recipe 63) = false ∧ (run.rslot 63).publish = .idle ∧ (run.rslot 63).written = false ∧
      (run.rslot 63).state = .empty) ∧
    (held (.recipe 63)).held (.recipe 63) = true ∧
    (((withSlot { RecipeSlot.reset with written := true }).rslot 63).written = true ∧
      (withSlot { RecipeSlot.reset with written := true }).versionHeld 63 1 = false ∧
      (withSlot { RecipeSlot.reset with written := true }).recipe.engine = none ∧
      (withSlot { RecipeSlot.reset with written := true }).recipe.publishList = []) ∧
    (runWith { oven with dir := [⟨63, 1, false, false, .unset⟩] }).versionHeld 63 1 = true ∧
    ((withSlot { RecipeSlot.reset with state := .published }).rslot 63).state ≠ .empty := by decide +kernel

def liveSlot : RecipeSlot := { RecipeSlot.reset with state := .published, version := 4 }

/-- Recipe 9 is live, and oven 3 may have it. -/
def cookable (e : Entry) : State :=
  { (runWith e).setRslot 9 liveSlot with cache := { CacheUnit.reset with gates := CacheUnit.reset.gates.set 9 (some ⟨0x08, 7⟩) } }

def stored : Entry := { oven with dir := [⟨9, 4, false, false, .unset⟩] }

theorem test_hyps_CookAndAbortTaken :
    run.hears = true ∧ 16 ≤ (16 : Byte).toNat ∧ (held (.oven 3)).held (.oven 3) = true ∧
    (run.held (.oven 3) = false ∧ (run.ent 3).state ≠ .inService) ∧
    ((runWith oven).held (.oven 3) = false ∧ ((runWith oven).ent 3).state = .inService ∧
      (runWith oven).startRefusal 3 9 = some .recipeAbsent) ∧
    ((cookable stored).held (.oven 3) = false ∧ ((cookable stored).ent 3).state = .inService ∧
      (cookable stored).startRefusal 3 9 = none ∧ (cookable stored).hit 3 9 = true ∧
      ((cookable stored).ent 3).dirEntry 9 = some ⟨9, 4, false, false, .unset⟩) ∧
    ((cookable oven).startRefusal 3 9 = none ∧ (cookable oven).hit 3 9 = false) := by decide +kernel

theorem test_hyps_CookAndAbortTaken_checks :
    (run.ent 3).state ≠ .inService ∧ ((runWith { oven with activity := .updating }).ent 3).activity ≠ .idle ∧
    ((runWith { oven with level := .overdue }).ent 3).level = .overdue ∧
    ((cookable oven).rslot 9).state = .published ∧ (cookable oven).gate 9 = some ⟨0x08, 7⟩ ∧
    ((cookable oven).ent 3).identity = some ⟨0xABCD, 3, 7⟩ ∧ (0x08 : Half).getLsbD (3 : Byte).toNat = true ∧
    (0x08 : Half).getLsbD (4 : Byte).toNat = false ∧ (6 : Half).toNat < (7 : Half).toNat ∧ (7 : Half).toNat ≤ (7 : Half).toNat := by
  decide +kernel

def cooking : Entry :=
  { oven with activity := .cooking, cook := some ⟨9, 4, .panel, 2, 0, 1, none⟩ }

theorem test_hyps_CookAndAbortTaken_abort :
    ((runWith oven).ent 3).activity ≠ .cooking ∧ ((runWith cooking).ent 3).activity = .cooking ∧
    ((runWith cooking).ent 3).cook = some ⟨9, 4, .panel, 2, 0, 1, none⟩ := by decide +kernel

def cleanWait : CleanWait := ⟨3, 1, .panel, 0, true⟩

def queued (e : Entry) : State := { runWith e with hygiene := { HygieneUnit.reset with queue := [cleanWait] } }

theorem test_hyps_CleanTaken :
    4 < (5 : Byte).toNat ∧ (1 ≤ (4 : Byte).toNat ∧ (4 : Byte).toNat ≤ 4) ∧ (run.ent 3).state ≠ .inService ∧
    ((runWith { oven with offerOut := true }).ent 3).offerOut = true ∧
    (((runWith oven).ent 3).state = .inService ∧ ((runWith oven).ent 3).activity ≠ .cleaning ∧
      ((runWith oven).ent 3).offerOut = false ∧ (∀ w ∈ (runWith oven).hygiene.queue, w.slot ≠ 3)) ∧
    (∃ w ∈ (queued oven).hygiene.queue, w.slot = 3) := by decide +kernel

theorem queued_once : (queued oven).QueuedOnce := List.pairwise_singleton _ _

theorem test_hyps_CancelCleanTaken :
    ((runWith { oven with activity := .cleaning }).ent 3).activity = .cleaning ∧
    (((runWith oven).ent 3).activity ≠ .cleaning ∧ (∀ w ∈ (runWith oven).hygiene.queue, w.slot ≠ 3)) ∧
    (((queued oven).ent 3).activity ≠ .cleaning ∧ ((queued oven).ent 3).offerOut = false ∧ (queued oven).QueuedOnce ∧
      (queued oven).hygiene.queue = [] ++ cleanWait :: [] ∧ cleanWait.slot = 3) :=
  ⟨by decide +kernel, by decide +kernel, by decide +kernel, by decide +kernel, queued_once, rfl, rfl⟩

def imageState (m : ImageRec) : State := { run with update := { UpdateUnit.reset with image := m } }

theorem test_hyps_StageCloseAndRolloutTaken_stage :
    State.reset.imageWindow = none ∧ run.imageWindow = some (windowNo 6) ∧
    ((60 : Word).toNat < 64 ∧ (66 : Word).toNat % 4 ≠ 0 ∧ (windowNo 6).size < (0x100004 : Word).toNat) ∧
    (64 ≤ (64 : Word).toNat ∧ (64 : Word).toNat % 4 = 0 ∧ (0x100000 : Word).toNat ≤ (windowNo 6).size) ∧
    (held .image).held .image = true ∧ (run.held .image = false ∧ run.update.image.state ≠ .filling) ∧
    ((imageState { ImageRec.reset with state := .filling, expected := 64, acc := 5 }).update.image.state = .filling ∧
      (imageState { ImageRec.reset with state := .filling, expected := 64, acc := 5 }).update.image.expected = (64 : Word).toNat ∧
      (imageState { ImageRec.reset with state := .filling, expected := 64, acc := 5 }).update.image.acc = 5) := by decide +kernel

def verified : ImageRec := { ImageRec.reset with state := .verified, head := some ⟨9, 3⟩, staged := some (64, 5) }

def rolling : State :=
  { runWith { oven with activity := .updating, upd := { UpdRec.reset with state := .sending } } with
    update := { UpdateUnit.reset with
      image := { verified with state := .inRollout },
      rollout := { RolloutRec.reset with state := .active, target := 8, length := 64, level := 9, cls := 3 } } }

theorem test_hyps_StageCloseAndRolloutTaken_rollout :
    1 < (2 : Byte).toNat ∧ (1 : Byte).toNat ≤ 1 ∧ State.reset.profile.updates = false ∧
    ((held .image).profile.updates = true ∧ (held .image).held .image = true) ∧
    (run.held .image = false ∧ run.update.image.state ≠ .verified) ∧
    ((imageState verified).held .image = false ∧ (imageState verified).update.image.state = .verified ∧
      (imageState verified).update.image.head = some ⟨9, 3⟩ ∧ (imageState verified).update.image.staged = some (64, 5)) ∧
    (run.update.rollout.state ≠ .active ∧ rolling.update.rollout.state = .active ∧ rolling.hears = true ∧
      (rolling.ent 3).upd.state = .sending ∧ (rolling.ent 3).upd.switchQueued = false ∧
      rolling.blockRunning (rolling.ent 3).line .image 3 = false) := by decide +kernel

/-! ## The report writer -/

def finished : Completion := completionOf 7 0x30 .done 0 0 0

def journalled : JournalRec :=
  { body := .cook ⟨3, .panel, none, 9, 4, 2, 0, 0, .done, 1⟩, gap := false }

def reporting (r : ReportWriter) (l : List Completion) (calls : List Call) : State :=
  { run with
    report := r, command := { CommandUnit.reset with completions := l, owed := l.length },
    service := { ServiceUnit.reset with calls := calls } }

theorem test_hyps_RingRecordsPostedInOrder :
    ((reporting .reset [finished] []).hears = true ∧ (reporting .reset [finished] []).path.posted.length < 16 ∧
      (reporting .reset [finished] []).command.completions = finished :: [] ∧
      ((reporting .reset [finished] []).report.complProd - (reporting .reset [finished] []).report.complCons).toNat <
        (reporting .reset [finished] []).profile.completion.size) ∧
    ((reporting .reset [] [openCall .unposted]).completionReady = none ∧
      ((reporting .reset [] [openCall .unposted]).report.svcProd - (reporting .reset [] [openCall .unposted]).report.svcCons).toNat <
        (reporting .reset [] [openCall .unposted]).profile.service.size ∧
      (reporting .reset [] [openCall .unposted]).service.calls = [] ++ openCall .unposted :: [] ∧
      (openCall .unposted).state = .unposted) ∧
    (reporting .reset [] [openCall .unposted]).CallKeysDistinct ∧
    ((reporting { ReportWriter.reset with journal := [journalled] } [] []).completionReady = none ∧
      (reporting { ReportWriter.reset with journal := [journalled] } [] []).serviceReady = none ∧
      (reporting { ReportWriter.reset with journal := [journalled] } [] []).report.journal = journalled :: []) :=
  ⟨by decide +kernel, by decide +kernel, List.pairwise_singleton _ _, by decide +kernel⟩

theorem test_hyps_RingRecordsPostedInOrder_order :
    State.reset.mode ≠ .running ∧ 16 ≤ (onPath { PathUnit.reset with posted := List.replicate 16 ⟨0, [], .mirror⟩ }).path.posted.length ∧
    (({ run with hrst := true } : State).hrst = true ∧ ({ run with hrst := true } : State).startUnderHrst = false) ∧
    (run.hrst = false ∧ (reporting .reset [finished] []).completionReady ≠ none) ∧
    (reporting .reset [] [openCall .unposted]).serviceReady ≠ none ∧
    (reporting { ReportWriter.reset with journal := [journalled] } [] []).journalReady ≠ none ∧
    16 < (onPath { PathUnit.reset with posted := List.replicate 13 ⟨0, [], .mirror⟩ }).path.posted.length + (RewriteItem.oven 0).room := by
  decide +kernel

def rewriting (l : List RewriteItem) (n : Nat) : State :=
  { run with
    report := { ReportWriter.reset with rewriteList := l },
    path := { PathUnit.reset with posted := List.replicate n ⟨0, [], .mirror⟩ } }

theorem rewriting_served (l : List RewriteItem) (n : Nat) : (rewriting l n).rewritesServed :=
  ⟨rfl, (fun h => nomatch h), fun _ =>
    ⟨by unfold State.completionReady; split <;> rfl, by unfold State.serviceReady; split <;> rfl,
      by unfold State.journalReady; split <;> rfl⟩⟩

theorem test_hyps_RewritesPosted :
    ((rewriting [.oven 3] 12).rewritesServed ∧ (rewriting [.oven 3] 12).report.rewriteList = .oven 3 :: [] ∧
      (rewriting [.oven 3] 12).path.posted.length + 4 ≤ 16) ∧
    ((rewriting [.site] 10).rewritesServed ∧ (rewriting [.site] 10).report.rewriteList = .site :: [] ∧
      (rewriting [.site] 10).path.posted.length + 6 ≤ 16) ∧
    ((rewriting [.summary] 15).rewritesServed ∧ (rewriting [.summary] 15).report.rewriteList = .summary :: [] ∧
      (rewriting [.summary] 15).path.posted.length < 16 ∧ (rewriting [.summary] 15).report.summaryRaised = false) :=
  ⟨⟨rewriting_served _ _, rfl, by decide⟩, ⟨rewriting_served _ _, rfl, by decide⟩, rewriting_served _ _, rfl, by decide, rfl⟩

/-! ## The lines and the timers -/

def evictTelegram : Queued :=
  { tel := .evict 9, owner := .cache, target := some 3, about := none, addr := 5, replyAddr := 5, void := false }

def pollTelegram : Queued :=
  { tel := .poll none, owner := .lineUnit, target := some 3, about := none, addr := 5, replyAddr := 5, void := false }

def fillStream : Stream := { kind := .fill, slot := 3, next := 0, ready := true, data := [], drop := false }

def imageStream : Stream := { fillStream with kind := .image }

theorem test_hyps_SchedulerChooses :
    (run.mode = .running ∧ (run.ln 1).state ≠ .free ∧ ((runLine { freeLine with test := .pending }).ln 1).test ≠ .unset) ∧
    (((runLine { freeLine with urgent := [evictTelegram] }).ln 1).state = .free ∧
      ((runLine { freeLine with urgent := [evictTelegram] }).ln 1).test = .unset ∧
      ((runLine { freeLine with urgent := [evictTelegram] }).ln 1).urgent = evictTelegram :: []) ∧
    ((⟨3, 0, true, true⟩ : PollEntry) ∈ ((runLine { freeLine with schedule := [⟨3, 0, true, true⟩, ⟨5, 0, true, true⟩] }).ln 1).schedule ∧
      roundPos 0 3 ≤ roundPos 0 5) ∧
    ((⟨3, 0, true, false⟩ : PollEntry) ∈ ((runLine { freeLine with schedule := [⟨3, 0, true, false⟩] }).ln 1).schedule ∧
      (∀ q ∈ ((runLine { freeLine with schedule := [⟨3, 0, true, false⟩] }).ln 1).schedule, q.overdue = false) ∧
      (∀ z ∈ ((runLine { freeLine with schedule := [⟨3, 0, true, false⟩] }).ln 1).streams, z.ready = false)) ∧
    (((runLine { freeLine with streams := [imageStream] }).ln 1).streams = [] ++ imageStream :: [] ∧ imageStream.ready = true ∧
      streamTelegram ((runLine { freeLine with streams := [imageStream] }).ln 1).fill imageStream = some (.imageBlock 0 [])) ∧
    (((runLine freeLine).ln 1).urgent = [] ∧ (∀ q ∈ ((runLine freeLine).ln 1).schedule, q.overdue = false ∧ q.due = false)) := by
  decide +kernel

def inTransaction (st : LineState) (n : Nat) : State :=
  runLine { freeLine with state := st, trans := some { q := pollTelegram, attempt := n, damage := false, gone := false } }

theorem test_hyps_LineEventsAndAttemptsEnd_events :
    run.mode = .running ∧ ((inTransaction .receive 1).ln 1).state = .receive ∧
    ((inTransaction .receive 1).ln 1).trans = some { q := pollTelegram, attempt := 1, damage := false, gone := false } ∧
    ((runLine freeLine).ln 1).state ≠ .receive := by decide +kernel

/-- A STATUS without a notice, and an ACK, which a POLL does not allow, from drop 5. -/
def statusChars : List RawChar := (charsOf 5 0x85 [0, 0x10, 0, 0x20, 0, 0]).map cleanChar

def ackChars : List RawChar := (charsOf 5 0x81 []).map cleanChar

def answeredLine : State := (inTransaction .listen 1).setEnt 3 oven

theorem test_hyps_RepliesJudged :
    ((answeredLine.ln 1).state = .listen ∧
      (answeredLine.ln 1).trans = some { q := pollTelegram, attempt := 1, damage := false, gone := false }) ∧
    judgeReply 6 (sampleChars statusChars) = .damaged ∧
    (judgeReply 5 (sampleChars ackChars) = .wellFormed 0x81 [] ∧ replyTo (.poll none) 0x81 [] = none) ∧
    (judgeReply 5 (sampleChars statusChars) = .wellFormed 0x85 [0, 0x10, 0, 0x20, 0, 0] ∧
      replyTo (.poll none) 0x85 [0, 0x10, 0, 0x20, 0, 0] = some (.status ⟨.idle, 0x10, 0x20, none⟩)) ∧
    ((answeredLine.ent 3).state.polled = true ∧ (answeredLine.ent 3).flushDue = false ∧
      (∀ d ∈ (answeredLine.ent 3).dir, d.eviction ≠ .due) ∧ (answeredLine.ent 3).upd.state ≠ .switching) := by decide +kernel

theorem test_hyps_LineEventsAndAttemptsEnd_attempts :
    ((inTransaction .listen 2).ln 1).trans = some { q := pollTelegram, attempt := 2, damage := false, gone := false } ∧
    ((inTransaction .listen 2).ln 1).state = .listen ∧ ((inTransaction .quiet 3).ln 1).state = .quiet ∧
    (((inTransaction .quiet 3).setEnt 3 oven).ent 3).state ≠ .vacant ∧ pollTelegram.target = some 3 := by decide +kernel

theorem test_hyps_LineTestRuns :
    4 ≤ (4 : Byte).toNat ∧ ((held (.line 1)).held (.line 1) = true ∧ run.held (.line 1) = false ∧ run.lineEnabled 3 = false ∧
      run.lineEnabled 2 = true) ∧
    ((runLine { freeLine with state := .test, test := .running }).ln 1).state = .test ∧
    loopRun testChars (sampleChars (testChars.map cleanChar)) 0 = (69, .none) ∧
    loopRun testChars (sampleChars ((testChars.take 68).map cleanChar)) 0 = (68, .none) ∧
    loopRun testChars (sampleChars [cleanChar 0]) 0 = (0, .unequal) := by decide +kernel

def timed (f : Entry → Entry) : State := runWith (f oven)

theorem test_hyps_RosterTimersExpire :
    (((timed id).ent 3).silence ≠ none ∧ ((timed id).ent 3).state = .inService ∧ ((timed id).ent 3).upd.state ≠ .switching ∧
      ((timed id).ent 3).upd.state ≠ .queued ∧ ((timed id).ent 3).activity = .idle) ∧
    (((timed fun e => { e with state := .calibrating, calLimit := some 0 }).ent 3).silence ≠ none ∧
      ((timed fun e => { e with state := .calibrating, calLimit := some 0 }).ent 3).state ≠ .inService ∧
      ((timed fun e => { e with state := .calibrating, calLimit := some 0 }).ent 3).calLimit ≠ none) ∧
    (((timed fun e => { e with state := .revalidating, identResend := some 0 }).ent 3).identResend ≠ none ∧
      ((timed fun e => { e with state := .revalidating, identResend := some 0 }).ent 3).state = .revalidating ∧
      ((timed fun e => { e with identResend := some 0 }).ent 3).identResend ≠ none) ∧
    (((timed fun e => { e with upd := { e.upd with state := .switching, limit := some 0 } }).ent 3).upd.limit ≠ none ∧
      ((timed fun e => { e with upd := { e.upd with state := .switching, limit := some 0 } }).ent 3).upd.state = .switching) ∧
    ((run.ent 3).silence = none ∧ (run.ent 3).identResend = none ∧ (run.ent 3).calLimit = none ∧ (run.ent 3).upd.limit = none) := by
  decide +kernel

def minuteState (n : Nat) : State :=
  { runWith { cooking with count := n } with hygiene := { HygieneUnit.reset with minute := some 0 } }

theorem test_hyps_HygieneTimersExpire :
    ((minuteState 359).mode = .running ∧ (minuteState 359).hygiene.minute ≠ none ∧ ((minuteState 359).ent 3).activity = .cooking ∧
      ((minuteState 359).ent 4).activity ≠ .cooking ∧ (minuteState 359).hrst = false ∧
      (minuteState 359).profile.autoClean = true ∧ ((minuteState 359).ent 3).level ≠ .overdue) ∧
    (run.hygiene.minute = none ∧ (run.ent 3).requeue = none) ∧
    (((timed fun e => { e with requeue := some 0, level := .overdue }).ent 3).requeue ≠ none ∧
      ((timed fun e => { e with requeue := some 0, level := .overdue }).ent 3).state = .inService ∧
      ((timed fun e => { e with requeue := some 0, level := .overdue }).ent 3).level = .overdue ∧
      (∀ w ∈ (timed fun e => { e with requeue := some 0, level := .overdue }).hygiene.queue, w.slot ≠ 3)) ∧
    ((timed fun e => { e with requeue := some 0 }).ent 3).level ≠ .overdue := by decide +kernel

theorem test_hyps_EventsSettle_nothing :
    (∀ l : LineNo, (run.ln l).fillQueue = []) ∧ run.hygiene.queue = [] ∧ run.update.rollout.state ≠ .active ∧
    run.update.rollout.state ≠ .halting := by decide +kernel

theorem test_hyps_CorrectedTemperature :
    0 < sampleCal.rawHigh.toInt - sampleCal.rawLow.toInt ∧ 0 < sampleCal.refHigh.toInt - sampleCal.refLow.toInt := by decide

/-! ## Reads of the recipe unit and of the update unit -/

def bulkRead (n : Nat) : MemRequest := { write := false, addr := 0x110000, len := n, data := [], enables := [] }

def publishing (e : Engine) (q : RecipeSlot) : State :=
  { (issuedOne .publish (bulkRead 8)).setRslot 9 q with
    recipe := { ((issuedOne .publish (bulkRead 8)).setRslot 9 q).recipe with publishList := [9], engine := some e } }

def engine0 : Engine := { recipe := 9, base := 0x110000, issued := 1, taken := 0, header := none, reg := 0xFFFFFFFF }

def oneStep : Engine :=
  { engine0 with taken := 1, header := some { steps := 1, probe := false, gate := ⟨8, 7⟩ } }

def goodHeader : List Word := [0, 0, 0, 0, 0x00070001, 0x00000008, 0, 0]

/-- Step 0: mode 1, time condition, fan 1, 100 degrees for 60 seconds. -/
def goodStep : List Word := [0x00010101, 0x003C03E8, 0, 0]

theorem test_hyps_PublishReadsAnswered :
    ((publishing engine0 .reset).mode = .running ∧ (publishing engine0 .reset).AnswerFor .publish (bulkRead 8) [] ∧
      (bulkRead 8).write = false ∧ (publishing engine0 .reset).recipe.engine = some engine0) ∧
    (goodHeader.length = (bulkRead 8).len ∧ engine0.header = none ∧ headerFault (bytesOf goodHeader) = none ∧
      headerFault (bytesOf (List.replicate 8 0)) = some 1) ∧
    (oneStep.header = some { steps := 1, probe := false, gate := ⟨8, 7⟩ } ∧
      stepsFault false ((bytesOf goodStep).length / 16) (2 * (oneStep.taken - 1)) (bytesOf goodStep) = none ∧
      stepsFault false 1 0 (bytesOf [0, 0, 0, 0]) = some (0, 5) ∧
      oneStep.taken + 1 = 1 + (1 + 1) / 2 ∧ oneStep.taken + 1 ≠ 1 + (3 + 1) / 2) ∧
    ((publishing oneStep { RecipeSlot.reset with readers := 1 }).rslot 9).readers ≠ 0 ∧
    (((publishing oneStep .reset).rslot 9).readers = 0 ∧ (publishing oneStep .reset).versionHeld 9 1 = false) :=
  ⟨⟨rfl, ⟨rfl, rfl⟩, rfl, rfl⟩, by decide +kernel, by decide +kernel, by decide +kernel, by decide +kernel⟩

/-- A recipe of one step, 48 bytes, of which the last 16 are still to come. -/
def recipeHead : List Byte := bytesOf goodHeader

def filling (check : Word) : Fill :=
  { slot := 3, recipe := 9, base := 0x110000, version := 4, used := 48, check := check, issued := 2, data := recipeHead,
    streaming := false, victim := none, stale := false, abandoned := false, failed := false }

def fillState (f : Fill) : State :=
  { (cookable { oven with activity := .filling, start := some ⟨9, .panel, none, true, .reading⟩ }).setLn 1
      { freeLine with fill := some f } with
    path := { PathUnit.reset with issued := [⟨.fill 1, bulkRead 4, false⟩] } }

theorem test_hyps_FillReadsAnswered :
    ((fillState (filling 0)).mode = .running ∧ (fillState (filling 0)).AnswerFor (.fill 1) (bulkRead 4) [] ∧
      (fillState (filling 0)).ln 1 = { freeLine with fill := some (filling 0) } ∧ goodStep.length = (bulkRead 4).len) ∧
    ({ filling 0 with used := 52 } : Fill).data.length + 4 * goodStep.length < ({ filling 0 with used := 52 } : Fill).used ∧
    ((filling 0).used ≤ (filling 0).data.length + 4 * goodStep.length ∧ (filling 0).abandoned = false ∧
      ((fillState (filling 0)).rslot 9).publish ≠ .commitWait ∧
      crc32 ((filling 0).data ++ bytesOf goodStep) = (filling (crc32 (recipeHead ++ bytesOf goodStep))).check ∧
      ((fillState (filling 0)).ent 3).gateRefusal (bufferGate ((filling 0).data ++ bytesOf goodStep)) = none) ∧
    crc32 ((filling 0).data ++ bytesOf goodStep) ≠ (filling 0).check :=
  ⟨⟨rfl, ⟨rfl, rfl⟩, by decide +kernel, rfl⟩, by decide +kernel, by decide +kernel, by decide +kernel⟩

/-- A fill for a panel or for a COOK, with an entry to be evicted at the end, of a slot that waits for its last reader. -/
def fillEnding (o : Origin) (e : Entry → Entry) : State :=
  (fillState (filling 0)).modEnt 3 (fun x => e { x with
    dir := [⟨8, 1, false, true, .unset⟩], start := some ⟨9, o, none, true, .reading⟩ }) |>.setRslot 9
    { liveSlot with publish := .commitWait, readers := 1, staged := some ⟨5, 48, ⟨8, 7⟩⟩ }

theorem test_hyps_FillReadsAnswered_ends :
    (((fillEnding .panel id).rslot 9).publish = .commitWait ∧ ((fillEnding .panel id).rslot 9).readers ≤ 1 ∧
      ((fillState (filling 0)).rslot 9).publish ≠ .commitWait) ∧
    (((fillEnding .panel id).ent 3).start = some ⟨9, .panel, none, true, .reading⟩ ∧ Origin.panel ≠ .controller ∧
      ((fillEnding .controller id).ent 3).start = some ⟨9, .controller, none, true, .reading⟩) ∧
    (((fillEnding .panel fun e => { e with identity := some ⟨5, 4, 7⟩ }).ent 3).gateRefusal (bufferGate (recipeHead ++ bytesOf goodStep)) =
        some .model ∧
      ((fillEnding .panel fun e => { e with identity := some ⟨5, 3, 0⟩ }).ent 3).gateRefusal (bufferGate (recipeHead ++ bytesOf goodStep)) =
        some .level) ∧
    (((fillEnding .panel id).ln 1).urgent.length < 16 → ((fillEnding .panel id).ln 1).waiting = []) := by decide +kernel

/-- R92 before R96 (log 61): the EVICT stands before the DENY. -/
theorem test_bad_fill_refuses :
    ((fillBad 1 (filling 0) (fillEnding .panel id)).ln 1).urgent.map (fun q => q.tel) = [.evict 8, .deny .recipeQuarantined] ∧
      ((fillBad 1 (filling 0) (fillEnding .panel id)).ln 1).fill = none := by decide +kernel

def verifying (v : Verify) (len : Nat) (check : Word) : State :=
  { issuedOne .verify (bulkRead 8) with
    update := { UpdateUnit.reset with
      image := { ImageRec.reset with state := .verifying, staged := some (len, check) }, verify := some v } }

def halfRead : Verify := { issued := 2, bytes := 32, reg := 5, header := List.replicate 32 0 }

theorem test_hyps_VerifyAndBlockReadsAnswered_verify :
    ((verifying halfRead 64 0).mode = .running ∧ (verifying halfRead 64 0).AnswerFor .verify (bulkRead 8) [] ∧
      (verifying halfRead 64 0).update.verify = some halfRead ∧ (verifying halfRead 64 0).update.image.staged = some (64, 0)) ∧
    ((List.replicate 8 (0 : Word)).length = (bulkRead 8).len ∧ halfRead.bytes < 64 ∧ 64 ≤ halfRead.bytes + 4 * 8 ∧
      imageHeaderFault run.profile 64 0 (List.replicate 64 0) = some (.magic, 0)) ∧
    (imageHeaderFault run.profile 64 5
        (le32 0x4D493216 ++ [3, 0, 0, 0] ++ le16 9 ++ zeros 2 ++ le32 64 ++ le32 5 ++ zeros 44) = none ∧
      64 ≤ halfRead.bytes + 4 * 8 ∧ halfRead.bytes + 4 * 8 < 68) ∧
    ¬({ halfRead with bytes := 0 } : Verify).bytes + 4 * 8 ≥ 64 := by
  refine ⟨⟨rfl, ⟨rfl, rfl⟩, rfl, rfl⟩, by decide +kernel, by decide +kernel, by decide +kernel⟩

def blockState (left : Nat) : State :=
  { rolling.modEnt 3 (fun e => { e with upd := { e.upd with readsLeft := left } }) with
    path := { PathUnit.reset with issued := [⟨.block 3, bulkRead 8, false⟩] } }

theorem test_hyps_VerifyAndBlockReadsAnswered_block :
    ((blockState 2).mode = .running ∧ (blockState 2).AnswerFor (.block 3) (bulkRead 8) []) ∧
    (((blockState 2).ent 3).upd.state = .sending ∧ 2 ≤ ((blockState 2).ent 3).upd.readsLeft ∧
      ((blockState 1).ent 3).upd.readsLeft = 1) ∧
    ((issuedOne (.block 3) (bulkRead 8)).ent 3).upd.state ≠ .sending :=
  ⟨⟨rfl, ⟨rfl, rfl⟩⟩, by decide +kernel, by decide +kernel⟩

/-! ## The profile tests at their edges -/

def edited (off : Nat) (l : List Byte) : List Byte := goodBody.take off ++ l ++ goodBody.drop (off + l.length)

/-- What the tests from the fourth on find in the good record with some bytes replaced. -/
def findings (off : Nat) (l : List Byte) : List (Byte × List Nat) :=
  ((profileTests (edited off l) 0x1000).drop 3).filter (fun x => x.2 != [])

theorem test_profile_windows :
    findings 8 (le32 0x1800) = [(4, [8, 20]), (5, [8])] ∧ findings 12 (le32 0x1800) = [(4, [12, 20])] ∧
    findings 28 [8] = [(4, [28]), (5, [8]), (6, [192, 196, 200, 204, 208, 212])] ∧
    findings 28 [0] = [(5, [8]), (6, [192, 196, 200, 204, 208, 212])] ∧
    findings 28 [1] = [(5, [8, 28, 20]), (6, [192, 196, 200, 204, 208, 212])] := by
  decide +kernel
theorem test_profile_watched_and_rings :
    findings 192 (le32 0xFFC) = [] ∧ findings 192 (le32 0x1000) = [(6, [192])] ∧ findings 196 (le32 0) = [(6, [196])] ∧
    findings 152 (le32 0x2020 ++ le32 4) = [] ∧ findings 152 (le32 0x2010 ++ le32 4) = [(7, [152])] ∧
    findings 156 (le32 512) = [(7, [156]), (8, [152])] := by decide +kernel
theorem test_profile_areas :
    findings 184 (le32 0x14020) = [(8, [184])] ∧ findings 188 (le32 0x15002) = [(8, [188])] ∧
    findings 184 (le32 0x1000) = [(8, [184])] ∧ findings 188 (le32 0x14000) = [(8, [188])] ∧
    findings 216 (le32 0x7FF) = [] := by decide +kernel
theorem test_profile_ranges :
    findings 220 [2, 0] = [(10, [220])] ∧ findings 220 [1, 3] = [] ∧ findings 220 [1, 4] = [(10, [221])] ∧
    findings 228 [20] = [] ∧ findings 228 [21] = [(11, [228])] ∧ findings 236 [50, 80] = [] ∧
    findings 236 [51, 81] = [(12, [236, 237])] ∧ findings 240 (le16 240) = [(13, [240])] ∧ findings 240 (le16 241) = [] ∧
    findings 248 (le16 1) = [(14, [248])] ∧ findings 250 [2, 2] = [(15, [250, 251])] := by decide +kernel

theorem test_hyps_ProfileTestsInOrder_codes :
    ProfileBreaks badRecord 0x1000 1 0 ∧ (∀ n < 0, ¬ProfileBreaks badRecord 0x1000 1 n) ∧
    ProfileBreaks (edited 12 (le32 0x1800)) 0x1000 4 12 ∧ ProfileBreaks (edited 228 [21]) 0x1000 11 228 ∧
    ProfileBreaks (edited 184 (le32 0x14020)) 0x1000 8 184 :=
  ⟨⟨rfl, by decide +kernel⟩, fun _ h => absurd h (Nat.not_lt_zero _),
    ⟨0, by decide, by decide +kernel, Or.inr (Or.inl ⟨rfl, Or.inr (Or.inl (by decide +kernel))⟩)⟩,
    Or.inl ⟨rfl, by decide +kernel⟩, Or.inr (Or.inl ⟨rfl, by decide +kernel⟩)⟩

/-! ## Requests and grants, further clauses -/

def inWindow (w : Window) (r : MemRequest) (k : Nat) : Bool :=
  decide (w.base.toNat ≤ r.addr.toNat + 4 * k) && decide (r.addr.toNat + 4 * k < w.base.toNat + w.size)

theorem test_hyps_DecisionAndIssueTest_window :
    (2 ^ 32 < (0xFFFFFFFC : Word).toNat + 4 * 2 ∧ (0xFFFFFFF8 : Word).toNat + 4 * 2 ≤ 2 ^ 32) ∧
    (∀ w ∈ run.profile.windows, ∀ k < 2, inWindow w readReq k = false) ∧
    (windowNo 0 ∈ run.profile.windows ∧ (∀ k < 2, inWindow (windowNo 0) { readReq with addr := 0x1FF8 } k = true)) ∧
    (inWindow (windowNo 1) { readReq with addr := 0x2FFC } 0 = true ∧
      inWindow (windowNo 1) { readReq with addr := 0x2FFC } 1 = false) := by
  decide +kernel

theorem test_windows_disjoint (k : Nat) (h : (windowNo 0).base.toNat ≤ k ∧ k < (windowNo 0).base.toNat + (windowNo 0).size) :
    ∀ v ∈ run.profile.windows, v.base.toNat ≤ k → k < v.base.toNat + v.size → v = windowNo 0 := by
  have e : run.profile.windows =
    [windowNo 0, windowNo 1, windowNo 2, windowNo 3, windowNo 4, windowNo 5, windowNo 6] := by decide
  have h0 : (windowNo 0).base.toNat = 4096 ∧ (windowNo 0).size = 4096 ∧ (windowNo 1).base.toNat = 8192 ∧
      (windowNo 2).base.toNat = 65536 ∧ (windowNo 3).base.toNat = 1048576 ∧ (windowNo 4).base.toNat = 1081344 ∧
      (windowNo 5).base.toNat = 1114112 ∧ (windowNo 6).base.toNat = 2097152 := by decide
  intro v hv a b
  rw [e] at hv
  simp only [List.mem_cons, List.not_mem_nil, or_false] at hv
  rcases hv with rfl | rfl | rfl | rfl | rfl | rfl | rfl <;> first | rfl | (exfalso; omega)

def heldRead : InFlight := { req := request false 0x15000, state := .held, good := false, data := [] }

theorem test_hyps_PostedAndReadGrants_held :
    ((asking .normal 0 0 false oneWrite [heldRead]).chosen = some .posted ∧
      (asking .normal 0 0 false oneWrite [heldRead]).path.inflight = [] ++ heldRead :: [] ∧ heldRead.state = .held ∧
      (asking .normal 0 0 false oneWrite [heldRead]).covered heldRead.req.req = true ∧
      (asking .normal 0 0 false [] [heldRead]).covered heldRead.req.req = false) ∧
    (asking .normal 0 0 false (oneWrite ++ oneWrite) [heldRead]).path.posted = ⟨0x15000, [0], .summary⟩ :: oneWrite := by
  decide +kernel

def writeAt (a : Word) (en : BitVec 4) : InFlight :=
  { req := ⟨{ writeReq with addr := a, enables := [en] }, 1⟩, state := .requesting, good := false, data := [] }

def writes (a : Word) (en : BitVec 4) : State := asking .normal 0 0 false [] [writeAt a en]

theorem test_hyps_ProcessorWriteGranted_classes :
    ((writes 0x40 15).chosen = some .proc ∧ (writes 0x40 15).path.inflight = [] ++ [writeAt 0x40 15] ∧
      (writeAt 0x40 15).req.req.write = true ∧ (writes 0x40 15).issueTest (writeAt 0x40 15).req.req = .issue 0x40 ∧
      (writes 0x40 15).classify (writeAt 0x40 15).req.req = .plain) ∧
    ((writes 0x2FFC 15).classify (writeAt 0x2FFC 15).req.req = .inside (windowNo 1) ∧
      (writes 0x2FFC 15).issueTest (writeAt 0x2FFC 15).req.req = .issue 0x2FFC) := by decide +kernel

theorem test_hyps_ProcessorWriteGranted_words :
    ((writes 0x108000 1).classify (writeAt 0x108000 1).req.req = .inside (windowNo 4) ∧
      (writes 0x108000 1).issueTest (writeAt 0x108000 1).req.req = .issue 0x110200 ∧ (∃ b ∈ [(1 : BitVec 4)], b ≠ 0) ∧
      ∀ b ∈ [(0 : BitVec 4)], b = 0) ∧
    ((writes 0x200000 15).classify (writeAt 0x200000 15).req.req = .inside (windowNo 6) ∧
      (writes 0x200000 15).issueTest (writeAt 0x200000 15).req.req = .issue 0x200000) ∧
    (run.profile.watched.Nodup ∧ run.profile.watched[5]? = some 20 ∧ run.hears = true ∧ (20 : Word) ∈ run.profile.watched) ∧
    run.profile.watched.all (fun o => decide (0x2018 ≠ run.controlBase + o.toNat)) = true ∧
    (run.profile.windows = [windowNo 0] ++ windowNo 1 :: run.profile.windows.drop 2 ∧ (windowNo 0).cls ≠ .control ∧
      (windowNo 1).cls = .control) := by
  refine ⟨by decide +kernel, by decide +kernel, by decide, by decide +kernel, by decide +kernel⟩

theorem test_hyps_ProcessorWriteGranted_stream :
    ((∀ b ∈ [(15 : BitVec 4)], b = 0xF) ∧ ([7] : List Word) ≠ [] ∧
      ({ ImageRec.reset with state := .filling, expected := 4 } : ImageRec).state = .filling ∧
      4 = ({ ImageRec.reset with state := .filling, expected := 4 } : ImageRec).expected) ∧
    ((∃ b ∈ [(14 : BitVec 4)], b ≠ 0) ∧ (∃ b ∈ [(14 : BitVec 4)], b ≠ 0xF)) ∧
    (8 ≠ 0 ∧ 8 ≠ ({ ImageRec.reset with state := .filling, expected := 4 } : ImageRec).expected) := by decide

theorem test_hyps_ProcessorWriteGranted_hold :
    (asking .normal 0 0 false oneWrite [{ heldRead with state := .requesting }]).hears = true ∧
    (asking .normal 0 0 false oneWrite [{ heldRead with state := .requesting }]).chosen = some .proc ∧
    (asking .normal 0 0 false oneWrite [{ heldRead with state := .requesting }]).path.posted = ⟨0x15000, [0], .summary⟩ :: [] ∧
    (asking .normal 0 0 false oneWrite [{ heldRead with state := .requesting }]).issueTest heldRead.req.req = .hold := by decide +kernel

theorem test_hyps_MemoryAnswers_others :
    ((issuedOne .verify readReq).oldIssued ++ (issuedOne .verify readReq).path.issued = ⟨.verify, readReq, false⟩ :: [] ∧
      IssueOwner.verify ≠ .processor ∧ ∀ i, IssueOwner.verify ≠ .block i) ∧
    ({ run with oldIssued := [⟨.profile, ownRead 0x1000 8, false⟩] } : State).oldIssued = ⟨.profile, ownRead 0x1000 8, false⟩ :: [] ∧
    IssueOwner.profile = .profile :=
  ⟨⟨rfl, nofun, nofun⟩, rfl, rfl⟩

/-! ## Commissioning and the halt, further clauses -/

def neighbour (e : Entry) : State := run.setEnt 5 e

def fullLine (n : Nat) : State :=
  (List.range n).foldl (fun s k => s.setEnt (BitVec.ofNat 4 (k + 4)).toFin
    { oven with place := some (1, BitVec.ofNat 8 (k + 10)), identity := some ⟨BitVec.ofNat 32 k, 3, 7⟩ }) run

theorem test_hyps_CommissioningCommandsTaken_checks :
    (((neighbour oven).ent 5).state ≠ .vacant ∧ (neighbour oven).onLine 1 5 = true ∧ ((neighbour oven).ent 5).drop = 5) ∧
    (slots.countP (fun k => ((fullLine 8).ent k).state != .vacant && (fullLine 8).onLine 1 k) = 8 ∧
      slots.countP (fun k => ((fullLine 7).ent k).state != .vacant && (fullLine 7).onLine 1 k) = 7 ∧
      (∀ k : Slot, ((fullLine 8).ent k).drop ≠ 5)) ∧
    ((0xABCD : Word) ≠ 0 ∧ ((neighbour { oven with place := some (2, 5) }).ent 5).identity = some ⟨0xABCD, 3, 7⟩) ∧
    ((neighbour { oven with place := some (1, 6), pairing := true }).ent 5).pairing = true ∧
    ((99 : Half).toInt - (0 : Half).toInt < 100 ∧ 100 ≤ (100 : Half).toInt - (0 : Half).toInt) ∧
    ((fullLine 8).commissionRefusal 3 1 5 0 100 = some .state ∧ (fullLine 7).commissionRefusal 3 1 5 0 100 = none ∧
      (fullLine 7).commissionRefusal 3 1 5 0 99 = some .range ∧
      (neighbour { oven with place := some (1, 6), pairing := true }).commissionRefusal 3 1 5 0 100 = some .busy) := by decide +kernel

def blockTransaction : Transaction :=
  { q := { tel := .imageBlock 0 [], owner := .update, target := some 3, about := none, addr := 5, replyAddr := 5, void := false },
    attempt := 1, damage := false, gone := false }

def rollingBlock : State := rolling.setLn 1 { freeLine with state := .listen, trans := some blockTransaction }

theorem test_hyps_StageCloseAndRolloutTaken_stopMark :
    (rollingBlock.update.rollout.state = .active ∧ rollingBlock.hears = true ∧ (rollingBlock.ent 3).upd.state = .sending ∧
      (rollingBlock.ent 3).upd.switchQueued = false ∧ rollingBlock.blockRunning (rollingBlock.ent 3).line .image 3 = true) ∧
    (∀ i : Slot, (rollingBlock.ent i).upd.state ≠ .queued) ∧
    ((rolling.setEnt 4 { oven with upd := { UpdRec.reset with state := .queued } }).ent 4).upd.state = .queued ∧
    ((rolling.modEnt 3 fun e => { e with upd := { e.upd with switchQueued := true } }).ent 3).upd.switchQueued = true := by
  decide +kernel

/-! ## The end of a transaction, and what its owner makes of it -/

def sent (t : Telegram) (o : Owner) : Queued :=
  { tel := t, owner := o, target := some 3, about := none, addr := 5, replyAddr := 5, void := false }

/-- ASSIGN and CONFIRM as the roster sends them (R29): to the broadcast address, answered from it or from the new drop. -/
def aboutOven (t : Telegram) : Queued :=
  { sent t .roster with
    target := none, about := some 3, addr := 0,
    replyAddr := match t with
      | .confirm _ d => d
      | _ => 0 }

def poorly (n : Nat) : State := timed fun e => { e with failures := n }

theorem test_hyps_RepliesJudged_ends :
    ((aboutOven (.confirm 1 5)).target = none ∧ (sent .flush .cache).target = some 3 ∧ (run.ent 3).state = .vacant) ∧
    (((timed id).ent 3).state ≠ .vacant ∧ ((timed id).ent 3).upd.state ≠ .switching ∧ (Outcome.failed false).isValid = false) ∧
    (((timed fun e => { e with upd := { e.upd with state := .switching } }).ent 3).upd.state = .switching ∧
      (Outcome.valid .ack).isValid = true) ∧
    ((sent .abort .cache).tel = .abort ∧ (sent .abort .roster).owner ≠ .cache) ∧
    (((poorly 1).ent 3).failures < 2 ∧ ((poorly 2).ent 3).failures = 2 ∧ ((poorly 2).ent 3).state = .inService ∧
      ((poorly 2).ent 3).late = false ∧ ((poorly 3).ent 3).failures ≤ 3 ∧ (run.ent 3).state ≠ .inService) := by decide +kernel

def noticed : StatusReply := ⟨.idle, 0x10, 0x20, some (true, .calBusy)⟩

theorem test_hyps_RepliesJudged_status :
    noticed.notice = some (true, .calBusy) ∧ ((timed id).ent 3).toggle ≠ some true ∧
    ((timed fun e => { e with toggle := some true }).ent 3).toggle = some true ∧
    ((timed fun e => { e with state := .assigning }).ent 3).state = .assigning ∧ (run.ent 3).state.polled = false ∧
    (run.ent 3).state ≠ .assigning := by decide +kernel

def pairing (k : JobKind) (f : Entry → Entry) : State :=
  timed fun e => f { e with
    state := .assigning, pairing := true, identity := none, silence := none,
    job := some { kind := k, tag := 7, named := 0xABCD, kept := 0xABCD, cal := sampleCal, minutes := 90 } }

def identifying (k : JobKind) : State := pairing k fun e => { e with state := .identifying }

def theJob (k : JobKind) : Job := { kind := k, tag := 7, named := 0xABCD, kept := 0xABCD, cal := sampleCal, minutes := 90 }

def replied (a : Activity) (model : Byte) : IdentReply :=
  { serial := 0xABCD, model := model, level := 7, activity := a, token := 4, recipe := 9, version := 2 }

theorem test_hyps_CommissioningOutcomes_pair :
    ((aboutOven (.assign 0xABCD 5)).about = some 3 ∧ ((pairing .commission id).ent 3).state = .assigning ∧
      ((pairing .commission id).ent 3).job = some (theJob .commission)) ∧
    ((((pairing .commission id).setEnt 5 oven).ent 5).state ≠ .vacant ∧
      (((pairing .commission id).setEnt 5 oven).ent 5).identity = some ⟨0xABCD, 3, 7⟩) ∧
    (∀ k : Slot, k ≠ 3 → ((pairing .commission id).ent k).state = .vacant) ∧
    (aboutOven (.confirm 0xABCD 5)).tel = .confirm 0xABCD 5 := by decide +kernel

theorem test_hyps_CommissioningOutcomes_ident :
    ((sent .identReq .roster).owner = .roster ∧ (sent .identReq .roster).void = false ∧
      ((identifying .restore).ent 3).state = .identifying ∧ ((identifying .restore).ent 3).job = some (theJob .restore) ∧
      ((identifying .commission).ent 3).job = some (theJob .commission)) ∧
    ((replied .idle 3).serial = (theJob .restore).kept ∧ ({ replied .idle 3 with serial := 1 } : IdentReply).serial ≠ 0xABCD) ∧
    (run.profile.classes.getLsbD (replied .idle 3).model.toNat = true ∧
      run.profile.classes.getLsbD (replied .idle 4).model.toNat = false) ∧
    ((theJob .commission).kind ≠ .restore ∧ (theJob .restore).kind = .restore ∧ (replied .filling 3).activity ≠ .idle ∧
      (replied .cleaning 3).activity = .cleaning ∧ (replied .cooking 3).activity = .cooking) ∧
    (((identifying .restore).ent 3).activity = .idle ∧ ((identifying .restore).ent 3).dir = [] ∧
      ((identifying .restore).ent 3).grant = none) ∧
    ((identifying .commission).cache.aborts = [] ∧ ((runLine freeLine).ln 1).urgent.length < 16 ∧
      16 ≤ ((runLine { freeLine with urgent := List.replicate 16 evictTelegram }).ln 1).urgent.length) := by decide +kernel

/-- A full FIFO with telegrams to the oven and to another one, and offers that wait behind it. -/
def crowded (k : JobKind) : State :=
  (identifying k).setLn 1 { freeLine with
    urgent := List.replicate 15 evictTelegram ++ [pollTelegram], waiting := [evictTelegram, { evictTelegram with target := some 4 }] }

theorem test_hyps_CommissioningOutcomes_order :
    ((16 ≤ ((crowded .commission).ln 1).urgent.length ∧ ((crowded .commission).ln 1).waiting ≠ []) ∧
      ((crowded .commission).ent 3).line = 1 ∧ (crowded .commission).cache.aborts = [] ∧
      ((crowded .commission).ent 3).job = some (theJob .commission) ∧ (theJob .commission).kind = .commission ∧
      (theJob .restore).kind ≠ .commission) ∧
    (((identifying .commission).ln 1).urgent.length < 16 ∧ ((identifying .commission).ln 1).waiting = []) := by decide +kernel

/-- R8: the offer that waited moves up, and an ASSIGN queued afterwards stands behind the UNASSIGN. -/
theorem test_unassign_before_assign :
    ((failCommission 3 .noOven 0 true (crowded .commission)).ln 1).urgent.map (fun q => q.tel) = [.evict 9, .unassign] ∧
    ((queueUrgent 1 (aboutOven (.assign 1 5)) (failCommission 3 .noOven 0 true (crowded .commission))).ln 1).urgent.map
      (fun q => q.tel) = [.evict 9, .unassign, .assign 1 5] := by decide +kernel

def calibrating (k : JobKind) : State :=
  timed fun e => { e with state := .calibrating, calLimit := some 0, job := some (theJob k) }

theorem test_hyps_CalibrationOutcomes :
    ((sent .probeCheck .roster).tel = .probeCheck ∧ ((calibrating .commission).ent 3).state = .calibrating ∧
      ((calibrating .commission).ent 3).job = some (theJob .commission) ∧
      ((calibrating .commission).ent 3).identity = some ⟨0xABCD, 3, 7⟩) ∧
    (((500 : Half).toInt - sampleCal.refLow.toInt).natAbs ≤ run.profile.tolZero ∧
      (((2500 : Half).toInt - (500 : Half).toInt) - (sampleCal.refHigh.toInt - sampleCal.refLow.toInt)).natAbs ≤ run.profile.tolSpan ∧
      100 ≤ (2500 : Half).toInt - (500 : Half).toInt) ∧
    (run.profile.tolZero < ((500 : Half).toInt - sampleCal.refLow.toInt + (run.profile.tolZero + 1 : Nat)).natAbs ∧
      (599 : Half).toInt - (500 : Half).toInt < 100) ∧
    ((timed id).ent 3).state ≠ .calibrating := by decide +kernel

def released : State := timed fun e => { e with state := .revalidating }

theorem test_hyps_RevalidationOutcomes :
    ((released.ent 3).state = .revalidating ∧ (released.ent 3).activity = .idle ∧
      (released.ent 3).identity = some ⟨0xABCD, 3, 7⟩) ∧
    ({ replied .idle 3 with serial := 1 } : IdentReply).serial ≠ 0xABCD ∧ (replied .cleaning 3).activity = .cleaning ∧
    (replied .idle 3).activity ≠ .cleaning ∧ ({ sent .identReq .roster with void := true } : Queued).void = true ∧
    ((timed fun e => { e with abortMark := .outstanding }).ent 3).abortMark = .outstanding ∧
    ((timed id).ent 3).abortMark ≠ .outstanding := by decide +kernel

/-! ## Evictions, fills and cooks -/

def entryOf (r : RecipeNo) (v : Eviction) (atEnd : Bool) : DirEntry := ⟨r, 4, false, atEnd, v⟩

def starts (st : Stage) (o : Origin) : Option PendingStart :=
  some { recipe := 9, origin := o, tag := none, fillNeeded := true, stage := st }

def inOven (d : List DirEntry) (f : Entry → Entry) : State := (timed fun e => f { e with dir := d }).setRslot 9 liveSlot

theorem test_hyps_Evictions :
    (((inOven [entryOf 9 .outstanding false] id).ent 3).usesRecipe 9 = false ∧
      ((inOven [entryOf 9 .outstanding false] fun e => { e with activity := .cooking, cook := cooking.cook }).ent 3).usesRecipe 9 = true) ∧
    (((inOven [] fun e => { e with activity := .filling, start := starts .evictWait .panel }).ent 3).start = starts .evictWait .panel ∧
      ((inOven [] id).ent 3).start = none) ∧
    (((timed fun e => { e with flushDue := true }).ent 3).flushDue = true ∧ ((timed id).ent 3).flushDue = false) ∧
    ((((inOven [entryOf 9 .due true, entryOf 8 .due true] id).ln 1).urgent.length < 16 →
        ((inOven [entryOf 9 .due true, entryOf 8 .due true] id).ln 1).waiting = []) ∧
      (∃ d ∈ ((inOven [entryOf 9 .due true, entryOf 8 .due true] id).ent 3).dir, d.eviction = .due ∧ d.evictAtEnd = true)) := by
  decide +kernel

theorem test_hyps_Evictions_distinct :
    ((inOven [entryOf 9 .due true, entryOf 8 .due true] id).ent 3).dir.Pairwise (fun a b => a.recipe ≠ b.recipe) := by
  decide +kernel

def streamed (f : Fill) (x : Stream) (o : Origin) : State :=
  (inOven [] fun e => { e with activity := .filling, start := starts .streaming o }).setLn 1
    { freeLine with fill := some f, streams := [x] }

def good48 : Fill := { filling 0 with streaming := true }

theorem test_hyps_FillsEnd :
    (((streamed good48 fillStream .panel).ln 1).fill = some good48 ∧ good48.slot = 3 ∧
      (streamed good48 fillStream .panel).streamOf 1 .fill 3 = some fillStream ∧ fillStream.drop = false) ∧
    ((streamed good48 { fillStream with drop := true } .panel).streamOf 1 .fill 3 = some { fillStream with drop := true }) ∧
    (((streamed good48 fillStream .panel).ent 3).start = starts .streaming .panel ∧ good48.stale = false ∧
      ({ good48 with stale := true } : Fill).stale = true ∧
      ((streamed good48 fillStream .controller).ent 3).start = starts .streaming .controller) := by decide +kernel

/-- Oven 3 with a DUE entry for recipe slot 9 while a fill of that slot streams to it. -/
def dueUnderFill : State :=
  (inOven [entryOf 9 .due false] fun e => { e with activity := .filling, start := starts .streaming .panel }).setLn 1
    { freeLine with fill := some good48, streams := [fillStream] }

/-- A commit's or a withdrawal's notice sends EVICT for the DUE entry (R89, log 65); a STATUS does not while the fill exists (R91). -/
theorem test_due_entry_under_fill :
    ((dueUnderFill.ent 3).fills 9 = true ∧ (dueUnderFill.ent 3).usesRecipe 9 = false) ∧
    (((staleRecipe 9 dueUnderFill).ln 1).urgent = [sent (.evict 9) .cache] ∧
      ((staleRecipe 9 dueUnderFill).ent 3).dir = [{ entryOf 9 .outstanding false with stale := true }]) ∧
    resendEvictions 3 dueUnderFill = dueUnderFill := by decide +kernel

def granted : GrantRec := { token := 1, recipe := 9, version := 4, origin := .panel, tag := none, confirmed := false }

theorem test_hyps_Grants :
    (((inOven [] fun e => { e with activity := .filling, start := starts .granting .controller, grant := some granted }).ent 3).start
        = starts .granting .controller ∧
      ((inOven [] fun e => { e with activity := .filling, start := starts .granting .controller, grant := some granted }).ent 3).grant
        = some granted) ∧
    (((inOven [entryOf 9 .unset false] fun e => { e with state := .suspended }).ent 3).start = none ∧
      ((inOven [entryOf 9 .unset false] fun e => { e with state := .suspended }).ent 3).activity = .idle ∧
      (∀ d ∈ ((inOven [entryOf 9 .unset false] fun e => { e with state := .suspended }).ent 3).dir, d.evictAtEnd = false)) := by
  decide +kernel

def eight : List DirEntry := (List.range 8).map fun k => entryOf (BitVec.ofNat 6 (k + 20)).toFin .unset false

theorem test_hyps_Adoption :
    (((inOven [entryOf 9 .unset false] id).ent 3).dirEntry 9 = some (entryOf 9 .unset false) ∧
      (entryOf 9 .unset false).version = 4 ∧ (entryOf 9 .unset false).version ≠ 5) ∧
    (((inOven (eight.take 7) id).ent 3).dirEntry 9 = none ∧ ((inOven (eight.take 7) id).ent 3).dir.length < 8) ∧
    (((inOven eight id).ent 3).dirEntry 9 = none ∧ ((inOven eight id).ent 3).dir = eight.take 7 ++ [entryOf 27 .unset false] ∧
      8 ≤ ((inOven eight id).ent 3).dir.length) ∧
    (((inOven [] fun e => { e with state := .suspended, causes := 2 }).ent 3).causes.getLsbD 1 = true ∧
      ((inOven [] fun e => { e with state := .suspended, causes := 2 }).ent 3).abortMark = .unset) := by decide +kernel

theorem test_hyps_CookNotices :
    (((runWith cooking).ent 3).state = .inService ∧ ((runWith cooking).ent 3).activity = .cooking ∧
      ((runWith cooking).ent 3).cook = some ⟨9, 4, .panel, 2, 0, 1, none⟩ ∧ (3 : Byte) ≠ 2) ∧
    (((timed fun e => { e with activity := .updating }).ent 3).activity ≠ .idle ∧
      ((timed fun e => { e with activity := .updating }).ent 3).activity ≠ .cooking) ∧
    ((timed id).ent 3).activity = .idle ∧
    (((timed fun e => { e with state := .calFailed }).ent 3).state ≠ .inService ∧
      ((timed fun e => { e with state := .calFailed }).ent 3).state ≠ .suspended) ∧
    (((runWith { cooking with state := .suspended }).ent 3).silence ≠ none ∧
      ((runWith { cooking with state := .suspended }).ent 3).state = .suspended) := by decide +kernel

def aborting (e : Entry) : State :=
  { runWith e with cache := { CacheUnit.reset with aborts := [⟨6, 4, 2, false⟩, ⟨7, 3, 2, false⟩] } }

theorem test_hyps_StartRequestsAndAborts :
    ((runWith oven).startRefusal 3 9 = some .recipeAbsent ∧ (cookable stored).startRefusal 3 9 = none ∧
      (cookable stored).hit 3 9 = true ∧ ((cookable stored).ent 3).dirEntry 9 = some ⟨9, 4, false, false, .unset⟩ ∧
      (cookable oven).startRefusal 3 9 = none ∧ (cookable oven).hit 3 9 = false) ∧
    ((sent .abort .cache).tel = .abort ∧ (sent .abort .cache).owner = .cache ∧ run.cache.aborts = []) ∧
    ((aborting cooking).cache.aborts = [⟨6, 4, 2, false⟩] ++ ⟨7, 3, 2, false⟩ :: [] ∧
      ((aborting cooking).ent 3).activity = .cooking ∧ ((aborting cooking).ent 3).cook = some ⟨9, 4, .panel, 2, 0, 1, none⟩ ∧
      ((aborting oven).ent 3).activity ≠ .cooking) := by decide +kernel

/-! ## Cleanings, faults and calls -/

def offered (o : Origin) (f : Entry → Entry) : State :=
  timed fun e => f { e with offerOut := true, offer := some ⟨1, o, 0, 850⟩ }

def followed (phases : BitVec 5) (m : Option Int) (secs : Half) : Entry :=
  { oven with activity := .cleaning, cal := some sampleCal, cleaning := some ⟨1, .panel, 0, 0, 850, phases, m, secs⟩ }

theorem test_hyps_CleanGo :
    (((offered .auto id).ent 3).offerOut = true ∧ ((offered .auto id).ent 3).offer = some ⟨1, .auto, 0, 850⟩ ∧
      ((offered .auto id).ent 3).activity = .idle ∧ ((offered .auto id).ent 3).state ≠ .suspended) ∧
    ((offered .panel fun e => { e with state := .suspended }).ent 3).state = .suspended ∧
    ((offered .panel fun e => { e with activity := .cooking }).ent 3).activity ≠ .idle := by decide +kernel

theorem test_hyps_CleanRequests :
    (((timed id).ent 3).state = .inService ∧ ((timed id).ent 3).activity ≠ .cleaning ∧ ((timed id).ent 3).offerOut = false ∧
      (∀ w ∈ (timed id).hygiene.queue, w.slot ≠ 3) ∧ (∃ w ∈ (queued oven).hygiene.queue, w.slot = 3)) ∧
    ((timed fun e => { e with state := .calFailed }).ent 3).state ∈ [CState.suspended, .assigning, .calibrating, .calFailed] ∧
    ((identifying .restore).ent 3).job = some (theJob .restore) ∧ (released.ent 3).state = .revalidating := by decide +kernel

theorem test_hyps_CleaningsFollowed :
    (((runWith (followed 8 (some 850) 300)).ent 3).activity = .cleaning ∧
      ((runWith (followed 8 (some 850) 300)).ent 3).cleaning = some ⟨1, .panel, 0, 0, 850, 8, some 850, 300⟩ ∧
      ((runWith (followed 8 (some 850) 300)).ent 3).cal = some sampleCal) ∧
    ((8 : BitVec 5).getLsbD 3 = true ∧ run.profile.holdSecs ≤ (300 : Half).toNat ∧ (run.profile.holdTemp : Int) ≤ 850 ∧
      0 < run.profile.tDue) ∧
    (¬run.profile.holdSecs ≤ (299 : Half).toNat ∧ ¬(run.profile.holdTemp : Int) ≤ 849 ∧ (7 : BitVec 5).getLsbD 3 = false) ∧
    (((runWith { followed 8 none 0 with state := .suspended }).ent 3).silence ≠ none ∧
      ((runWith { followed 8 none 0 with state := .suspended }).ent 3).state = .suspended) ∧
    ((runWith cooking).ent 3).activity ≠ .cleaning ∧ (released.ent 3).state ≠ .suspended := by decide +kernel

def fullTable (st : CallState) : State :=
  { run with service := { ServiceUnit.reset with
      calls := (List.range 32).map fun k => { openCall st with source := .recipe (BitVec.ofNat 6 k).toFin } } }

theorem test_hyps_Raises :
    (State.reset.mode ≠ .running ∧ (withCall .posted).service.calls = [] ++ openCall .posted :: [] ∧
      (openCall .posted).source = .oven 3 ∧ (openCall .posted).cause = .silent) ∧
    ((∀ c ∈ (fullTable .posted).service.calls, ¬(c.source = .oven 3 ∧ c.cause = .silent)) ∧
      32 ≤ (fullTable .posted).service.calls.length ∧ (∀ d ∈ (fullTable .posted).service.calls, d.state ≠ .acknowledged)) ∧
    ((fullTable .acknowledged).service.calls = [] ++ { openCall .acknowledged with source := .recipe 0 } ::
        (fullTable .acknowledged).service.calls.drop 1) ∧
    run.service.calls.length < 32 := by decide +kernel

/-- A full table that has dropped a raise already, with a posted write of the part's own to be answered. -/
def dropping : State :=
  { fullTable .posted with
    service := { (fullTable .posted).service with dropped := true }
    path := { PathUnit.reset with issued := [⟨.posted .mirror, writeReq, false⟩] } }

theorem test_hyps_MemoryAnswers_dropped :
    dropping.AnswerFor (.posted .mirror) writeReq [] ∧ dropping.mode = .running ∧
    (∀ c ∈ dropping.service.calls, ¬(c.source = .site ∧ c.cause = .memoryFault) ∧ c.state ≠ .acknowledged) ∧
    32 ≤ dropping.service.calls.length := ⟨⟨rfl, rfl⟩, rfl, by decide +kernel, by decide +kernel⟩

/-- R137: a further drop has the site record rewritten again, under HRST too. -/
theorem test_second_drop_owes_site :
    (raiseCall .site .memoryFault .urgent [] dropping).report =
        { dropping.report with rewriteList := [.site], overrunSet := eventBit .service, summaryRaised := true } ∧
      (raiseCall .site .memoryFault .urgent [] { dropping with hrst := true }).report =
        { dropping.report with rewriteList := [.site] } := by decide +kernel

theorem test_hyps_FaultNotices :
    ((run.ent 3).state ∈ [CState.vacant, .assigning, .identifying, .calFailed] ∧
      ((calibrating .commission).ent 3).state = .calibrating ∧ (released.ent 3).activity = .idle) ∧
    (((runWith { cooking with state := .suspended }).ent 3).activity = .cooking ∧
      ((timed fun e => { e with state := .suspended }).ent 3).activity ≠ .cooking) ∧
    (((timed fun e => { e with upd := { e.upd with state := .queued } }).ent 3).upd.state = .queued ∧
      ((runWith cooking).ent 3).cook = some ⟨9, 4, .panel, 2, 0, 1, none⟩ ∧ ((runWith cooking).ent 3).abortMark = .unset ∧
      ((streamed good48 fillStream .panel).ent 3).activity = .filling ∧ (rolling.ent 3).activity = .updating ∧
      (rolling.ent 3).state = .inService) := by decide +kernel

/-! ## Updates -/

def sending (x : Stream) (len : Nat) (f : UpdRec → UpdRec) : State :=
  let s := (rolling.setLn 1 { freeLine with streams := [x] }).modEnt 3 fun e => { e with upd := f e.upd }
  { s with update := { s.update with rollout := { s.update.rollout with length := len } } }

theorem test_hyps_Blocks :
    ((sending imageStream 65 id).streamOf 1 .image 3 = some imageStream ∧ imageStream.drop = false ∧
      ((sending imageStream 65 id).ent 3).upd.stopMark = false ∧
      imageStream.next + 1 < ((sending imageStream 65 id).update.rollout.length + 63) / 64) ∧
    ((sending imageStream 64 id).update.rollout.length + 63) / 64 ≤ imageStream.next + 1 ∧
    ((sending imageStream 64 fun u => { u with stopMark := true }).ent 3).upd.stopMark = true ∧
    (sending { imageStream with drop := true } 64 id).streamOf 1 .image 3 = some { imageStream with drop := true } := by
  decide +kernel

theorem test_hyps_Switches :
    (((sending imageStream 64 fun u => { u with switchQueued := true }).ent 3).upd.state = .sending ∧
      ((sending imageStream 64 fun u => { u with switchQueued := true }).ent 3).upd.switchQueued = true) ∧
    (rolling.ent 3).upd.switchQueued = false ∧
    (((sending imageStream 64 fun u => { u with state := .switching, identAsked := true }).ent 3).upd.state = .switching ∧
      ((sending imageStream 64 fun u => { u with state := .switching, identAsked := true }).ent 3).upd.identAsked = true ∧
      ((sending imageStream 64 fun u => { u with state := .switching, identAsked := true }).ent 3).identity = some ⟨0xABCD, 3, 7⟩) ∧
    (rolling.update.rollout.level = 9 ∧ (replied .idle 3).level ≠ 9 ∧ ({ replied .idle 3 with level := 9 } : IdentReply).level = 9 ∧
      rolling.hears = true ∧ (rolling.ent 3).upd.state ≠ .switching) := by decide +kernel

/-- Oven 3 SENDING with a SWITCH and a FLUSH waiting on its line, and the line's transaction given. -/
def sendingOn (tr : Option Transaction) : State :=
  (sending imageStream 64 id).modLn 1 fun x =>
    { x with trans := tr, urgent := [sent (.switch 9 0) .update, sent .flush .cache] }

theorem test_hyps_UpdateOutcomes_failure :
    (((sendingOn none).ent 3).line = 1 ∧ (sendingOn none).blockRunning 1 .image 3 = false ∧
      (sendingOn (some blockTransaction)).blockRunning 1 .image 3 = true) ∧
    ((onPath { PathUnit.reset with issued := [⟨.block 3, bulkRead 8, true⟩] }).oldIssued = [] ∧
      (onPath { PathUnit.reset with issued := [⟨.block 3, bulkRead 8, true⟩] }).path.issued =
        { owner := .block 3, req := bulkRead 8, disregard := true } :: []) := by decide +kernel

/-- R162, items 3 and 4: the stream goes at once, or with the block that is being sent; the waiting SWITCH goes, the FLUSH stays. -/
theorem test_failure_clears_line :
    (((failOven 3 .suspended none none none (sendingOn none)).ln 1).streams = [] ∧
      ((failOven 3 .suspended none none none (sendingOn none)).ln 1).urgent = [sent .flush .cache]) ∧
    ((failOven 3 .suspended none none none (sendingOn (some blockTransaction))).ln 1).streams ≠ [] ∧
    ((deliverTo 1 blockTransaction.q 3 (.valid .ack)
      (failOven 3 .suspended none none none (sendingOn (some blockTransaction)))).ln 1).streams = [] := by decide +kernel

/-! ## What an event settles -/

def waitingFill (q : RecipeSlot) (w : Bool) : State :=
  ((inOven [] fun e => { e with activity := .filling, start := starts .queued .panel }).setLn 1
    { freeLine with fillQueue := [⟨3, w⟩] }).setRslot 9 q

theorem test_hyps_EventsSettle_fills :
    (((waitingFill liveSlot false).ent 3).start = starts .queued .panel ∧ ((waitingFill liveSlot false).ln 1).fill = none ∧
      ((waitingFill liveSlot false).ent 3).dirEntry 9 = none) ∧
    (((waitingFill liveSlot false).rslot 9).state = .published ∧ ((waitingFill liveSlot false).rslot 9).publish ≠ .commitWait ∧
      ((waitingFill { liveSlot with publish := .commitWait } false).rslot 9).publish = .commitWait ∧
      ((waitingFill .reset false).rslot 9).state = .empty ∧
      ((waitingFill { liveSlot with state := .quarantined } false).rslot 9).state = .quarantined) ∧
    ((waitingFill liveSlot true).ln 1).fillQueue = [⟨3, true⟩] ∧ ((streamed good48 fillStream .panel).ln 1).fill ≠ none := by
  decide +kernel

def twoWaiting (first second : Level) : State :=
  { ((timed fun e => { e with level := first, cal := some sampleCal }).setEnt 4 { oven with level := second }) with
    hygiene := { HygieneUnit.reset with queue := [⟨3, 1, .panel, 0, false⟩, ⟨4, 1, .auto, 0, false⟩] } }

theorem test_hyps_EventsSettle_offers :
    ((twoWaiting .due .overdue).capacityInUse < (twoWaiting .due .overdue).profile.maxCleaning ∧
      ((twoWaiting .due .overdue).ent 4).level = .overdue ∧ ((twoWaiting .due .overdue).ent 3).level ≠ .overdue ∧
      ((twoWaiting .due .due).ent 4).level ≠ .overdue) ∧
    (((twoWaiting .due .due).ent 3).state = .inService ∧ ((twoWaiting .due .due).ent 3).activity = .idle ∧
      ((twoWaiting .due .due).ent 3).offerOut = false ∧ ((twoWaiting .due .due).ent 3).cal = some sampleCal) ∧
    (({ (twoWaiting .due .due) with profile := { sampleProfile with maxCleaning := 0 } } : State).profile.maxCleaning ≤
      (twoWaiting .due .due).capacityInUse) ∧ (∀ l : LineNo, ((twoWaiting .due .due).ln l).fillQueue = []) ∧
    (twoWaiting .due .due).update.rollout.state ≠ .active ∧ (twoWaiting .due .due).update.rollout.state ≠ .halting := by
  decide +kernel

def picking (len : Nat) : State :=
  { timed (fun e => { e with upd := { e.upd with state := .queued } }) with
    update := { rolling.update with rollout := { rolling.update.rollout with length := len } } }

theorem test_hyps_EventsSettle_picks :
    ((picking 33).update.rollout.state = .active ∧ (picking 33).onLine 1 3 = true ∧ ((picking 33).ent 3).upd.state = .queued ∧
      ((picking 33).ent 3).state = .inService ∧ ((picking 33).ent 3).activity = .idle ∧ ((picking 33).ent 3).offerOut = false ∧
      ((picking 33).ent 3).identity = some ⟨0xABCD, 3, 7⟩) ∧
    (∀ k : Slot, k < 3 → (picking 33).onLine 1 k = false) ∧ 32 < (picking 33).update.rollout.length ∧
    ¬32 < (picking 32).update.rollout.length ∧ (picking 33).hygiene.queue = [] ∧
    (rolling.onLine 1 3 = true ∧ (rolling.ent 3).upd.state = .sending) ∧
    (∀ k : Slot, (run.ent k).upd.state = .unset) ∧ (∃ k : Slot, ((picking 33).ent k).upd.state = .queued) := by decide +kernel

/-! ## Abandoned fills -/

def abandoned (f : Fill) (more : List Issued) : State :=
  { (fillState { f with abandoned := true }) with
    path := { PathUnit.reset with issued := ⟨.fill 1, bulkRead 4, false⟩ :: more } }

theorem test_hyps_FillReadsAnswered_abandoned :
    ((abandoned (filling 0) []).AnswerFor (.fill 1) (bulkRead 4) [] ∧
      ((abandoned (filling 0) []).ln 1).fill = some { filling 0 with abandoned := true } ∧ (filling 0).streaming = false ∧
      ((abandoned (filling 0) []).rslot 9).publish ≠ .commitWait) ∧
    ((abandoned (filling 0) [⟨.fill 1, bulkRead 8, false⟩]).AnswerFor (.fill 1) (bulkRead 4) [⟨.fill 1, bulkRead 8, false⟩] ∧
      ∃ q ∈ [(⟨.fill 1, bulkRead 8, false⟩ : Issued)], q.owner = .fill 1 ∧ q.disregard = false) ∧
    ((filling 0).used ≤ ({ filling 0 with data := (filling 0).data ++ bytesOf goodStep } : Fill).data.length ∧
      ({ filling 0 with data := [] } : Fill).data.length + 16 < (filling 0).used) :=
  ⟨⟨⟨rfl, rfl⟩, by decide +kernel, rfl, by decide +kernel⟩, ⟨⟨rfl, rfl⟩, _, List.mem_singleton.mpr rfl, rfl, rfl⟩, by decide +kernel⟩

/-! ## Reads of the clients, commits, suspensions and silence -/

def reading (c : CommandUnit) (f : Option Fill) (e : Option Engine) (u : UpdateUnit) : State :=
  { (runLine { freeLine with fill := f }) with command := c, recipe := { RecipeUnit.reset with engine := e }, update := u }

theorem test_hyps_BulkReadGranted_clients :
    ((reading .reset none none .reset).command.fetch ≠ .waiting ∧ (reading { CommandUnit.reset with fetch := .waiting } none none .reset).command.fetch = .waiting ∧
      (reading .reset none none .reset).recipe.engine = none) ∧
    (engine0.header = none ∧ ({ engine0 with issued := 0 } : Engine).issued = 0 ∧ engine0.issued ≠ 0 ∧
      oneStep.header = some { steps := 1, probe := false, gate := ⟨8, 7⟩ } ∧ 32 * oneStep.issued < 32 + 16 * 1 ∧
      32 + 16 * 1 ≤ 32 * ({ oneStep with issued := 2 } : Engine).issued) ∧
    ((filling 0).streaming = false ∧ (filling 0).abandoned = false ∧ 32 * ({ filling 0 with issued := 1 } : Fill).issued < 48 ∧
      (filling 0).used ≤ 32 * (filling 0).issued ∧ good48.streaming = true ∧
      ((reading .reset (some good48) none .reset).ln 1).fill = some good48 ∧ (3 : Fin 7).val = 2 + (1 : LineNo).val) ∧
    ((verifying halfRead 68 0).update.verify = some halfRead ∧ (verifying halfRead 68 0).update.image.staged = some (68, 0) ∧
      32 * halfRead.issued < 68 ∧ 64 ≤ 32 * halfRead.issued) ∧
    ((reading .reset none none { UpdateUnit.reset with blockReads := [⟨3, 0x200000⟩] }).update.verify = none ∧
      (reading .reset none none { UpdateUnit.reset with blockReads := [⟨3, 0x200000⟩] }).update.blockReads = ⟨3, 0x200000⟩ :: []) ∧
    (run.profile.windows.find? (fun w => w.cls == .image) = some (windowNo 6) ∧
      run.profile.windows.find? (fun w => w.cls == .recipeStore) = some (windowNo 5)) := by decide +kernel

theorem test_hyps_BulkReadGranted_owners :
    ((fillState { filling 0 with issued := 1 }).clientRead 3 = some (.fill 1, bulkRead 4 |> fun r => { r with addr := 0x110020 }) ∧
      (∀ j : Fin 7, j.val < (3 : Fin 7).val → (fillState { filling 0 with issued := 1 }).clientRead (0 + j) = none)) ∧
    ((verifying halfRead 68 0).clientRead 6 = some (.verify, ownRead 0x200040 1)) ∧
    ((publishing { engine0 with issued := 0 } .reset).clientRead 1 = some (.publish, ownRead 0x110000 8)) ∧
    ((reading .reset none none { UpdateUnit.reset with blockReads := [⟨3, 0x200000⟩] }).clientRead 6 =
      some (.block 3, ownRead 0x200000 8)) := by decide +kernel

def committing (readers : Nat) : State :=
  ((inOven [entryOf 9 .unset false, entryOf 8 .due true] id).setEnt 4
    { cooking with dir := [entryOf 8 .unset false, entryOf 9 .due false] }).setRslot 9
      { liveSlot with staged := some ⟨5, 48, ⟨8, 7⟩⟩, publish := .commitWait, readers := readers }

theorem test_hyps_CommitMadeAndCopiesGoStale :
    (((committing 1).rslot 9).staged = some ⟨5, 48, ⟨8, 7⟩⟩ ∧ (committing 1).versionHeld 9 5 = false ∧
      (committing 1).versionHeld 9 4 = true ∧ ((committing 1).rslot 9).publish = .commitWait ∧ ((committing 1).rslot 9).readers ≤ 1 ∧
      1 < ((committing 2).rslot 9).readers ∧ ((inOven [] id).rslot 9).publish ≠ .commitWait) ∧
    (∀ l : LineNo, ((committing 1).ln l).urgent.length < 16 ∧ ((committing 1).ln l).waiting = []) ∧
    (((committing 1).ent 4).usesRecipe 9 = true ∧ ((committing 1).ent 3).usesRecipe 9 = false) := by decide +kernel

theorem test_hyps_CommitMadeAndCopiesGoStale_distinct (i : Slot) : ((committing 1).ent i).dir.Pairwise (fun a b => a.recipe ≠ b.recipe) := by
  revert i
  decide +kernel

def fillCommits : State :=
  (fillState (filling (crc32 (recipeHead ++ bytesOf goodStep)))).setRslot 9 { liveSlot with publish := .commitWait, readers := 1 }

theorem test_hyps_CommitMadeAndCopiesGoStale_fill :
    (fillCommits.AnswerFor (.fill 1) (bulkRead 4) [] ∧ fillCommits.mode = .running ∧
      (fillCommits.ln 1).fill = some (filling (crc32 (recipeHead ++ bytesOf goodStep)))) ∧
    ((fillCommits.rslot 9).publish = .commitWait ∧ (fillCommits.rslot 9).readers = 1) :=
  ⟨⟨⟨rfl, rfl⟩, rfl, by decide +kernel⟩, by decide +kernel⟩

theorem test_hyps_CookAndAbortTaken_noGate :
    ((cookable oven).setRslot 8 liveSlot).gate 8 = none ∧ (((cookable oven).setRslot 8 liveSlot).rslot 8).state = .published ∧
    ((cookable { oven with identity := none }).ent 3).identity = none := by decide +kernel

/-- R151: the header's judgements, each at a value that fails it alone. -/
def imageBytes (magic : Word) (cls : Byte) (level : Half) (len check : Word) : List Byte :=
  le32 magic ++ [cls, 0, 0, 0] ++ le16 level ++ zeros 2 ++ le32 len ++ le32 check ++ zeros 44

theorem test_image_header :
    imageHeaderFault run.profile 64 5 (imageBytes 0x4D493216 0 9 64 5) = some (.cls, 0) ∧
    imageHeaderFault run.profile 64 5 (imageBytes 0x4D493216 16 9 64 5) = some (.cls, 16) ∧
    imageHeaderFault run.profile 64 5 (imageBytes 0x4D493216 4 9 64 5) = some (.cls, 4) ∧
    imageHeaderFault run.profile 64 5 (imageBytes 0x4D493216 3 0 64 5) = some (.level, 0) ∧
    imageHeaderFault run.profile 64 5 (imageBytes 0x4D493216 3 9 68 5) = some (.length, 68) ∧
    imageHeaderFault run.profile 64 5 (imageBytes 0x4D493216 3 9 64 6) = some (.checkField, 6) := by decide +kernel

def started (st : Stage) (o : Origin) (l : Line) (more : List Issued) : State :=
  { ((timed fun e => { e with activity := .filling, start := starts st o, grant := some granted }).setLn 1 l).setRslot 9 liveSlot with
    path := { PathUnit.reset with issued := more } }

def blockOut : Transaction :=
  { q := sent (.fillBlock 9 4 0 true none []) .cache, attempt := 1, damage := false, gone := false }

theorem test_hyps_SuspensionTaken :
    (((timed id).ent 3).activity = .idle ∧ ((timed id).ent 3).upd.state ≠ .queued ∧
      ((timed fun e => { e with upd := { e.upd with state := .queued } }).ent 3).upd.state = .queued ∧
      (rolling.ent 3).activity = .updating) ∧
    (((runWith cooking).ent 3).abortMark = .unset ∧ ((runWith { cooking with abortMark := .acknowledged }).ent 3).abortMark ≠ .unset ∧
      ((runWith (followed 8 none 0)).ent 3).cleaning = some ⟨1, .panel, 0, 0, 850, 8, none, 0⟩) ∧
    (((started .queued .controller freeLine []).ent 3).start = starts .queued .controller ∧
      ((started .evictWait .panel freeLine []).ent 3).start = starts .evictWait .panel ∧
      ((started .reading .panel { freeLine with fill := some (filling 0) } []).ln 1).fill = some (filling 0) ∧
      (filling 0).streaming = false ∧ ((started .reading .panel freeLine []).rslot 9).publish ≠ .commitWait) ∧
    ((∃ q ∈ (started .reading .panel freeLine [⟨.fill 1, bulkRead 4, false⟩]).path.issued, q.owner = .fill 1 ∧ q.disregard = false) ∧
      (∀ q ∈ (started .reading .panel freeLine []).path.issued, q.owner ≠ .fill 1)) ∧
    (((started .streaming .panel { freeLine with trans := some blockOut } []).ln 1).trans = some blockOut ∧
      blockOut.q.tel = .fillBlock 9 4 0 true none [] ∧ blockOut.q.target = some 3 ∧
      ((started .streaming .panel freeLine []).ln 1).trans = none) ∧
    (sent (.grant 1 9 4) .cache ∈ (started .granting .panel { freeLine with urgent := [sent (.grant 1 9 4) .cache] } []).waitingOn 1 ∧
      (∀ l : LineNo, (started .granting .panel freeLine []).waitingOn l = [])) := by decide +kernel

theorem test_hyps_RosterTimersExpire_silence :
    (((runWith cooking).ent 3).state = .inService ∧ ((runWith cooking).ent 3).upd.state ≠ .switching) ∧
    (((timed fun e => { e with upd := { e.upd with state := .switching } }).ent 3).silence ≠ none ∧
      ((timed fun e => { e with upd := { e.upd with state := .switching } }).ent 3).upd.state = .switching) ∧
    (((timed fun e => { e with state := .suspended }).ent 3).silence ≠ none ∧
      ((timed fun e => { e with state := .suspended }).ent 3).activity ≠ .cooking ∧
      ((timed fun e => { e with state := .suspended }).ent 3).activity ≠ .cleaning) ∧
    (((runWith { cooking with state := .suspended }).ent 3).cook = some ⟨9, 4, .panel, 2, 0, 1, none⟩ ∧
      ((runWith { followed 8 none 0 with state := .suspended }).ent 3).cleaning = some ⟨1, .panel, 0, 0, 850, 8, none, 0⟩) := by
  decide +kernel

theorem test_hyps_RetireTaken_more :
    ((aborting oven).cache.aborts.filter (fun a => a.slot == 3) = [⟨7, 3, 2, false⟩]) ∧
    (((aborting oven).setLn 1 { freeLine with
        trans := some { q := sent .abort .cache, attempt := 1, damage := false, gone := false } }).ln 1).trans =
      some { q := sent .abort .cache, attempt := 1, damage := false, gone := false } ∧
    ((runWith { oven with late := true }).ent 3).late = true ∧
    ((timed fun e => { e with upd := { e.upd with state := .queued } }).ent 3).upd.state = .queued ∧
    ((timed id).ent 3).upd.state ≠ .queued := by decide +kernel

/-- Oven 3 waits for a cleaning and is a target of the rollout: the offer and the pick of one event would both take it. -/
def claimed : State :=
  { picking 33 with hygiene := { HygieneUnit.reset with queue := [⟨3, 1, .panel, 0, false⟩] } }

theorem test_hyps_EventsSettle_clash :
    ((claimed.ent 3).offerOut = false ∧ (claimed.ent 3).activity = .idle ∧ ((makeOffers claimed).ent 3).offerOut = true ∧
      (((([0, 1, 2, 3] : List LineNo).foldl pickOn claimed)).ent 3).activity = .updating) ∧
    (∀ i : Slot, ((makeOffers (picking 33)).ent i).offerOut = false) := by decide +kernel

theorem test_hyps_RepliesJudged_incomplete :
    judgeReply 5 (sampleChars (statusChars.take 4)) = .incomplete ∧ sampleChars (statusChars.take 4) ≠ [] ∧
    sampleChars [⟨1, 1, 1⟩] = [] ∧ ((inTransaction .receive 1).ln 1).state = .receive ∧ (answeredLine.ln 1).state = .listen := by
  decide +kernel

/-! ## The poll schedule, and start-up's own writes under HRST -/

/-- R42, R43: of two overdue polls that began at one time, the round-robin pointer decides. -/
def tied (rr : Slot) : State :=
  ((run.setEnt 3 oven).setEnt 5 { oven with place := some (1, 6) }).setLn 1
    { freeLine with rr := rr, schedule := [⟨3, 40, true, true⟩, ⟨5, 40, true, true⟩] }

def pollsNext (s : State) : Option Slot :=
  match exec (.schedulerChoice 1) s with
  | .next t => (t.ln 1).trans.bind (fun x => x.q.target)
  | _ => none

theorem test_poll_tie : pollsNext (tied 0) = some 3 ∧ pollsNext (tied 4) = some 5 := by decide +kernel

theorem test_hyps_SchedulerChooses_earlier : (⟨3, 39, true, true⟩ : PollEntry).begun < (⟨5, 40, true, true⟩ : PollEntry).begun := by
  decide

theorem test_hyps_LineEventsTaken_schedule :
    (∃ p ∈ ((tied 0).ln ((tied 0).ent 3).line).schedule, p.slot = 3) ∧ (∀ p ∈ ((timed id).ln ((timed id).ent 3).line).schedule, p.slot ≠ 3) := by
  decide +kernel

/-- Start-up ended under HRST; its summary word is the last of the rewrites it owes. -/
def underHrst (l : List RewriteItem) : State := { rewriting l 0 with hrst := true, startUnderHrst := true }

def answersTo (c : Instr) (s : State) : Option State :=
  match exec c s with
  | .next t => some t
  | _ => none

theorem test_startup_writes :
    (answersTo .eventSummaryWrite (underHrst [.summary])).map (fun t => (t.path.posted.length, t.startUnderHrst)) = some (1, false) ∧
    (answersTo .mirrorRewrite (underHrst [.site, .summary])).map (fun t => (t.path.posted.length, t.startUnderHrst)) = some (6, true) ∧
    answersTo .mirrorRewrite { underHrst [.site] with startUnderHrst := false } = some { underHrst [.site] with startUnderHrst := false } := by
  decide +kernel

/-! ## Characters, telegrams, replies and records -/

theorem test_hyps_TelegramsBuilt :
    (2 ≤ [(1 : BitVec 12), 1, 0].countP (fun v => v.getLsbD 0)) ∧ ¬2 ≤ [(1 : BitVec 12), 0, 0].countP (fun v => v.getLsbD 0) ∧
    imageStream.kind = .image ∧ fillStream.kind = .fill := by decide

theorem test_characters :
    sampleChar ⟨1, 1, 0⟩ = none ∧ sampleChars (([0x105, 0x81, 0] : List (BitVec 9)).map cleanChar) =
      [⟨0x105, false, false, false⟩, ⟨0x81, false, false, false⟩, ⟨0, false, false, false⟩] ∧
    sampleChar ⟨0x800, 0x800, 0x802⟩ = some ⟨0, true, false, false⟩ ∧ sampleChar ⟨0x802, 0x802, 0x802⟩ = some ⟨1, false, true, false⟩ ∧
    sampleChar ⟨0, 0, 0⟩ = some ⟨0, false, false, true⟩ := by decide +kernel

/-- ASSIGN of serial 0x01020304 to drop 5 (R29, 11 §11.5). -/
theorem test_assign_chars : (aboutOven (.assign 0x01020304 5)).chars.take 8 = [0x100, 2, 5, 4, 3, 2, 1, 5] := by decide

/-- Both are what the roster's own operations queue. -/
theorem test_assign_queued :
    ((sendAssign 3 1 (pairing .commission id)).ln 1).urgent = [aboutOven (.assign 1 5)] ∧
    ((sendConfirm 3 1 (pairing .commission id)).ln 1).urgent = [aboutOven (.confirm 1 5)] := by decide +kernel

theorem test_hyps_RepliesParsed :
    judgeReply 6 (sampleChars (statusChars.take 1)) = .damaged ∧ judgeReply 5 (sampleChars (([0x105, 0x86] : List (BitVec 9)).map cleanChar)) = .damaged ∧
    judgeReply 5 (sampleChars (([0x105, 0x85, 73] : List (BitVec 9)).map cleanChar)) = .damaged ∧
    judgeReply 5 (sampleChars (statusChars.take 2)) = .incomplete ∧ judgeReply 5 (sampleChars statusChars) = .wellFormed 0x85 [0, 0x10, 0, 0x20, 0, 0] ∧
    judgeReply 5 (sampleChars (statusChars.take 8 ++ [cleanChar 0x100, cleanChar 0, cleanChar 0])) = .damaged := by decide +kernel

theorem test_replies :
    replyTo (.poll none) 0x85 [2, 0x10, 0, 0x20, 0, 3, 4, 7, 9, 1, 3, 5] =
      some (.status ⟨.cooking, 0x10, 0x20, some (true, .cookEnd 7 9 1 .fault 5)⟩) ∧
    replyTo (.poll none) 0x85 [2, 0x10, 0, 0x20, 0, 4] = none ∧ replyTo .identReq 0x84 [0xCD, 0xAB, 0, 0, 3, 7, 0, 3] =
      some (.ident ⟨0xABCD, 3, 7, .cleaning, 0, 0, 0⟩) ∧
    replyTo .identReq 0x84 [0xCD, 0xAB, 0, 0, 3, 7, 0, 2, 4, 9, 2] = some (.ident (replied .cooking 3)) ∧
    replyTo (.assign 0 5) 0x83 [0xCD, 0xAB, 0, 0] = some (.pair 0xABCD) ∧ replyTo (.assign 1 5) 0x83 [0xCD, 0xAB, 0, 0] = none ∧
    replyTo .flush 0x82 [4] = none ∧ replyTo (.evict 9) 0x82 [4] = some (.nak .busy) ∧ replyTo (.evict 9) 0x82 [5] = none ∧
    noticeOf [7, 3, 2, 0x34, 0x12, 1, 0] = some (.fault .stop [0x1234, 1]) ∧ noticeOf [7, 3, 0] = none ∧ noticeOf [8, 0] = none := by
  decide +kernel

theorem test_hyps_RingRecordsLaidOut :
    (openCall .posted).repeats ≤ 255 ∧ (openCall .posted).details.length ≤ 4 ∧
    (({ openCall .posted with severity := .stop, escalated := true, details := [1, 2, 3, 4], repeats := 255 } : Call).words.take 1 =
      [BitVec.ofNat 32 (255 * 2 ^ 24 + 0x47 * 2 ^ 16 + 0x0203)]) := by decide

theorem test_journal_words :
    (⟨.commission ⟨3, .restore, 7, 1, 5, ⟨0xABCD, 3, 7⟩, sampleCal, none, 90, 6⟩, true⟩ : JournalRec).words =
      [0x33030104, 0x05010007, 0xABCD, 0x0007005A, 0x09C401F4, 0x09C10200, 0, 6] ∧
    (⟨.clean ⟨3, .panel, 2, 1, some 2, 3, .failed, 9, some (-1), 4, 5⟩, false⟩ : JournalRec).words =
      [0x02030602, 0x00090202, 1, 2, 3, 0x0004FFFF, 5, 0] := by decide +kernel

/-- An oven with every optional field of its record. -/
def shown : Entry :=
  { oven with
    failures := 2, late := true, causes := 5, cal := some sampleCal, probe := true, offerOut := true, level := .overdue,
    readings := some ⟨0x0102, 0x0304, .cleaning⟩, lastReply := some 0x11121314, count := 0x5152, dir := [entryOf 7 .unset false],
    cook := some { recipe := 17, version := 3, origin := .auto, token := 0x22, start := 0x31323334, step := 9, tag := some 0x4142 } }

theorem test_oven_record :
    (wordsOf ((queued shown).ovenBytes 3)).take 9 =
      [0x05210005, 0x03FF0501, 0xABCD, 0x00070203, BitVec.ofNat 32 ((sampleCal.corrected 0x304).toNat * 65536 + (sampleCal.corrected 0x102).toNat),
        0x11121314, 0x22030311, 0x01010009, 0x31323334] ∧
    (wordsOf ((queued shown).ovenBytes 3)).drop 9 =
      [0x51524142, 0xFFFFFF07, 0xFFFFFFFF, 0x09C401F4, 0x09C10200, 0] := by decide +kernel

theorem test_hyps_MirrorLaidOut :
    ((queued shown).ent 3).failures ≤ 3 ∧ ((queued shown).ent 3).cook ≠ none ∧ ((timed id).ent 3).cook = none ∧
    ((timed id).ent 3).readings = none ∧ (run.ent 3).identity = none ∧
    ((queued shown).offerOrder[0]? = some cleanWait ∧ cleanWait.slot = 3) ∧ (∀ w ∈ run.hygiene.queue, w.slot ≠ 3) ∧
    (imageState verified).update.image.head = some ⟨9, 3⟩ ∧ run.update.image.head = none := by decide +kernel

theorem test_hyps_PinsDriven :
    ({ run with report := { ReportWriter.reset with signalled := 2 }, profile := { sampleProfile with mask := 2 } } : State).irq = true ∧
    ({ run with report := { ReportWriter.reset with signalled := 2 }, profile := { sampleProfile with mask := 5 } } : State).irq = false ∧
    (timed fun e => { e with state := .suspended }).serviceLamp = true ∧ run.serviceLamp = false ∧
    ({ run with mode := .passOnly } : State).irq = true ∧ State.reset.irq = false ∧ (openPort []).portReady = true ∧
    ({ openPort [] with hrst := true } : State).portReady = false ∧ (openPort (List.replicate 8 (inFlight .waiting))).portReady = false ∧
    ((inTransaction .transmit 1).ln 1).driverEnable = true ∧ ((inTransaction .transmit 1).ln 1).txChars = pollTelegram.chars ∧
    ((runLine { freeLine with state := .test }).ln 1).loopChars = testChars ∧
    ((runLine { freeLine with state := .test }).ln 1).driverEnable = false := by decide +kernel

/-! ## What every step keeps: states that meet the invariants and step -/

theorem test_hyps_steps : step State.reset = .next { State.reset with now := 1 } := rfl

theorem test_hyps_directories : State.reset.DirsDistinct ∧ (inOven [entryOf 9 .due true, entryOf 8 .due true] id).DirsDistinct := by
  unfold State.DirsDistinct
  decide +kernel

theorem noneReady_nil : NoneReady [] := nofun

theorem noneReady_cons {e : InFlight} {l : List InFlight} (h : e.state ≠ .answered) : NoneReady (e :: l) := by
  intro x hx
  cases hx
  exact h

/-- Fills of line 1 alone. -/
theorem fillsAwait_one {s : State} (hm : s.mode = .running) (h0 : (s.ln 0).fill = none) (h2 : (s.ln 2).fill = none)
    (h3 : (s.ln 3).fill = none) (h1 : ∀ f, (s.ln 1).fill = some f → f.abandoned = true → f.streaming = false →
      ∃ q ∈ s.path.issued, q.owner = .fill 1 ∧ q.disregard = false) : s.FillsAwaitReads := by
  refine ⟨fun l f hf => ?_, fun h => absurd hm h⟩
  match l with
  | 0 => rw [h0] at hf; cases hf
  | 1 => exact h1 f hf
  | 2 => rw [h2] at hf; cases hf
  | 3 => rw [h3] at hf; cases hf

def awaited (more : List Issued) (o : Origin) : State :=
  started .reading o { freeLine with fill := some (filling 0) } more

theorem test_hyps_fills :
    State.reset.FillsAwaitReads ∧
    (fillState { filling 0 with abandoned := true }).FillsAwaitReads ∧
    (awaited [] .panel).FillsAwaitReads ∧ (started .granting .panel freeLine []).FillsAwaitReads := by
  have none_reset : ∀ l : LineNo, (State.reset.ln l).fill = none := by decide
  refine ⟨⟨fun l f h => ?_, fun _ l => none_reset l⟩, fillsAwait_one rfl ?_ ?_ ?_ ?_, fillsAwait_one rfl ?_ ?_ ?_ ?_,
    fillsAwait_one rfl ?_ ?_ ?_ ?_⟩
  · rw [none_reset] at h; cases h
  · decide +kernel
  · decide +kernel
  · decide +kernel
  · intro f _ _ _
    exact ⟨⟨.fill 1, bulkRead 4, false⟩, List.mem_singleton.mpr rfl, rfl, rfl⟩
  · decide +kernel
  · decide +kernel
  · decide +kernel
  · intro f hf ha
    have : ((awaited [] .panel).ln 1).fill = some (filling 0) := by decide +kernel
    rw [this] at hf; cases hf; cases ha
  · decide +kernel
  · decide +kernel
  · decide +kernel
  · intro f hf
    have : ((started .granting .panel freeLine []).ln 1).fill = none := by decide +kernel
    rw [this] at hf; cases hf

theorem test_hyps_SuspensionTaken_more :
    (∀ o : Origin, ((awaited [] o).ent 3).activity = .filling ∧ (filling 0).failed = false ∧ (filling 0).data.length < (filling 0).used ∧
      ((awaited [] o).rslot (filling 0).recipe).publish ≠ .commitWait) ∧
    (((awaited [] .panel).setRslot 9 { liveSlot with publish := .commitWait, readers := 1, staged := some ⟨5, 48, ⟨8, 7⟩⟩ }).rslot 9).staged ≠ none ∧
    (((awaited [] .panel).setRslot 9 { liveSlot with publish := .commitWait, readers := 2 }).rslot 9).readers > 1 := by
  refine ⟨fun o => by cases o <;> decide +kernel, by decide +kernel, by decide +kernel⟩

/-- R92: no EVICT is sent for an evict-at-end entry that a suspension removes, and R82: the panel is told SUSPENDED. -/
theorem test_suspend_filling :
    (((suspend 3 .silent ((awaited [⟨.fill 1, bulkRead 4, false⟩] .panel).modEnt 3 fun e =>
        { e with dir := [entryOf 8 .unset true] })).ln 1).urgent.map (fun q => q.tel)) = [.deny .suspended] := by decide +kernel

/-! ## The processor side: tables with decided entries, refusals, and what is owed -/

def answeredEntry : InFlight := { inFlight .answered with good := true }

def table : List InFlight := [inFlight .issued, answeredEntry]

theorem table_decided : Decided table := by
  unfold Decided
  decide

theorem test_hyps_RequestTakenAndDecided_table :
    (Decided table ∧ NoneReady table ∧ table.length < 8 ∧ NoneReady []) ∧
    (({ openPort table with mode := .passOnly } : State).decision (request false 0xFFFFFFFC).req = .answer false ∧
      ({ openPort table with mode := .passOnly } : State).decision (request false 0x40).req = .request) ∧
    ((openPort (answeredEntry :: table)).path.inflight = [answeredEntry] ++ table ∧ answeredEntry.state = .answered) ∧
    ((openPort (table ++ [inFlight .waiting])).path.inflight = table ++ inFlight .waiting :: [] ∧
      (openPort (table ++ [inFlight .waiting])).decision (inFlight .waiting).req.req = .request) :=
  ⟨⟨table_decided, noneReady_cons (by decide), by decide, noneReady_nil⟩, by decide +kernel, ⟨rfl, rfl⟩, rfl, by decide +kernel⟩

/-- A head that its issue-time test refuses, behind a decided table and before a request that waits. -/
def refusing (read : Bool) (posted : List PostedWrite) : State :=
  asking .normal 0 0 read posted (table ++ refusedEntry 0x1000 true :: [inFlight .waiting])

theorem refusing_turned (read : Bool) (posted : List PostedWrite) : ∃ z, (refusing read posted).TurnedAway z := by
  refine ⟨_, ?_, table, refusedEntry 0x1000 true, [inFlight .waiting], rfl, table_decided, noneReady_cons (by decide), rfl,
    Or.inl ⟨?_, rfl⟩⟩
  · cases read <;> rfl
  · cases read <;> rfl

theorem test_hyps_TurnedAway :
    (∃ z, (refusing true []).TurnedAway z) ∧ (∃ z, (refusing false []).TurnedAway z) ∧
    (∃ z, (refusing false oneWrite).TurnedAway z) ∧ (∃ z, clashState.TurnedAway z) ∧
    (∃ z, (asking .normal 0 0 false oneWrite [{ heldRead with state := .requesting }]).TurnedAway z) ∧
    ((refusing false []).bulkAsking = false ∧ (refusing true []).clientRead (0 + 0) ≠ none ∧
      (refusing true []).mode = .running ∧ (refusing true []).path.issued.length < 8) := by
  refine ⟨refusing_turned _ _, refusing_turned _ _, refusing_turned _ _, ⟨_, ?_, [], _, [], rfl, nofun, noneReady_nil, rfl,
    Or.inr (Or.inl ⟨?_, rfl⟩)⟩, ⟨_, ?_, [], _, [], rfl, nofun, noneReady_nil, rfl, Or.inr (Or.inr ⟨?_, rfl⟩)⟩, by decide +kernel⟩
  all_goals decide +kernel

/-- R68: a grant whose CONTROL write acknowledges GUARD and whose next head is refused at the same address. -/
def ackRefused : State :=
  { asking .normal 0 0 false []
      [{ req := ⟨{ writeReq with addr := 0x2010, data := [0x20], enables := [15] }, 1⟩, state := .requesting, good := false, data := [] },
       { req := request false 0x110000, state := .waiting, good := false, data := [] }] with
    path := { (asking .normal 0 0 false []
        [{ req := ⟨{ writeReq with addr := 0x2010, data := [0x20], enables := [15] }, 1⟩, state := .requesting, good := false, data := [] },
         { req := request false 0x110000, state := .waiting, good := false, data := [] }]).path with
      capGuard := ⟨true, 0x110000, false⟩ } }

/-- The record shows what it showed, and its rewrite is owed. -/
theorem test_guard_relatched :
    (arbiterGrant ackRefused).path.capGuard = ⟨true, 0x110000, false⟩ ∧ (arbiterGrant ackRefused).report.rewriteList = [.site] := by
  decide +kernel

theorem test_hyps_ChangesOweRewrites_captures :
    (run.path.capGuard.latched = false ∧ (∀ k, (run.path.capture k).overrun = false)) ∧
    (ackRefused.chosen = some .proc ∧ ackRefused.path.inflight.map (fun e => e.state) = [.requesting, .waiting] ∧
      ackRefused.classify { writeReq with addr := 0x2010, data := [0x20], enables := [15] } = .inside (windowNo 1) ∧
      (windowNo 1).cls = .control ∧ ackRefused.watchedAt 0x2010 = some 4 ∧ (0x20 : Word).getLsbD 5 = true ∧
      ackRefused.path.capGuard ≠ ⟨false, 0, false⟩ ∧ (0x80 : Word).getLsbD 7 = true) ∧
    ((0x2010, (0x20 : Word), (0xF : BitVec 4)) ∈
      MemRequest.writtenWords { writeReq with addr := 0x2010, data := [0x20], enables := [15] }) :=
  ⟨⟨rfl, fun k => by cases k <;> rfl⟩, by decide +kernel, by decide +kernel⟩

def identQueued (st : CState) : State :=
  (runWith { oven with state := st }).setLn 1 { freeLine with urgent := [{ evictTelegram with tel := .identReq, owner := .roster }] }

theorem test_hyps_SchedulerChooses_ident :
    ((identQueued .assigning).ent 3).state = .assigning ∧ ((identQueued .revalidating).ent 3).state ≠ .assigning ∧
    evictTelegram.tel ≠ .identReq := by decide +kernel

/-- R154: a mask that skips no target, and one that does. -/
theorem test_hyps_StageCloseAndRolloutTaken_skips :
    (((imageState verified).setEnt 3 oven).ent 3).skippedBy 9 3 false = false ∧
    ((imageState verified).ent 4).skippedBy 9 3 false = true ∧ (8 : Half).getLsbD 3 = true ∧ (24 : Half).getLsbD 4 = true := by
  decide +kernel

theorem test_hyps_invariants :
    State.reset.CallKeysDistinct ∧ State.reset.QueuedOnce ∧ State.reset.LongsDistinct ∧ (withCall .posted).CallKeysDistinct ∧
    (queued oven).QueuedOnce ∧ State.reset.HostQuiet ∧ State.reset.CountersRest :=
  ⟨List.Pairwise.nil, List.Pairwise.nil, List.Pairwise.nil, call_keys _, queued_once,
    ⟨(fun h => nomatch h), fun _ => ⟨rfl, rfl⟩, fun _ => rfl⟩, fun _ => rfl, fun _ => rfl⟩

theorem test_hyps_sizes : State.reset.QueuesFit ∧ State.reset.CleaningFits := by
  refine ⟨⟨by decide, by decide, by decide, by decide, by decide, by decide, by decide, fun l => ⟨by revert l; decide, ?_⟩, fun _ => rfl⟩, ?_⟩
  · unfold State.OffersWaitInTurn
    revert l
    decide
  have h : State.reset.capacityInUse = 0 := by decide +kernel
  exact ⟨by rw [h]; exact Nat.zero_le _, fun _ => h⟩

theorem test_hyps_ChangesOweRewrites : ∃ t, exec (.pollDue 3) run = .next t ∧ t.mode = .running := ⟨_, rfl, rfl⟩

/-! ## The rewrite list's order, long-command records and a posted write's error, further clauses -/

def longs : List Long := [⟨0x30, 7, .oven 3, false⟩, ⟨0x20, 8, .recipe 9, true⟩]

def withLongs : State := { run with command := { CommandUnit.reset with longs := longs, completions := [finished] } }

theorem test_hyps_RingRecordsPostedInOrder_longs :
    withLongs.held .image = false ∧ withLongs.LongsDistinct ∧
    (withLongs.command.longs = [] ++ ⟨0x30, 7, .oven 3, false⟩ :: [⟨0x20, 8, .recipe 9, true⟩] ∧
      withLongs.command.longs = [⟨0x30, 7, .oven 3, false⟩] ++ ⟨0x20, 8, .recipe 9, true⟩ :: []) :=
  ⟨rfl, List.Pairwise.cons (by decide) (List.pairwise_singleton _ _), rfl, rfl⟩

theorem test_long_ends :
    (endLong (.oven 3) .done 1 2 3 withLongs).command =
      { withLongs.command with
        longs := [⟨0x20, 8, .recipe 9, true⟩], completions := [finished, completionOf 7 0x30 .done 1 2 3] } ∧
    (endLong (.recipe 9) .done 1 2 3 withLongs).command =
      { withLongs.command with longs := [⟨0x30, 7, .oven 3, false⟩] } := by decide +kernel

theorem test_hyps_RewritesPosted_rest :
    (rewriting [.oven 3, .summary, .oven 4] 12).RewritesOnce ∧ (rewriting [.site, .oven 4] 10).RewritesOnce ∧
    (rewriting [.summary, .site] 15).RewritesOnce := ⟨⟨by decide, rfl⟩, ⟨by decide, rfl⟩, by decide, rfl⟩

theorem test_hyps_RewritesOnce : State.reset.RewritesOnce ∧ ∃ t, step run = .next t ∧ run.RewritesOnce :=
  ⟨⟨by decide, rfl⟩, _, rfl, by decide, rfl⟩

/-- A posted write of a full mirror rewrite is answered ERROR while the summary word and an oven are owed. -/
def erring (calls : List Call) : State :=
  { issuedOne (.posted .mirror) writeReq with
    service := { ServiceUnit.reset with calls := calls }
    report := { ReportWriter.reset with rewriteList := [.summary, .oven 4] } }

def faultCall (sev : Severity) : Call := { openCall .posted with source := .site, cause := .memoryFault, severity := sev, repeats := 255 }

theorem test_hyps_MemoryAnswers_merged :
    (erring [openCall .posted, faultCall .urgent]).AnswerFor (.posted .mirror) writeReq [] ∧
    (erring [openCall .posted, faultCall .urgent]).mode = .running ∧
    (erring [openCall .posted, faultCall .urgent]).CallKeysDistinct ∧
    (erring [openCall .posted, faultCall .urgent]).service.calls = [openCall .posted] ++ faultCall .urgent :: [] ∧
    (faultCall .urgent).source = .site ∧ (faultCall .urgent).cause = .memoryFault :=
  ⟨⟨rfl, rfl⟩, rfl, List.Pairwise.cons (by decide) (List.pairwise_singleton _ _), rfl, rfl, rfl⟩

/-- The record latched by the ERROR and the merged call stand behind what was owed, the summary word behind all. -/
theorem test_error_order :
    (match exec (.postedWriteAnswer .error) (erring [openCall .posted, faultCall .urgent]) with
      | .next t => some (t.report.rewriteList, t.service.calls.map (fun c => (c.repeats, c.state)), t.path.capReport.latched)
      | _ => none) = some ([.oven 4, .site, .summary], [(1, .posted), (255, .posted)], true) := by decide +kernel

theorem test_hyps_ChangesOweRewrites_order :
    (∃ t, exec .completionPost (reporting .reset [finished] []) = .next t ∧ t.mode = .running ∧
      (reporting .reset [finished] []).mode = .running ∧ t.path.posted ≠ (reporting .reset [finished] []).path.posted ∧
      t.report.pendingSet ≠ (reporting .reset [finished] []).report.pendingSet) ∧
    (∃ t, exec (.postedWriteAnswer .error) (erring []) = .next t ∧ (erring []).hrst = false ∧
      ((erring []).path.capture .report).latched = false ∧ (t.path.capture .report).latched = true) ∧
    run.hears = true :=
  ⟨⟨_, rfl, rfl, rfl, by decide +kernel, by decide +kernel⟩, ⟨_, rfl, rfl, rfl, by decide +kernel⟩, rfl⟩

/-! ## What a masked image byte, a CONTROL burst, a gate and a victim are; rows out of turn; areas after a bad record -/

/-- The check field is bytes 16 to 19, wherever the burst begins. -/
theorem test_mask : maskImageBytes 15 [1, 2, 3, 4, 5, 6] = [1, 0, 0, 0, 0, 6] ∧ maskImageBytes 20 [7] = [7] := by decide

def controlBurst : MemRequest := { writeReq with addr := 0x2010, len := 2, data := [0x20, 9], enables := [15, 3] }

theorem test_control_burst :
    controlBurst.data.length = controlBurst.len ∧ controlBurst.enables.length = controlBurst.len ∧
    MemRequest.writtenWords controlBurst = [(0x2010, 0x20, 15), (0x2014, 9, 3)] := by decide

theorem test_hyps_ProcessorWriteGranted_burst :
    (controlBurst.data[1]? = some 9 ∧ controlBurst.enables[1]? = some 3) ∧
    (ackRefused.profile.watched.Nodup ∧ ackRefused.profile.watched[4]? = some 0x10) ∧
    (∀ o ∈ ackRefused.profile.watched, 0x2001 ≠ ackRefused.controlBase + o.toNat) := by
  have base : ackRefused.controlBase = 0x2000 := by decide +kernel
  have words : ackRefused.profile.watched = [0, 4, 8, 12, 16, 20] := by decide +kernel
  rw [base, words]
  exact ⟨⟨rfl, rfl⟩, ⟨by decide, rfl⟩, by simp⟩

def named (d : Option Identity) (l : List DirEntry) : Entry := { oven with identity := d, dir := l }

theorem test_gate :
    bufferGate (zeros 18 ++ le16 0x102 ++ le16 0x8) = { classes := 8, minLevel := 0x102 } ∧
    (named none []).gateRefusal ⟨8, 7⟩ = some .model ∧ (named (some ⟨5, 4, 9⟩) []).gateRefusal ⟨8, 7⟩ = some .model ∧
    (named (some ⟨5, 3, 6⟩) []).gateRefusal ⟨8, 7⟩ = some .level ∧ (named (some ⟨5, 3, 7⟩) []).gateRefusal ⟨8, 7⟩ = none := by
  decide

/-- An oven that cooks the recipe at its directory's tail. -/
def cooksTail : Entry :=
  { named none eight with
    activity := .cooking, cook := some ⟨27, 4, .panel, 1, 0, 0, none⟩ }

theorem test_victim :
    (named none (eight.take 7)).victim 9 = none ∧ (named none eight).victim 20 = none ∧
    (named none eight).victim 9 = some 27 ∧ cooksTail.victim 9 = some 26 := by decide

theorem test_hyps_FillReadsAnswered_victim :
    cooksTail.dir = eight.take 6 ++ entryOf 26 .unset false :: [entryOf 27 .unset false] ∧ (∀ x ∈ cooksTail.dir, x.recipe ≠ 9) ∧
    8 ≤ cooksTail.dir.length ∧ cooksTail.usesRecipe 26 = false ∧
    (∀ x ∈ [entryOf 27 .unset false], cooksTail.usesRecipe x.recipe = true) := by decide

theorem test_hyps_RingRecordsPostedInOrder_outOfTurn :
    run.completionReady = none ∧ run.serviceReady = none ∧ run.journalReady = none ∧
    (reporting .reset [finished] []).serviceReady = none ∧
    (reporting .reset [] [openCall .unposted]).completionReady = none := by decide +kernel

theorem test_hyps_RewritesPosted_outOfTurn :
    (rewriting [] 0).report.rewriteList.head? = none ∧
    (rewriting [.summary, .oven 3] 0).report.rewriteList.head? = some .summary ∧
    (rewriting [.oven 3, .summary] 0).report.rewriteList.head? ≠ some .summary := by decide

/-- A record whose CONTROL base, first watched offset and completion ring are given. -/
def placedRecord (control off ring : Word) (size : Half) : List Byte :=
  zeros 8 ++ windowBytes 1 0x1000 0x1000 ++ windowBytes 2 control 0x1000 ++ zeros 128 ++ le32 ring ++ le16 size ++ zeros 18 ++
  le32 0x14000 ++ le32 0x15000 ++ le32 off ++ zeros 320

/-- Log 66: a bad watched word or ring counts where its numbers put it, and not where they would wrap to. -/
theorem test_areas_after_bad_record :
    addressesUsable (placedRecord 0x2000 0x12000 0 0) 6 = false ∧ addressesUsable (placedRecord 0x2000 0x12000 0 0) 5 = true ∧
    addressesUsable (placedRecord 0x20000 0xFFFF4000 0 0) 6 = true ∧
    addressesUsable (placedRecord 0x2000 0 0x13FE0 3) 7 = false ∧ addressesUsable (placedRecord 0x2000 0 0x13FE0 2) 7 = true ∧
    addressesUsable (placedRecord 0x2000 0 0xFFFF0000 0xFFFF) 7 = true := by decide +kernel

end Sys2Proof.Tests
end

section
/-! What no owner's work touches in the path unit: every operation of the roster, of the cache, recipe, hygiene, service and
update units and of the lines leaves the path unit as it is, but for those that mark issued reads as no longer wanted, which leave
the starvation counters of R66 as they are. One lemma for each operation, in the order of the definitions. -/

namespace Sys2Proof.Machine

/-- The starvation counters (R66), of the bulk requester and of the processor requester. -/
def PathUnit.counters (p : PathUnit) : Nat × Nat := (p.bulkCount, p.procCount)

theorem foldl_path {α : Type} {f : State → α → State} (hf : ∀ s a, (f s a).path = s.path) (l : List α) (s : State) :
    (l.foldl f s).path = s.path := by
  induction l generalizing s with
  | nil => rfl
  | cons a t ih => rw [List.foldl_cons, ih, hf]

theorem foldl_counters {α : Type} {f : State → α → State} (hf : ∀ s a, (f s a).path.counters = s.path.counters) (l : List α)
    (s : State) : (l.foldl f s).path.counters = s.path.counters := by
  induction l generalizing s with
  | nil => rfl
  | cons a t ih => rw [List.foldl_cons, ih, hf]

@[simp] theorem disregardIssued_counters (p : IssueOwner → Bool) (s : State) :
    (disregardIssued p s).path.counters = s.path.counters := rfl

/-! ## The shared operations -/

@[simp] theorem sendAssign_path (i : Slot) (serial : Word) (s : State) : (sendAssign i serial s).path = s.path := rfl
@[simp] theorem sendConfirm_path (i : Slot) (serial : Word) (s : State) : (sendConfirm i serial s).path = s.path := rfl
@[simp] theorem sendUnassign_path (i : Slot) (s : State) : (sendUnassign i s).path = s.path := rfl
@[simp] theorem removeTelegrams_path (p : Queued → Bool) (s : State) : (removeTelegrams p s).path = s.path := rfl
@[simp] theorem joinSchedule_path (i : Slot) (s : State) : (joinSchedule i s).path = s.path := rfl
@[simp] theorem leaveSchedule_path (i : Slot) (s : State) : (leaveSchedule i s).path = s.path := rfl
@[simp] theorem endLong_path (o : LongObj) (r : ResultCode) (d1 d2 d3 : Word) (s : State) :
    (endLong o r d1 d2 d3 s).path = s.path := by
  unfold endLong
  repeat' split
  all_goals simp

@[simp] theorem passJournal_path (b : JBody) (s : State) :
    (passJournal b s).path = s.path := by
  unfold passJournal
  split <;> simp

@[simp] theorem queueRosterAbort_path (i : Slot) (s : State) :
    (queueRosterAbort i s).path = s.path := by
  unfold queueRosterAbort
  split <;> simp

/-! ## Flags -/

@[simp] theorem raiseEvent_path (e : Event) (s : State) :
    (raiseEvent e s).path = s.path := by
  unfold raiseEvent
  repeat' split
  all_goals simp

@[simp] theorem markServiceOverrun_path (s : State) :
    (markServiceOverrun s).path = s.path := by
  unfold markServiceOverrun
  split <;> simp

@[simp] theorem oweSite_path (s : State) : (oweSite s).path = s.path := rfl
@[simp] theorem setCount_path (i : Slot) (n : Nat) (s : State) :
    (setCount i n s).path = s.path := by
  unfold setCount
  dsimp only
  split <;> simp

/-! ## Service -/

@[simp] theorem joinCall_path (src : Source) (cause : Cause) (sev : Severity) (details : List Word)
    (table : List Call) (s : State) :
    (joinCall src cause sev details table s).path = s.path := rfl
@[simp] theorem raiseCall_path (src : Source) (cause : Cause) (sev : Severity) (details : List Word) (s : State) :
    (raiseCall src cause sev details s).path = s.path := by
  unfold raiseCall
  repeat' split
  all_goals simp

@[simp] theorem raiseProtocol_path (i : Slot) (n : Notice) (s : State) :
    (raiseProtocol i n s).path = s.path := by unfold raiseProtocol; simp
@[simp] theorem removeCallsOf_path (i : Slot) (s : State) : (removeCallsOf i s).path = s.path := rfl
@[simp] theorem ackCall_path (tag : Half) (source cause : Byte) (s : State) :
    (ackCall tag source cause s).path = s.path := by
  unfold ackCall
  repeat' split
  all_goals simp

@[simp] theorem closeCall_path (tag : Half) (source cause : Byte) (s : State) :
    (closeCall tag source cause s).path = s.path := by
  unfold closeCall
  repeat' split
  all_goals simp

@[simp] theorem unpostAll_path (s : State) : (unpostAll s).path = s.path := rfl

/-! ## Hygiene -/

@[simp] theorem joinCleaning_path (i : Slot) (program : Byte) (o : Origin) (s : State) :
    (joinCleaning i program o s).path = s.path := rfl
@[simp] theorem leaveCleaning_path (i : Slot) (s : State) : (leaveCleaning i s).path = s.path := rfl
@[simp] theorem reprogramCleaning_path (i : Slot) (program : Byte) (s : State) :
    (reprogramCleaning i program s).path = s.path := rfl
@[simp] theorem setIdleWait_path (i : Slot) (b : Bool) (s : State) : (setIdleWait i b s).path = s.path := rfl
@[simp] theorem autoPlace_path (i : Slot) (s : State) : (autoPlace i s).path = s.path := by
  unfold autoPlace
  split <;> simp

@[simp] theorem accrue_path (i : Slot) (s : State) :
    (accrue i s).path = s.path := by
  unfold accrue
  dsimp only
  repeat' split
  all_goals simp

@[simp] theorem accrueAll_path (s : State) : (accrueAll s).path = s.path := foldl_path (fun s i => accrue_path i s) _ _
@[simp] theorem makeOffer_path (w : CleanWait) (s : State) : (makeOffer w s).path = s.path := rfl
@[simp] theorem offersUpTo_path (n : Nat) (s : State) : (offersUpTo n s).path = s.path := by
  induction n generalizing s with
  | zero => rfl
  | succ n ih =>
    unfold offersUpTo
    repeat' split
    all_goals simp [ih]

@[simp] theorem makeOffers_path (s : State) : (makeOffers s).path = s.path := by unfold makeOffers; simp
@[simp] theorem passClean_path (i : Slot) (o : Origin) (program : Byte) (queued : Word) (start : Option Word)
    (r : CleanOutcome) (phases : BitVec 5) (maximum : Option Int) (seconds : Half) (s : State) :
    (passClean i o program queued start r phases maximum seconds s).path = s.path := by unfold passClean; simp
@[simp] theorem passCleanOf_path (i : Slot) (c : CleanRec) (r : CleanOutcome) (s : State) :
    (passCleanOf i c r s).path = s.path := by unfold passCleanOf; simp
@[simp] theorem endOffer_path (i : Slot) (s : State) : (endOffer i s).path = s.path := rfl
@[simp] theorem cleaningBegins_path (i : Slot) (f : OfferRec) (s : State) :
    (cleaningBegins i f s).path = s.path := by
  unfold cleaningBegins
  dsimp only
  split <;> simp

@[simp] theorem cleaningDeclined_path (i : Slot) (f : OfferRec) (s : State) :
    (cleaningDeclined i f s).path = s.path := by
  unfold cleaningDeclined
  split <;> simp

@[simp] theorem cleanGoOutcome_path (i : Slot) (o : Outcome) (s : State) :
    (cleanGoOutcome i o s).path = s.path := by
  unfold cleanGoOutcome
  repeat' split
  all_goals simp

@[simp] theorem endCleaning_path (i : Slot) (s : State) : (endCleaning i s).path = s.path := rfl
@[simp] theorem cleanEnded_path (i : Slot) (c : CleanRec) (r : CleanEnd) (s : State) :
    (cleanEnded i c r s).path = s.path := by
  unfold cleanEnded
  repeat' split
  all_goals simp

@[simp] theorem cleanPhase_path (i : Slot) (c : CleanRec) (p : Phase) (rawMax secs : Half) (s : State) :
    (cleanPhase i c p rawMax secs s).path = s.path := rfl
@[simp] theorem strayCleaning_path (i : Slot) (n : Notice) (s : State) :
    (strayCleaning i n s).path = s.path := by
  unfold strayCleaning
  dsimp only
  split <;> simp

@[simp] theorem cleanPhaseNotice_path (i : Slot) (p : Phase) (rawMax secs : Half) (s : State) :
    (cleanPhaseNotice i p rawMax secs s).path = s.path := by
  unfold cleanPhaseNotice
  split <;> simp

@[simp] theorem cleanEndNotice_path (i : Slot) (r : CleanEnd) (s : State) :
    (cleanEndNotice i r s).path = s.path := by
  unfold cleanEndNotice
  split <;> simp

@[simp] theorem cleanRequest_path (i : Slot) (program : Byte) (s : State) :
    (cleanRequest i program s).path = s.path := by
  unfold cleanRequest
  dsimp only
  repeat' split
  all_goals simp

@[simp] theorem closeCleaningUnknown_path (i : Slot) (s : State) :
    (closeCleaningUnknown i s).path = s.path := by
  unfold closeCleaningUnknown
  split <;> simp

@[simp] theorem requeueExpired_path (i : Slot) (s : State) :
    (requeueExpired i s).path = s.path := by
  unfold requeueExpired
  dsimp only
  split <;> simp

@[simp] theorem clean_path (tag : Half) (oven program : Byte) (s : State) :
    (clean tag oven program s).path = s.path := by
  unfold clean
  repeat' split
  all_goals simp

@[simp] theorem cancelClean_path (tag : Half) (oven : Byte) (s : State) :
    (cancelClean tag oven s).path = s.path := by
  unfold cancelClean
  repeat' split
  all_goals simp

/-! ## Cache -/

@[simp] theorem sendEvict_path (i : Slot) (r : RecipeNo) (s : State) : (sendEvict i r s).path = s.path := rfl
@[simp] theorem evictAtEnd_path (i : Slot) (s : State) :
    (evictAtEnd i s).path = s.path := by
  unfold evictAtEnd
  exact foldl_path (fun s x => by simp) _ _

@[simp] theorem returnIdle_path (i : Slot) (s : State) : (returnIdle i s).path = s.path := by unfold returnIdle; simp
@[simp] theorem reduceDirectory_path (i : Slot) (s : State) : (reduceDirectory i s).path = s.path := rfl
@[simp] theorem flushReduce_path (i : Slot) (s : State) : (flushReduce i s).path = s.path := rfl
@[simp] theorem markFillsStale_path (r : RecipeNo) (s : State) : (markFillsStale r s).path = s.path := rfl
@[simp] theorem staleAt_path (r : RecipeNo) (s : State) (i : Slot) : (staleAt r s i).path = s.path := by
  unfold staleAt
  repeat' split
  all_goals simp

@[simp] theorem staleRecipe_path (r : RecipeNo) (s : State) :
    (staleRecipe r s).path = s.path := by
  unfold staleRecipe
  rw [markFillsStale_path, foldl_path (staleAt_path r)]

@[simp] theorem releaseWaits_path (r : RecipeNo) (s : State) : (releaseWaits r s).path = s.path := rfl
@[simp] theorem commitNotice_path (r : RecipeNo) (g : Gate) (s : State) :
    (commitNotice r g s).path = s.path := by
  unfold commitNotice
  simp

@[simp] theorem answerRefusal_path (i : Slot) (p : PendingStart) (why : Reason) (s : State) :
    (answerRefusal i p why s).path = s.path := by
  unfold answerRefusal
  repeat' split
  all_goals simp

@[simp] theorem refuseStart_path (i : Slot) (why : Reason) (s : State) :
    (refuseStart i why s).path = s.path := by
  unfold refuseStart
  split <;> simp

@[simp] theorem composeGrant_path (i : Slot) (s : State) :
    (composeGrant i s).path = s.path := by
  unfold composeGrant
  repeat' split
  all_goals simp

@[simp] theorem joinFillQueue_path (i : Slot) (s : State) : (joinFillQueue i s).path = s.path := rfl
@[simp] theorem leaveFillQueue_path (l : LineNo) (i : Slot) (s : State) : (leaveFillQueue l i s).path = s.path := rfl
@[simp] theorem beginStart_path (i : Slot) (r : RecipeNo) (o : Origin) (tag : Option Half) (s : State) :
    (beginStart i r o tag s).path = s.path := by
  unfold beginStart
  dsimp only
  split <;> simp

@[simp] theorem startRequest_path (i : Slot) (r : RecipeNo) (s : State) :
    (startRequest i r s).path = s.path := by
  unfold startRequest
  split <;> simp

@[simp] theorem cook_path (tag : Half) (oven recipe : Byte) (s : State) :
    (cook tag oven recipe s).path = s.path := by
  unfold cook
  repeat' split
  all_goals simp

@[simp] theorem setFill_path (l : LineNo) (f : Option Fill) (s : State) : (setFill l f s).path = s.path := rfl
@[simp] theorem setStage_path (i : Slot) (st : Stage) (s : State) : (setStage i st s).path = s.path := rfl
@[simp] theorem grantFill_path (l : LineNo) (i : Slot) (r : RecipeNo) (s : State) : (grantFill l i r s).path = s.path := rfl
@[simp] theorem waitFill_path (l : LineNo) (i : Slot) (s : State) : (waitFill l i s).path = s.path := rfl
@[simp] theorem registerFills_path (l : LineNo) (q : List FillWait) (s : State) :
    (registerFills l q s).path = s.path := by
  induction q generalizing s with
  | nil => rfl
  | cons w t ih =>
    unfold registerFills
    repeat' split
    all_goals simp [ih]

@[simp] theorem registerAll_path (s : State) :
    (registerAll s).path = s.path := foldl_path (fun s l => registerFills_path l _ s) _ _
@[simp] theorem placeStream_path (l : LineNo) (x : Stream) (s : State) : (placeStream l x s).path = s.path := rfl
@[simp] theorem removeStream_path (l : LineNo) (k : StreamKind) (i : Slot) (s : State) :
    (removeStream l k i s).path = s.path := rfl
@[simp] theorem modStream_path (l : LineNo) (k : StreamKind) (i : Slot) (f : Stream → Stream) (s : State) :
    (modStream l k i f s).path = s.path := rfl
@[simp] theorem endFillStream_path (l : LineNo) (i : Slot) (s : State) : (endFillStream l i s).path = s.path := rfl
@[simp] theorem fillGood_path (l : LineNo) (f : Fill) (s : State) :
    (fillGood l f s).path = s.path := by
  unfold fillGood
  split <;> simp

@[simp] theorem fillBad_path (l : LineNo) (f : Fill) (s : State) : (fillBad l f s).path = s.path := by unfold fillBad; simp
@[simp] theorem fillComplete_path (l : LineNo) (f : Fill) (s : State) :
    (fillComplete l f s).path = s.path := by
  unfold fillComplete
  split <;> simp

@[simp] theorem fillBlockOutcome_path (l : LineNo) (i : Slot) (last : Bool) (o : Outcome) (s : State) :
    (fillBlockOutcome l i last o s).path = s.path := by
  unfold fillBlockOutcome
  repeat' split
  all_goals simp

@[simp] theorem abandonStage_path (i : Slot) (st : Stage) (s : State) :
    (abandonStage i st s).path = s.path := by
  unfold abandonStage
  dsimp only
  repeat' split
  all_goals simp

@[simp] theorem abandonStart_path (i : Slot) (s : State) :
    (abandonStart i s).path = s.path := by
  unfold abandonStart
  split <;> simp

@[simp] theorem makeCook_path (i : Slot) (k : CookRec) (s : State) : (makeCook i k s).path = s.path := rfl
@[simp] theorem closeCook_path (i : Slot) (k : CookRec) (o : CookOutcome) (steps : Byte) (s : State) :
    (closeCook i k o steps s).path = s.path := by unfold closeCook; simp
@[simp] theorem endCook_path (i : Slot) (k : CookRec) (o : CookOutcome) (steps : Byte) (s : State) :
    (endCook i k o steps s).path = s.path := by unfold endCook; simp
@[simp] theorem closeCookUnknown_path (i : Slot) (s : State) :
    (closeCookUnknown i s).path = s.path := by
  unfold closeCookUnknown
  split <;> simp

@[simp] theorem adopt_path (i : Slot) (t : Byte) (r : RecipeNo) (v : Byte) (s : State) :
    (adopt i t r v s).path = s.path := by
  unfold adopt
  dsimp only
  repeat' split
  all_goals simp

@[simp] theorem takeCookNews_path (i : Slot) (n : CookNews) (s : State) :
    (takeCookNews i n s).path = s.path := by
  unfold takeCookNews
  repeat' split
  all_goals simp

@[simp] theorem cookNotice_path (i : Slot) (nt : Notice) (t : Byte) (r : RecipeNo) (v : Byte) (n : CookNews) (s : State) :
    (cookNotice i nt t r v n s).path = s.path := by
  unfold cookNotice
  dsimp only
  repeat' split
  all_goals simp

@[simp] theorem grantAcked_path (i : Slot) (p : PendingStart) (g : GrantRec) (s : State) :
    (grantAcked i p g s).path = s.path := by
  unfold grantAcked
  split <;> simp

@[simp] theorem grantEnds_path (i : Slot) (p : PendingStart) (r : ResultCode) (d : Word) (s : State) :
    (grantEnds i p r d s).path = s.path := by
  unfold grantEnds
  split <;> simp

@[simp] theorem evictIfIdle_path (i : Slot) (s : State) :
    (evictIfIdle i s).path = s.path := by
  unfold evictIfIdle
  split <;> simp

@[simp] theorem abandonedGrant_path (i : Slot) (t : Byte) (r : RecipeNo) (v : Byte) (o : Outcome) (s : State) :
    (abandonedGrant i t r v o s).path = s.path := by
  unfold abandonedGrant
  dsimp only
  repeat' split
  all_goals simp

@[simp] theorem grantOutcome_path (i : Slot) (t : Byte) (r : RecipeNo) (v : Byte) (o : Outcome) (s : State) :
    (grantOutcome i t r v o s).path = s.path := by
  unfold grantOutcome
  repeat' split
  all_goals simp

@[simp] theorem evictEnded_path (i : Slot) (r : RecipeNo) (s : State) :
    (evictEnded i r s).path = s.path := by
  unfold evictEnded
  repeat' split
  all_goals simp

@[simp] theorem evictOutcome_path (i : Slot) (r : RecipeNo) (o : Outcome) (s : State) :
    (evictOutcome i r o s).path = s.path := by
  unfold evictOutcome
  repeat' split
  all_goals simp

@[simp] theorem flushOutcome_path (i : Slot) (o : Outcome) (s : State) :
    (flushOutcome i o s).path = s.path := by
  unfold flushOutcome
  split <;> simp

@[simp] theorem resendFlush_path (i : Slot) (s : State) :
    (resendFlush i s).path = s.path := by
  unfold resendFlush
  split <;> simp

@[simp] theorem resendEvictions_path (i : Slot) (s : State) :
    (resendEvictions i s).path = s.path := by
  unfold resendEvictions
  exact foldl_path (fun s x => by simp) _ _

@[simp] theorem abortCommand_path (tag : Half) (oven : Byte) (s : State) :
    (abortCommand tag oven s).path = s.path := by
  unfold abortCommand
  repeat' split
  all_goals simp

@[simp] theorem completeAbort_path (a : PendingAbort) (r : ResultCode) (d2 : Word) (s : State) :
    (completeAbort a r d2 s).path = s.path := by
  unfold completeAbort
  split <;> simp

@[simp] theorem abortOutcome_path (i : Slot) (gone : Bool) (o : Outcome) (s : State) :
    (abortOutcome i gone o s).path = s.path := by
  unfold abortOutcome
  repeat' split
  all_goals simp

@[simp] theorem removeAborts_path (i : Slot) (s : State) :
    (removeAborts i s).path = s.path := by
  unfold removeAborts
  exact foldl_path (fun s x => by simp) _ _

/-! ## Recipes -/

@[simp] theorem startEngine_path (s : State) : (startEngine s).path = s.path := by
  unfold startEngine
  split <;> simp

@[simp] theorem leavePublishList_path (r : RecipeNo) (s : State) :
    (leavePublishList r s).path = s.path := by unfold leavePublishList; simp
@[simp] theorem publishFault_counters (r : RecipeNo) (c : ResultCode) (d1 d2 : Word) (s : State) :
    (publishFault r c d1 d2 s).path.counters = s.path.counters := by unfold publishFault; simp
@[simp] theorem commit_path (r : RecipeNo) (s : State) :
    (commit r s).path = s.path := by
  unfold commit
  dsimp only
  repeat' split
  all_goals simp

@[simp] theorem publishRead_path (r : RecipeNo) (g : Staged) (s : State) :
    (publishRead r g s).path = s.path := by
  unfold publishRead
  dsimp only
  split <;> simp

@[simp] theorem publishAnswer_counters (data : Option (List Word)) (s : State) :
    (publishAnswer data s).path.counters = s.path.counters := by
  unfold publishAnswer
  dsimp only
  repeat' split
  all_goals simp

@[simp] theorem publish_path (tag : Half) (recipe : Byte) (s : State) :
    (publish tag recipe s).path = s.path := by
  unfold publish
  dsimp only
  repeat' split
  all_goals simp

@[simp] theorem withdraw_path (tag : Half) (recipe : Byte) (s : State) :
    (withdraw tag recipe s).path = s.path := by
  unfold withdraw
  dsimp only
  repeat' split
  all_goals simp

@[simp] theorem draftWritten_path (r : RecipeNo) (s : State) : (draftWritten r s).path = s.path := rfl
@[simp] theorem quarantine_path (l : LineNo) (f : Fill) (v : Verdict) (s : State) :
    (quarantine l f v s).path = s.path := by unfold quarantine; simp
@[simp] theorem readerDone_path (r : RecipeNo) (s : State) :
    (readerDone r s).path = s.path := by
  unfold readerDone
  dsimp only
  split <;> simp

@[simp] theorem fillVerdict_path (l : LineNo) (f : Fill) (v : Verdict) (s : State) :
    (fillVerdict l f v s).path = s.path := by
  unfold fillVerdict
  repeat' split
  all_goals simp

@[simp] theorem reportAbandoned_path (l : LineNo) (s : State) :
    (reportAbandoned l s).path = s.path := by
  unfold reportAbandoned
  repeat' split
  all_goals simp

@[simp] theorem fillAnswer_counters (l : LineNo) (data : Option (List Word)) (s : State) :
    (fillAnswer l data s).path.counters = s.path.counters := by
  unfold fillAnswer
  dsimp only
  repeat' split
  all_goals simp

/-! ## Update -/

@[simp] theorem stageClose_path (tag : Half) (length check : Word) (s : State) :
    (stageClose tag length check s).path = s.path := by
  unfold stageClose
  dsimp only
  repeat' split
  all_goals simp

@[simp] theorem rejectImage_counters (why : RejectReason) (found : Word) (stagedLen : Nat) (s : State) :
    (rejectImage why found stagedLen s).path.counters = s.path.counters := by unfold rejectImage; simp
@[simp] theorem verifyImage_path (h : ImageHead) (stagedLen : Nat) (s : State) :
    (verifyImage h stagedLen s).path = s.path := by unfold verifyImage; simp
@[simp] theorem verifyAnswer_counters (data : Option (List Word)) (s : State) :
    (verifyAnswer data s).path.counters = s.path.counters := by
  unfold verifyAnswer
  dsimp only
  repeat' split
  all_goals simp

@[simp] theorem passUpdate_path (i : Slot) (o : UpdOutcome) (reported : Option Half) (blocks : Nat)
    (why : Option UpdReason) (s : State) :
    (passUpdate i o reported blocks why s).path = s.path := by unfold passUpdate; simp
@[simp] theorem markDone_path (i : Slot) (s : State) : (markDone i s).path = s.path := rfl
@[simp] theorem markFailed_path (i : Slot) (s : State) : (markFailed i s).path = s.path := rfl
@[simp] theorem markSkipped_path (i : Slot) (s : State) : (markSkipped i s).path = s.path := rfl
@[simp] theorem dropImageStream_counters (i : Slot) (s : State) :
    (dropImageStream i s).path.counters = s.path.counters := by
  unfold dropImageStream
  dsimp only
  split <;> simp

@[simp] theorem leaveUpdating_path (i : Slot) (st : UpdState) (s : State) : (leaveUpdating i st s).path = s.path := rfl
@[simp] theorem failOven_counters (i : Slot) (why : UpdReason) (block : Option Nat) (fourth : Option Word)
    (reported : Option Half) (s : State) :
    (failOven i why block fourth reported s).path.counters = s.path.counters := by
  unfold failOven
  split <;> simp

@[simp] theorem stopOven_counters (i : Slot) (s : State) :
    (stopOven i s).path.counters = s.path.counters := by unfold stopOven; simp
@[simp] theorem skipQueued_path (i : Slot) (s : State) :
    (skipQueued i s).path = s.path := by
  unfold skipQueued
  split <;> simp

@[simp] theorem failSuspended_counters (i : Slot) (s : State) :
    (failSuspended i s).path.counters = s.path.counters := by unfold failSuspended; simp
@[simp] theorem beginBlock_path (i : Slot) (n : Nat) (s : State) : (beginBlock i n s).path = s.path := rfl
@[simp] theorem takePick_path (l : LineNo) (i : Slot) (s : State) : (takePick l i s).path = s.path := rfl
@[simp] theorem pickOn_path (s : State) (l : LineNo) : (pickOn s l).path = s.path := by
  unfold pickOn
  repeat' split
  all_goals simp

@[simp] theorem makePicks_path (s : State) : (makePicks s).path = s.path := foldl_path pickOn_path _ _
@[simp] theorem endRollout_path (s : State) :
    (endRollout s).path = s.path := by
  unfold endRollout
  dsimp only
  split <;> simp

@[simp] theorem blockAnswer_counters (i : Slot) (data : Option (List Word)) (s : State) :
    (blockAnswer i data s).path.counters = s.path.counters := by
  unfold blockAnswer
  dsimp only
  repeat' split
  all_goals simp

@[simp] theorem imageBlockOutcome_counters (l : LineNo) (i : Slot) (o : Outcome) (s : State) :
    (imageBlockOutcome l i o s).path.counters = s.path.counters := by
  unfold imageBlockOutcome
  dsimp only
  repeat' split
  all_goals simp

@[simp] theorem switching_path (i : Slot) (s : State) : (switching i s).path = s.path := rfl
@[simp] theorem switchOutcome_counters (i : Slot) (o : Outcome) (s : State) :
    (switchOutcome i o s).path.counters = s.path.counters := by
  unfold switchOutcome
  dsimp only
  repeat' split
  all_goals simp

@[simp] theorem askIdentity_path (i : Slot) (s : State) :
    (askIdentity i s).path = s.path := by
  unfold askIdentity
  split <;> simp

@[simp] theorem setLevel_path (i : Slot) (level : Half) (s : State) : (setLevel i level s).path = s.path := rfl
@[simp] theorem confirmOven_path (i : Slot) (reported : Half) (s : State) :
    (confirmOven i reported s).path = s.path := by unfold confirmOven; simp
@[simp] theorem switchIdent_counters (i : Slot) (o : Outcome) (s : State) :
    (switchIdent i o s).path.counters = s.path.counters := by
  unfold switchIdent
  dsimp only
  repeat' split
  all_goals simp

@[simp] theorem rollout_path (tag mask : Half) (downgrade : Byte) (s : State) :
    (rollout tag mask downgrade s).path = s.path := by
  unfold rollout
  dsimp only
  repeat' split
  all_goals simp
  all_goals exact foldl_path (fun s i => by simp) _ _

@[simp] theorem haltOne_counters (s : State) (i : Slot) : (haltOne s i).path.counters = s.path.counters := by
  unfold haltOne
  dsimp only
  repeat' split
  all_goals simp

@[simp] theorem rolloutHalt_counters (tag : Half) (s : State) :
    (rolloutHalt tag s).path.counters = s.path.counters := by
  have h := foldl_counters haltOne_counters slots s
  unfold rolloutHalt
  dsimp only
  repeat' split
  all_goals simp [h]

/-! ## Roster -/

@[simp] theorem markGone_path (i : Slot) (s : State) : (markGone i s).path = s.path := rfl
@[simp] theorem vacate_path (i : Slot) (u : UpdRec) (s : State) : (vacate i u s).path = s.path := by unfold vacate; simp
@[simp] theorem failCommission_path (i : Slot) (r : ResultCode) (d1 : Word) (unassign : Bool) (s : State) :
    (failCommission i r d1 unassign s).path = s.path := by
  unfold failCommission
  dsimp only
  repeat' split
  all_goals simp

@[simp] theorem enterInService_path (i : Slot) (s : State) :
    (enterInService i s).path = s.path := by unfold enterInService; simp
@[simp] theorem passCommission_path (i : Slot) (j : Job) (c : Cal) (errors : Option (Int × Int)) (s : State) :
    (passCommission i j c errors s).path = s.path := by
  unfold passCommission
  dsimp only
  split <;> simp

@[simp] theorem enterCalibrating_path (i : Slot) (s : State) : (enterCalibrating i s).path = s.path := rfl
@[simp] theorem calFail_path (i : Slot) (errors : Option (Int × Int)) (why : CalEnd) (s : State) :
    (calFail i errors why s).path = s.path := by unfold calFail; simp
@[simp] theorem calPass_path (i : Slot) (j : Job) (c : Cal) (e0 es : Int) (s : State) :
    (calPass i j c e0 es s).path = s.path := by unfold calPass; simp
@[simp] theorem judgeProbe_path (i : Slot) (rawLow rawHigh : Half) (s : State) :
    (judgeProbe i rawLow rawHigh s).path = s.path := by
  unfold judgeProbe
  dsimp only
  repeat' split
  all_goals simp

@[simp] theorem probeCheckOutcome_path (i : Slot) (o : Outcome) (s : State) :
    (probeCheckOutcome i o s).path = s.path := by
  unfold probeCheckOutcome
  repeat' split
  all_goals simp

@[simp] theorem pairOutcome_path (i : Slot) (o : Outcome) (s : State) :
    (pairOutcome i o s).path = s.path := by
  unfold pairOutcome
  generalize (s.ent i).state = state, (s.ent i).job = job
  cases job with
  | none => cases state <;> rfl
  | some j =>
    cases state
    case assigning =>
      cases o with
      | failed d => cases d <;> simp
      | valid r =>
        cases r
        case pair serial => dsimp only; split <;> simp
        all_goals simp
    all_goals rfl

@[simp] theorem confirmOutcome_path (i : Slot) (o : Outcome) (s : State) :
    (confirmOutcome i o s).path = s.path := by
  unfold confirmOutcome
  split <;> simp

@[simp] theorem restored_path (i : Slot) (j : Job) (d : IdentReply) (s : State) :
    (restored i j d s).path = s.path := by
  unfold restored
  split <;> simp

@[simp] theorem judgeIdent_path (i : Slot) (j : Job) (d : IdentReply) (s : State) :
    (judgeIdent i j d s).path = s.path := by
  unfold judgeIdent
  repeat' split
  all_goals simp

@[simp] theorem suspendActivity_counters (i : Slot) (c : StopCause) (s : State) :
    (suspendActivity i c s).path.counters = s.path.counters := by
  unfold suspendActivity
  repeat' split
  all_goals simp

@[simp] theorem suspend_counters (i : Slot) (c : StopCause) (s : State) :
    (suspend i c s).path.counters = s.path.counters := by unfold suspend; simp
@[simp] theorem addFaultCause_path (i : Slot) (s : State) :
    (addFaultCause i s).path = s.path := by
  unfold addFaultCause
  dsimp only
  split <;> simp

@[simp] theorem returnToSuspended_path (i : Slot) (c : StopCause) (s : State) : (returnToSuspended i c s).path = s.path := rfl
@[simp] theorem voidIdent_path (i : Slot) (s : State) : (voidIdent i s).path = s.path := rfl
@[simp] theorem revalidated_path (i : Slot) (d : IdentReply) (s : State) :
    (revalidated i d s).path = s.path := by
  unfold revalidated
  split <;> simp

@[simp] theorem revalidateOutcome_path (i : Slot) (o : Outcome) (s : State) :
    (revalidateOutcome i o s).path = s.path := by
  unfold revalidateOutcome
  dsimp only
  repeat' split
  all_goals simp

@[simp] theorem identOutcome_path (i : Slot) (void : Bool) (o : Outcome) (s : State) :
    (identOutcome i void o s).path = s.path := by
  unfold identOutcome
  repeat' split
  all_goals simp

@[simp] theorem rosterAbortOutcome_path (i : Slot) (o : Outcome) (s : State) :
    (rosterAbortOutcome i o s).path = s.path := by
  unfold rosterAbortOutcome
  split <;> simp

@[simp] theorem calBusyNotice_path (i : Slot) (s : State) :
    (calBusyNotice i s).path = s.path := by
  unfold calBusyNotice
  split <;> simp

@[simp] theorem probeResultNotice_path (i : Slot) (rawLow rawHigh : Half) (s : State) :
    (probeResultNotice i rawLow rawHigh s).path = s.path := by
  unfold probeResultNotice
  split <;> simp

@[simp] theorem faultNotice_counters (i : Slot) (cls : Severity) (codes : List Half) (s : State) :
    (faultNotice i cls codes s).path.counters = s.path.counters := by
  unfold faultNotice
  repeat' split
  all_goals simp

@[simp] theorem silenceExpired_counters (i : Slot) (s : State) :
    (silenceExpired i s).path.counters = s.path.counters := by
  unfold silenceExpired
  dsimp only
  repeat' split
  all_goals simp

@[simp] theorem switchExpired_counters (i : Slot) (s : State) :
    (switchExpired i s).path.counters = s.path.counters := by
  unfold switchExpired
  simp

@[simp] theorem identResendExpired_path (i : Slot) (s : State) :
    (identResendExpired i s).path = s.path := by
  unfold identResendExpired
  dsimp only
  split <;> simp

@[simp] theorem beginCommission_path (kind : Byte) (i : Slot) (l : LineNo) (drop : Byte) (j : Job) (s : State) :
    (beginCommission kind i l drop j s).path = s.path := rfl
@[simp] theorem commission_path (tag : Half) (slot line drop : Byte) (serial : Word) (refLow refHigh : Half) (s : State) :
    (commission tag slot line drop serial refLow refHigh s).path = s.path := by
  unfold commission
  repeat' split
  all_goals simp

@[simp] theorem restore_path (tag : Half) (slot line drop : Byte) (serial : Word) (cal : Cal) (minutes : Word) (s : State) :
    (restore tag slot line drop serial cal minutes s).path = s.path := by
  unfold restore
  repeat' split
  all_goals simp

@[simp] theorem recalibrate_path (tag : Half) (slot : Byte) (refLow refHigh : Half) (s : State) :
    (recalibrate tag slot refLow refHigh s).path = s.path := by
  unfold recalibrate
  dsimp only
  repeat' split
  all_goals simp

@[simp] theorem retire_path (tag : Half) (slot : Byte) (s : State) :
    (retire tag slot s).path = s.path := by
  unfold retire
  dsimp only
  repeat' split
  all_goals simp

@[simp] theorem release_path (tag : Half) (slot : Byte) (s : State) :
    (release tag slot s).path = s.path := by
  unfold release
  dsimp only
  repeat' split
  all_goals simp

/-! ## Events -/

@[simp] theorem fetchBegin_path (s : State) : (fetchBegin s).path = s.path := by
  unfold fetchBegin
  split <;> simp

/-! ## Lines -/

@[simp] theorem beginTransaction_path (l : LineNo) (q : Queued) (s : State) : (beginTransaction l q s).path = s.path := rfl
@[simp] theorem identBegins_path (q : Queued) (s : State) :
    (identBegins q s).path = s.path := by
  unfold identBegins
  repeat' split
  all_goals simp

@[simp] theorem takeUrgent_path (l : LineNo) (q : Queued) (rest : List Queued) (s : State) :
    (takeUrgent l q rest s).path = s.path := by unfold takeUrgent; simp
@[simp] theorem beginPoll_path (l : LineNo) (i : Slot) (s : State) : (beginPoll l i s).path = s.path := rfl
@[simp] theorem beginBlockTelegram_path (l : LineNo) (x : Stream) (t : Telegram) (s : State) :
    (beginBlockTelegram l x t s).path = s.path := rfl
@[simp] theorem scheduleNext_path (l : LineNo) (s : State) :
    (scheduleNext l s).path = s.path := by
  unfold scheduleNext
  dsimp only
  repeat' split
  all_goals simp

@[simp] theorem schedulerChoice_path (l : LineNo) (s : State) :
    (schedulerChoice l s).path = s.path := by
  unfold schedulerChoice
  split <;> simp

@[simp] theorem setDue_path (overdue : Bool) (i : Slot) (s : State) : (setDue overdue i s).path = s.path := rfl
@[simp] theorem liveness_path (i : Slot) (valid : Bool) (s : State) :
    (liveness i valid s).path = s.path := by
  unfold liveness
  dsimp only
  repeat' split
  all_goals simp

@[simp] theorem takeNotice_counters (i : Slot) (n : Notice) (s : State) :
    (takeNotice i n s).path.counters = s.path.counters := by
  unfold takeNotice
  split <;> simp

@[simp] theorem acceptNotice_counters (i : Slot) (t : Bool) (n : Notice) (s : State) :
    (acceptNotice i t n s).path.counters = s.path.counters := by
  unfold acceptNotice
  split <;> simp

@[simp] theorem takeReadings_path (i : Slot) (r : StatusReply) (s : State) :
    (takeReadings i r s).path = s.path := by
  unfold takeReadings
  dsimp only
  split <;> simp

@[simp] theorem takeStatus_counters (i : Slot) (r : StatusReply) (s : State) :
    (takeStatus i r s).path.counters = s.path.counters := by
  unfold takeStatus
  repeat' split
  all_goals simp

@[simp] theorem deliverTo_counters (l : LineNo) (q : Queued) (i : Slot) (o : Outcome) (s : State) :
    (deliverTo l q i o s).path.counters = s.path.counters := by
  unfold deliverTo
  repeat' split
  all_goals simp

@[simp] theorem deliverGone_path (l : LineNo) (q : Queued) (i : Slot) (o : Outcome) (s : State) :
    (deliverGone l q i o s).path = s.path := by
  unfold deliverGone
  repeat' split
  all_goals simp

@[simp] theorem deliverUntargeted_path (q : Queued) (o : Outcome) (s : State) :
    (deliverUntargeted q o s).path = s.path := by
  unfold deliverUntargeted
  split <;> simp

@[simp] theorem deliver_counters (l : LineNo) (t : Transaction) (o : Outcome) (s : State) :
    (deliver l t o s).path.counters = s.path.counters := by
  unfold deliver
  dsimp only
  repeat' split
  all_goals simp

@[simp] theorem endTransaction_counters (l : LineNo) (t : Transaction) (o : Outcome) (s : State) :
    (endTransaction l t o s).path.counters = s.path.counters := by unfold endTransaction; simp
@[simp] theorem attemptEnds_counters (l : LineNo) (t : Transaction) (s : State) :
    (attemptEnds l t s).path.counters = s.path.counters := by
  unfold attemptEnds
  split <;> simp

@[simp] theorem damagedReply_path (l : LineNo) (t : Transaction) (s : State) : (damagedReply l t s).path = s.path := rfl
@[simp] theorem transmitEnd_path (l : LineNo) (s : State) :
    (transmitEnd l s).path = s.path := by
  unfold transmitEnd
  split <;> simp

@[simp] theorem replyStarts_path (l : LineNo) (s : State) :
    (replyStarts l s).path = s.path := by
  unfold replyStarts
  split <;> simp

@[simp] theorem replyReceived_counters (l : LineNo) (chars : List RawChar) (s : State) :
    (replyReceived l chars s).path.counters = s.path.counters := by
  unfold replyReceived
  dsimp only
  repeat' split
  all_goals simp

@[simp] theorem gapExpired_path (l : LineNo) (s : State) :
    (gapExpired l s).path = s.path := by
  unfold gapExpired
  split <;> simp

@[simp] theorem windowExpired_counters (l : LineNo) (s : State) :
    (windowExpired l s).path.counters = s.path.counters := by
  unfold windowExpired
  split <;> simp

@[simp] theorem quietStart_path (l : LineNo) (s : State) :
    (quietStart l s).path = s.path := by
  unfold quietStart
  split <;> simp

@[simp] theorem quietEnd_counters (l : LineNo) (s : State) :
    (quietEnd l s).path.counters = s.path.counters := by
  unfold quietEnd
  split <;> simp

@[simp] theorem turnaroundEnd_path (l : LineNo) (s : State) :
    (turnaroundEnd l s).path = s.path := by
  unfold turnaroundEnd
  split <;> simp

@[simp] theorem lineTest_path (tag : Half) (line : Byte) (s : State) :
    (lineTest tag line s).path = s.path := by
  unfold lineTest
  repeat' split
  all_goals simp

@[simp] theorem testStart_path (l : LineNo) (s : State) :
    (testStart l s).path = s.path := by
  unfold testStart
  split <;> simp

@[simp] theorem testEnds_path (l : LineNo) (n : Nat) (f : FirstFault) (s : State) :
    (testEnds l n f s).path = s.path := by unfold testEnds; simp
@[simp] theorem testHeard_path (l : LineNo) (chars : List RawChar) (s : State) :
    (testHeard l chars s).path = s.path := by
  unfold testHeard
  dsimp only
  repeat' split
  all_goals simp

@[simp] theorem testWindow_path (l : LineNo) (chars : List RawChar) (s : State) :
    (testWindow l chars s).path = s.path := by
  unfold testWindow
  split <;> simp

/-! ## Reports -/

@[simp] theorem completionConsumerWrite_path (v : Word) (s : State) :
    (completionConsumerWrite v s).path = s.path := by
  unfold completionConsumerWrite
  split <;> simp

@[simp] theorem serviceConsumerWrite_path (v : Word) (s : State) :
    (serviceConsumerWrite v s).path = s.path := by
  unfold serviceConsumerWrite
  split <;> simp

@[simp] theorem journalConsumerWrite_path (v : Word) (s : State) :
    (journalConsumerWrite v s).path = s.path := by
  unfold journalConsumerWrite
  split <;> simp

@[simp] theorem commandProducerWrite_path (v : Word) (s : State) :
    (commandProducerWrite v s).path = s.path := by
  unfold commandProducerWrite
  repeat' split
  all_goals simp

@[simp] theorem clockLoad_path (v : Word) (s : State) : (clockLoad v s).path = s.path := rfl
@[simp] theorem clockMinute_path (s : State) : (clockMinute s).path = s.path := by
  unfold clockMinute
  split <;> simp

/-! ## Path -/

@[simp] theorem postedAnswer_path (q : Issued) (data : Option (List Word)) (s : State) :
    (postedAnswer q data s).path = s.path := by
  unfold postedAnswer
  split <;> simp

/-! ## Timers -/

@[simp] theorem calLimitExpired_path (i : Slot) (s : State) :
    (calLimitExpired i s).path = s.path := by
  unfold calLimitExpired
  split <;> simp

@[simp] theorem hygieneMinute_path (s : State) : (hygieneMinute s).path = s.path := by
  unfold hygieneMinute
  simp

@[simp] theorem switchLimitExpired_counters (i : Slot) (s : State) :
    (switchLimitExpired i s).path.counters = s.path.counters := by
  unfold switchLimitExpired
  split <;> simp

end Sys2Proof.Machine
end

section
/-! Sizes (R40, R49, R51, R62, R66, R131, R174): every row of the table keeps every queue, table and counter within its size. Owners' work
is covered by `Work`; what is proved here are the rows that begin a long command, and those of the path unit, of the report writer,
of start-up and of HRST. -/

namespace Sys2Proof.Machine

/-- The sizes of `State.QueuesFit`, each by its name. -/
structure State.Sized (s : State) : Prop where
  inflight : s.path.inflight.length ≤ 8
  issued   : s.path.issued.length ≤ 8
  posted   : s.path.posted.length ≤ 16
  bulk     : s.path.bulkCount ≤ 16
  proc     : s.path.procCount ≤ 16
  calls    : s.service.calls.length ≤ 32
  journal  : s.report.journal.length ≤ 8
  lines    : ∀ l : LineNo, (s.ln l).Fits
  start    : s.mode = .inReset ∨ s.mode = .startUp → s.path.posted = []

theorem State.queuesFit_iff (s : State) : s.QueuesFit ↔ s.Sized := by
  constructor
  · rintro ⟨inflight, issued, posted, bulk, proc, calls, journal, lines, start⟩
    exact ⟨inflight, issued, posted, bulk, proc, calls, journal, fun l => ⟨(lines l).1, (lines l).2⟩, start⟩
  · rintro ⟨inflight, issued, posted, bulk, proc, calls, journal, lines, start⟩
    exact ⟨inflight, issued, posted, bulk, proc, calls, journal, fun l => ⟨(lines l).size, (lines l).turn⟩, start⟩

/-! ## The same sizes -/

/-- A path unit with the same tables. -/
structure PathUnit.SameSizes (p q : PathUnit) : Prop where
  inflight : q.inflight = p.inflight
  issued   : q.issued = p.issued
  posted   : q.posted = p.posted
  counters : q.counters = p.counters

theorem PathUnit.SameSizes.refl (p : PathUnit) : p.SameSizes p := ⟨rfl, rfl, rfl, rfl⟩

theorem PathUnit.SameSizes.trans {p q r : PathUnit} (h : p.SameSizes q) (k : q.SameSizes r) : p.SameSizes r :=
  ⟨k.inflight.trans h.inflight, k.issued.trans h.issued, k.posted.trans h.posted, k.counters.trans h.counters⟩

theorem State.Sized.same {s t : State} (hs : s.Sized) (path : s.path.SameSizes t.path)
    (calls : t.service.calls = s.service.calls) (journal : t.report.journal = s.report.journal) (lines : t.lines = s.lines)
    (mode : t.mode = s.mode) : t.Sized := by
  obtain ⟨bulk, proc⟩ := Prod.mk.inj path.counters
  exact ⟨path.inflight ▸ hs.inflight, path.issued ▸ hs.issued, path.posted ▸ hs.posted, bulk ▸ hs.bulk, proc ▸ hs.proc,
    calls ▸ hs.calls, journal ▸ hs.journal, fun l => State.ln_congr lines l ▸ hs.lines l,
    fun h => path.posted ▸ hs.start (mode ▸ h)⟩

/-! ## Owners' work -/

theorem State.Sized.of_outer {s t : State} (hs : s.Sized) (outer : t.outer = s.outer)
    (counters : t.path.counters = s.path.counters) (calls : s.service.calls.length ≤ 32 → t.service.calls.length ≤ 32)
    (journal : s.report.journal.length ≤ 8 → t.report.journal.length ≤ 8)
    (lines : (∀ l : LineNo, (s.ln l).Fits) → ∀ l : LineNo, (t.ln l).Fits) : t.Sized := by
  have inflight : t.path.inflight = s.path.inflight := congrArg Outer.inflight outer
  have posted : t.path.posted = s.path.posted := congrArg Outer.posted outer
  have mode : t.mode = s.mode := congrArg Outer.mode outer
  have issued : t.path.issued.length = s.path.issued.length := by
    simpa [State.outer] using congrArg (fun o => o.issued.length) outer
  obtain ⟨bulk, proc⟩ := Prod.mk.inj counters
  exact ⟨inflight ▸ hs.inflight, issued ▸ hs.issued, posted ▸ hs.posted, bulk ▸ hs.bulk, proc ▸ hs.proc, calls hs.calls,
    journal hs.journal, lines hs.lines, fun h => posted ▸ hs.start (mode ▸ h)⟩

theorem Keeps.sized {s t : State} (h : Keeps s t) (hc : t.path.counters = s.path.counters) (hs : s.Sized) : t.Sized :=
  hs.of_outer h.outer hc h.calls h.journal h.urgent

theorem Work.sized {s t : State} (h : Work s t) (hc : t.path.counters = s.path.counters) (hs : s.Sized) : t.Sized :=
  h.keeps.sized hc hs

theorem makeClaims_path (s : State) : (makeClaims s).path = s.path := by
  unfold makeClaims
  dsimp only
  repeat' split
  all_goals simp

theorem settle_path (s : State) : (settle s).path = s.path := by
  unfold settle
  simp [makeClaims_path]

theorem State.Sized.settle {s : State} (hs : s.Sized) : (settle s).Sized :=
  (settle_keeps s).sized (by rw [settle_path]) hs

/-- A counter of a requester that does not ask returns to 0; nothing else of these sizes changes at the end of an event. -/
theorem State.Sized.finish {x : State} (hx : x.Sized) (s : State) : (finish s x).Sized := by
  have hr : (restCounters x).Sized :=
    ⟨hx.inflight, hx.issued, hx.posted, by show ite _ _ _ ≤ 16; split; exacts [hx.bulk, Nat.zero_le _],
      by show ite _ _ _ ≤ 16; split; exacts [hx.proc, Nat.zero_le _], hx.calls, hx.journal, hx.lines, hx.start⟩
  rcases finish_cases s x with ⟨_, h⟩ | ⟨_, h⟩ <;> rw [h]
  · exact ⟨hr.inflight, hr.issued, hr.posted, hr.bulk, hr.proc, hr.calls, hr.journal, hr.lines, hr.start⟩
  · exact hr

theorem State.Sized.plainEvent {s : State} (hs : s.Sized) {f : State → State} (hf : (f s).Sized) :
    (plainEvent f s).Sized := by
  unfold Machine.plainEvent
  split
  · exact hf.finish s
  · exact hs

theorem State.Sized.workEvent {s : State} (hs : s.Sized) {f : State → State} (hf : (f s).Sized) :
    (workEvent f s).Sized := by
  unfold Machine.workEvent
  split
  · exact hf.settle.finish s
  · exact hs

/-- The row of a line's or a timer's event, whose work leaves the path unit's counters alone. -/
theorem Work.plainEvent_sized {s : State} {f : State → State} (h : Work s (f s)) (hc : (f s).path.counters = s.path.counters)
    (hs : s.Sized) : (plainEvent f s).Sized := hs.plainEvent (h.sized hc hs)

theorem Work.workEvent_sized {s : State} {f : State → State} (h : Work s (f s)) (hc : (f s).path.counters = s.path.counters)
    (hs : s.Sized) : (workEvent f s).Sized := hs.workEvent (h.sized hc hs)

theorem State.Sized.whenRunning {s : State} (hs : s.Sized) (t : Timer) {f : State → State} (hf : (f s).Sized) :
    (whenRunning t f s).Sized := by
  unfold Machine.whenRunning
  split
  · exact hf
  · exact hs

/-! ## The commands of software -/

theorem State.Sized.oweCompletion {s : State} (hs : s.Sized) : (oweCompletion s).Sized :=
  hs.same (.refl _) rfl rfl rfl rfl

theorem State.Sized.startLong {s : State} (hs : s.Sized) (kind : Byte) (tag : Half) (o : LongObj) :
    (startLong kind tag o s).Sized :=
  hs.same (.refl _) rfl rfl rfl rfl

/-- Owners' work that a long command begins with. -/
theorem State.Sized.afterLong {s t : State} (hs : s.Sized) {kind : Byte} {tag : Half} {o : LongObj}
    (h : Work (Machine.startLong kind tag o s) t) (hc : t.path.counters = s.path.counters) : t.Sized :=
  h.sized hc (hs.startLong kind tag o)

theorem State.Sized.complete {s : State} (hs : s.Sized) (tag : Half) (kind : Byte) (r : ResultCode) (d1 d2 d3 : Word) :
    (complete tag kind r d1 d2 d3 s).Sized :=
  hs.same (.refl _) rfl rfl rfl rfl

theorem State.Sized.commandRow {s : State} (hs : s.Sized) {f : State → State} (hf : ∀ x : State, x.Sized → (f x).Sized) :
    (commandRow f s).Sized := by
  unfold Machine.commandRow
  split
  · exact (hf _ hs.oweCompletion).finish s
  · exact hs

theorem State.Sized.watchRow {s : State} (hs : s.Sized) {f : State → State} (hf : (f s).Sized) : (watchRow f s).Sized := by
  unfold Machine.watchRow
  split
  · exact hf.finish s
  · exact hs

theorem Work.beginCommission (kind : Byte) (i : Slot) (l : LineNo) (drop : Byte) (j : Job) (s : State) :
    Work (startLong kind j.tag (.oven i) s) (Machine.beginCommission kind i l drop j s) := by
  unfold Machine.beginCommission
  refine Work.sendAssign ?_ i _
  exact (Work.refl _).modEnt i _ (fun _ => .same rfl rfl rfl)

theorem State.Sized.beginCommission {s : State} (hs : s.Sized) (kind : Byte) (i : Slot) (l : LineNo) (drop : Byte) (j : Job) :
    (beginCommission kind i l drop j s).Sized :=
  hs.afterLong (Work.beginCommission kind i l drop j s) (by simp)

theorem State.Sized.commission {s : State} (hs : s.Sized) (tag : Half) (slot line drop : Byte) (serial : Word)
    (refLow refHigh : Half) : (commission tag slot line drop serial refLow refHigh s).Sized := by
  unfold Machine.commission
  dsimp only
  split
  · exact hs.complete ..
  · split
    · exact hs.complete ..
    · exact hs.beginCommission ..

theorem State.Sized.restore {s : State} (hs : s.Sized) (tag : Half) (slot line drop : Byte) (serial : Word) (cal : Cal)
    (minutes : Word) : (restore tag slot line drop serial cal minutes s).Sized := by
  unfold Machine.restore
  dsimp only
  repeat' split
  all_goals first | exact hs.complete .. | exact hs.beginCommission ..

theorem State.Sized.recalibrate {s : State} (hs : s.Sized) (tag : Half) (slot : Byte) (refLow refHigh : Half) :
    (recalibrate tag slot refLow refHigh s).Sized := by
  unfold Machine.recalibrate
  dsimp only
  repeat' split
  all_goals first | exact hs.complete .. | skip
  apply hs.afterLong
  · refine Work.enterCalibrating (Work.skipQueued ?_ _) _
    exact (Work.refl _).modEnt _ _ (fun _ => .same rfl rfl rfl)
  · simp

theorem State.Sized.lineTest {s : State} (hs : s.Sized) (tag : Half) (line : Byte) : (lineTest tag line s).Sized := by
  unfold Machine.lineTest
  dsimp only
  repeat' split
  all_goals first | exact hs.complete .. | skip
  exact hs.afterLong ((Work.refl _).modLn _ _ (fun _ => .same rfl rfl rfl)) (by simp)

theorem State.Sized.publish {s : State} (hs : s.Sized) (tag : Half) (recipe : Byte) : (publish tag recipe s).Sized := by
  unfold Machine.publish
  dsimp only
  repeat' split
  all_goals first | exact hs.complete .. | skip
  · apply hs.afterLong
    · refine Work.startEngine (Work.recipe ?_ _)
      exact (Work.refl _).modRslot _ _
    · simp
  · apply hs.afterLong
    · refine Work.recipe ?_ _
      exact (Work.refl _).modRslot _ _
    · simp

theorem State.Sized.cook {s : State} (hs : s.Sized) (tag : Half) (oven recipe : Byte) : (cook tag oven recipe s).Sized := by
  unfold Machine.cook
  dsimp only
  repeat' split
  all_goals first | exact hs.complete .. | skip
  exact hs.afterLong ((Work.refl _).beginStart _ _ _ _) (by simp)

theorem State.Sized.stageClose {s : State} (hs : s.Sized) (tag : Half) (length check : Word) :
    (stageClose tag length check s).Sized := by
  unfold Machine.stageClose
  dsimp only
  repeat' split
  all_goals first | exact hs.complete .. | skip
  apply hs.afterLong
  · refine Work.update ?_ _
    exact (Work.refl _).modImage _
  · simp

theorem State.Sized.rollout {s : State} (hs : s.Sized) (tag mask : Half) (downgrade : Byte) :
    (rollout tag mask downgrade s).Sized := by
  unfold Machine.rollout
  generalize slots = targets
  dsimp only
  repeat' split
  all_goals first | exact hs.complete .. | skip
  · apply hs.afterLong
    · refine Work.raiseEvent (Work.trans ?_ (Work.foldl _ (fun s i => (Work.refl s).modUpd i _) _ _)) _
      refine Work.modRollout ?_ _
      exact (Work.refl _).modImage _
    · rw [raiseEvent_path, foldl_path (fun _ _ => State.modUpd_path ..)]
      rfl
  · apply hs.afterLong
    · refine Work.trans ?_ (Work.foldl _ (fun s i => (Work.refl s).modUpd i _) _ _)
      refine Work.modRollout ?_ _
      exact (Work.refl _).modImage _
    · rw [foldl_path (fun _ _ => State.modUpd_path ..)]
      rfl

theorem openProfile_counters (tag : Half) (s : State) : (openProfile tag s).path.counters = s.path.counters := by
  unfold openProfile
  dsimp only
  split <;> rfl

theorem State.Sized.openProfile {s : State} (hs : s.Sized) (tag : Half) : (openProfile tag s).Sized :=
  ((Work.refl s).openProfile tag).sized (openProfile_counters tag s) hs

theorem State.Sized.route {s : State} (hs : s.Sized) (b : List Byte) : (route b s).Sized := by
  unfold Machine.route
  dsimp only
  split
  · exact hs.commission ..
  · exact hs.restore ..
  · exact (hs.recalibrate ..).settle
  · exact (Work.sized ((Work.refl s).retire _ _) (by simp) hs).settle
  · exact Work.sized ((Work.refl s).release _ _) (by simp) hs
  · exact hs.lineTest ..
  · exact hs.publish ..
  · exact Work.sized ((Work.refl s).withdraw _ _) (by simp) hs
  · exact (hs.cook ..).settle
  · exact Work.sized ((Work.refl s).abortCommand _ _) (by simp) hs
  · exact (Work.sized ((Work.refl s).clean _ _ _) (by simp) hs).settle
  · exact Work.sized ((Work.refl s).cancelClean _ _) (by simp) hs
  · exact Work.sized ((Work.refl s).ackCall _ _ _) (by simp) hs
  · exact Work.sized ((Work.refl s).closeCall _ _ _) (by simp) hs
  · exact hs.stageClose ..
  · exact (hs.rollout ..).settle
  · exact (Work.sized ((Work.refl s).rolloutHalt _) (by simp) hs).settle
  · exact hs.openProfile _
  · exact hs.complete ..

/-! ## The watched words -/

theorem State.Sized.fetchBegin {s : State} (hs : s.Sized) : (fetchBegin s).Sized := by
  unfold Machine.fetchBegin
  split
  · exact hs.same (.refl _) rfl rfl rfl rfl
  · exact hs

theorem State.Sized.raiseEvent {s : State} (hs : s.Sized) (e : Event) : (raiseEvent e s).Sized :=
  ((Work.refl s).raiseEvent e).sized (by simp) hs

/-- What the event acknowledge word, the ring words and the site clock change has no size, nor have the rewrite list and the rings. -/
theorem State.Sized.withReport {s : State} (hs : s.Sized) (r : ReportWriter) (h : r.journal = s.report.journal) :
    ({ s with report := r } : State).Sized :=
  hs.same (.refl _) rfl h rfl rfl

theorem State.Sized.withCommand {s : State} (hs : s.Sized) (c : CommandUnit) : ({ s with command := c } : State).Sized :=
  hs.same (.refl _) rfl rfl rfl rfl

theorem State.Sized.withPath {s : State} (hs : s.Sized) {p : PathUnit} (h : s.path.SameSizes p) :
    ({ s with path := p } : State).Sized := hs.same h rfl rfl rfl rfl

theorem State.Sized.setCaptures {s : State} (hs : s.Sized) {p : PathUnit} (h : s.path.SameSizes p) :
    (setCaptures p s).Sized := by
  rw [setCaptures_eq]
  exact (hs.withPath h).withReport _ rfl

theorem clearCaptures_sameSizes (k : BitVec 11) (p : PathUnit) : p.SameSizes (clearCaptures k p) := by
  unfold clearCaptures
  dsimp only
  split <;> split <;> exact ⟨rfl, rfl, rfl, rfl⟩

theorem State.Sized.eventAcknowledge {s : State} (hs : s.Sized) (v : Word) : (eventAcknowledge v s).Sized := by
  have h := hs.setCaptures (clearCaptures_sameSizes (ackedKinds v) s.path)
  exact ⟨h.inflight, h.issued, h.posted, h.bulk, h.proc, hs.calls, h.journal, h.lines, h.start⟩

theorem State.Sized.commandProducerWrite {s : State} (hs : s.Sized) (v : Word) : (commandProducerWrite v s).Sized := by
  unfold Machine.commandProducerWrite
  split
  · exact hs
  · split
    · exact (hs.withCommand _).fetchBegin
    · exact (hs.withCommand _).raiseEvent _

theorem State.Sized.completionConsumerWrite {s : State} (hs : s.Sized) (v : Word) : (completionConsumerWrite v s).Sized := by
  unfold Machine.completionConsumerWrite
  split
  · refine State.Sized.fetchBegin ?_
    exact hs.withReport _ rfl
  · exact hs.raiseEvent _

theorem State.Sized.serviceConsumerWrite {s : State} (hs : s.Sized) (v : Word) : (serviceConsumerWrite v s).Sized := by
  unfold Machine.serviceConsumerWrite
  split
  · exact hs.withReport _ rfl
  · exact hs.raiseEvent _

theorem State.Sized.journalConsumerWrite {s : State} (hs : s.Sized) (v : Word) : (journalConsumerWrite v s).Sized := by
  unfold Machine.journalConsumerWrite
  split
  · exact hs.withReport _ rfl
  · exact hs.raiseEvent _

theorem State.Sized.clockLoad {s : State} (hs : s.Sized) (v : Word) : (clockLoad v s).Sized := hs.withReport _ rfl

theorem State.Sized.clockMinute {s : State} (hs : s.Sized) : (clockMinute s).Sized := by
  unfold Machine.clockMinute
  split
  · exact hs.withReport _ rfl
  · exact hs

theorem State.Sized.watchedWrite {s : State} (hs : s.Sized) (k : Nat) (v : Word) : (watchedWrite k v s).Sized := by
  unfold Machine.watchedWrite
  split
  · exact hs.commandProducerWrite v
  · exact hs.completionConsumerWrite v
  · exact hs.serviceConsumerWrite v
  · exact hs.journalConsumerWrite v
  · exact hs.eventAcknowledge v
  · exact hs.clockLoad v
  · exact hs

theorem State.Sized.fetchAnswer {s : State} (hs : s.Sized) (data : Option (List Word)) : (fetchAnswer data s).Sized := by
  cases data with
  | none => exact hs.withCommand _
  | some ws =>
    refine State.Sized.fetchBegin (State.Sized.route (State.Sized.oweCompletion ?_) _)
    exact hs.withCommand _

/-! ## The processor side (R49, R50, R53) -/

theorem raiseGuard_sameSizes (a : Word) (s : State) : s.path.SameSizes (raiseGuard a s).path := by
  unfold raiseGuard
  rw [raiseEvent_path, setCaptures_eq]
  exact ⟨rfl, rfl, rfl, rfl⟩

theorem State.Sized.raiseGuard {s : State} (hs : s.Sized) (a : Word) : (raiseGuard a s).Sized := by
  refine State.Sized.raiseEvent ?_ .guard
  exact hs.setCaptures ⟨rfl, rfl, rfl, rfl⟩

theorem decideHeads_length (l : List InFlight) : ∀ s : State, (decideHeads s l).2.length = l.length := by
  induction l with
  | nil => exact fun _ => rfl
  | cons e t ih =>
    intro s
    unfold decideHeads
    repeat' split
    all_goals simp [ih]

theorem decideHeads_sameSizes (l : List InFlight) : ∀ s : State, s.path.SameSizes (decideHeads s l).1.path := by
  induction l with
  | nil => exact fun s => .refl _
  | cons e t ih =>
    intro s
    unfold decideHeads
    split
    · split
      · exact (raiseGuard_sameSizes _ s).trans (ih _)
      · exact .refl _
      · exact .refl _
    · exact .refl _
    · exact .refl _
    · exact ih s
    · exact ih s

theorem decideHeads_sized (l : List InFlight) : ∀ s : State, s.Sized → (decideHeads s l).1.Sized := by
  induction l with
  | nil => exact fun _ => id
  | cons e t ih =>
    intro s hs
    unfold decideHeads
    split
    · split
      · exact ih _ (hs.raiseGuard _)
      · exact hs
      · exact hs
    · exact hs
    · exact hs
    · exact ih s hs
    · exact ih s hs

theorem deliverAnswered_length (l : List InFlight) : (deliverAnswered l).2.length ≤ l.length := by
  induction l with
  | nil => exact Nat.le_refl _
  | cons e t ih =>
    unfold deliverAnswered
    split
    · exact Nat.le_succ_of_le ih
    · exact Nat.le_refl _

theorem settlePort_issued (s : State) : (settlePort s).path.issued = s.path.issued :=
  (decideHeads_sameSizes s.path.inflight s).issued

theorem State.Sized.withInflight {s : State} (hs : s.Sized) {l : List InFlight} (h : l.length ≤ 8) (r : List Response) :
    ({ s with path := { s.path with inflight := l, responses := r } } : State).Sized :=
  ⟨h, hs.issued, hs.posted, hs.bulk, hs.proc, hs.calls, hs.journal, hs.lines, hs.start⟩

theorem State.Sized.settlePort {s : State} (hs : s.Sized) : (settlePort s).Sized := by
  refine (decideHeads_sized s.path.inflight s hs).withInflight ?_ _
  calc (deliverAnswered (decideHeads s s.path.inflight).2).2.length
      ≤ (decideHeads s s.path.inflight).2.length := deliverAnswered_length _
    _ = s.path.inflight.length := decideHeads_length _ _
    _ ≤ 8 := hs.inflight

theorem State.Sized.modInflight {s : State} (hs : s.Sized) {f : List InFlight → List InFlight}
    (hf : ∀ l, (f l).length = l.length) : (s.modInflight f).Sized :=
  ⟨by show (f _).length ≤ 8; rw [hf]; exact hs.inflight, hs.issued, hs.posted, hs.bulk, hs.proc, hs.calls, hs.journal, hs.lines,
    hs.start⟩

theorem mapHead_length (f : InFlight → InFlight) (l : List InFlight) : (mapHead f l).length = l.length := by
  induction l with
  | nil => rfl
  | cons e t ih => unfold mapHead; split <;> simp [ih]

theorem markAnswered_length (data : Option (List Word)) (l : List InFlight) : (markAnswered data l).length = l.length := by
  induction l with
  | nil => rfl
  | cons e t ih => unfold markAnswered; split <;> simp [ih]

theorem State.Sized.retestHeld {s : State} (hs : s.Sized) : (retestHeld s).Sized := hs.modInflight fun _ => by simp

theorem State.Sized.processorRequest {s : State} (hs : s.Sized) (r : ProcRequest) : (processorRequest r s).Sized := by
  unfold Machine.processorRequest
  split
  · next hr =>
    have room : s.path.inflight.length < 8 := by
      simp only [State.portReady, Config.inflightMax, Bool.and_eq_true] at hr
      exact of_decide_eq_true hr.2
    refine State.Sized.settlePort ?_
    exact hs.withInflight (by simp; omega) s.path.responses
  · exact hs

theorem State.Sized.processorAnswer {s : State} (hs : s.Sized) (data : Option (List Word)) : (processorAnswer data s).Sized :=
  (hs.modInflight (markAnswered_length data)).settlePort

/-! ## The arbiter (R63-R66) -/

theorem bump_le {asking : Bool} {n : Nat} (h : n ≤ 16) : bump asking n ≤ 16 := by
  unfold bump
  split
  · exact Nat.min_le_left _ _
  · exact h

theorem State.Sized.withCounters {s : State} (hs : s.Sized) {bulk proc : Nat} (hb : bulk ≤ 16) (hp : proc ≤ 16) (m : ArbMode)
    (next : Fin 7) :
    ({ s with path := { s.path with bulkCount := bulk, procCount := proc, arbMode := m, bulkNext := next } } : State).Sized :=
  ⟨hs.inflight, hs.issued, hs.posted, hb, hp, hs.calls, hs.journal, hs.lines, hs.start⟩

/-- R51: a request is issued where the memory port has room for it. -/
theorem State.Sized.issueRequest {s : State} (hs : s.Sized) (room : s.path.issued.length < 8) (o : IssueOwner) (r : MemRequest) :
    (issueRequest o r s).Sized :=
  ⟨hs.inflight, by show (_ ++ [_]).length ≤ 8; simp; omega, hs.posted, hs.bulk, hs.proc, hs.calls, hs.journal, hs.lines, hs.start⟩

theorem State.Sized.watchIssue {s : State} (hs : s.Sized) (r : MemRequest) : (watchIssue r s).Sized := by
  have one (s : State) (hs : s.Sized) (p) : (watchOne s p).Sized := by
    unfold watchOne
    split
    · split
      · exact hs.watchedWrite _ _
      · exact hs
    · exact hs
  have all (l : List (Nat × Word × BitVec 4)) : ∀ s : State, s.Sized → (l.foldl watchOne s).Sized := by
    induction l with
    | nil => exact fun _ => id
    | cons p t ih => exact fun s hs => ih _ (one s hs p)
  unfold Machine.watchIssue
  split
  · split
    · exact hs
    · split
      · exact all _ s hs
      · split
        · exact ((Work.refl s).draftWritten _).sized (by simp) hs
        · exact hs
      · exact ((Work.refl s).modImage _).sized rfl hs
      · exact hs
  · exact hs

theorem State.Sized.signalSummary {s : State} (hs : s.Sized) (w : PostedWrite) : (signalSummary w s).Sized := by
  unfold Machine.signalSummary
  split
  · exact hs.withReport _ rfl
  · exact hs

theorem State.Sized.openPort {s : State} (hs : s.Sized) (w : PostedWrite) : (openPort w s).Sized := by
  unfold Machine.openPort
  split
  · exact hs.same ⟨rfl, rfl, rfl, rfl⟩ rfl rfl rfl rfl
  · exact hs

theorem State.Sized.grantPosted {s : State} (hs : s.Sized) (room : s.path.issued.length < 8) (counted : Bool) :
    (grantPosted counted s).Sized := by
  unfold Machine.grantPosted
  split
  · exact hs
  · next w rest hw =>
    have hl : rest.length + 1 ≤ 16 := by simpa [hw] using hs.posted
    refine State.Sized.settlePort (State.Sized.retestHeld (State.Sized.openPort (State.Sized.signalSummary
      (State.Sized.issueRequest ?_ ?_ _ _) _) _))
    · exact ⟨hs.inflight, hs.issued, Nat.le_of_succ_le hl, bump_le hs.bulk, bump_le hs.proc, hs.calls, hs.journal, hs.lines,
        fun hm => by have := hs.start hm; rw [hw] at this; cases this⟩
    · exact room

theorem State.Sized.clientIssued {s : State} (hs : s.Sized) (o : IssueOwner) : (clientIssued o s).Sized := by
  unfold Machine.clientIssued
  split
  · exact hs.withCommand _
  · exact ((Work.refl s).recipe _).sized rfl hs
  · next l =>
    refine ⟨hs.inflight, hs.issued, hs.posted, hs.bulk, hs.proc, hs.calls, hs.journal, fun k => ?_, hs.start⟩
    rw [State.ln_modLn]
    split
    · exact (hs.lines l).same rfl rfl
    · exact hs.lines k
  · exact ((Work.refl s).update _).sized rfl hs
  · exact ((Work.refl s).update _).sized rfl hs
  · exact hs

theorem clientIssued_path (o : IssueOwner) (s : State) : (clientIssued o s).path = s.path := by cases o <;> rfl

theorem State.Sized.grantBulk {s : State} (hs : s.Sized) (room : s.path.issued.length < 8) (counted : Bool) :
    (grantBulk counted s).Sized := by
  unfold Machine.grantBulk
  split
  · exact hs
  · split
    · exact hs
    · refine State.Sized.issueRequest (State.Sized.clientIssued ?_ _) ?_ _ _
      · exact hs.withCounters (Nat.zero_le _) (bump_le hs.proc) s.path.arbMode _
      · rw [clientIssued_path]; exact room

theorem State.Sized.restCounters {s : State} (hs : s.Sized) : (restCounters s).Sized :=
  hs.withCounters (by split; exacts [hs.bulk, Nat.zero_le _]) (by split; exacts [hs.proc, Nat.zero_le _]) s.path.arbMode
    s.path.bulkNext

theorem State.Sized.grantOther {s : State} (hs : s.Sized) (room : s.path.issued.length < 8) : (grantOther s).Sized := by
  unfold Machine.grantOther
  dsimp only
  split
  · exact hs.restCounters.grantBulk room false
  · exact hs.restCounters.grantPosted room false

theorem State.Sized.grantProc {s : State} (hs : s.Sized) (room : s.path.issued.length < 8) : (grantProc s).Sized := by
  have answered : (s.modInflight (mapHead fun e => e.answer false [])).Sized := hs.modInflight (mapHead_length _)
  unfold Machine.grantProc
  split
  · exact hs
  · next e _ =>
    dsimp only
    split
    · refine State.Sized.settlePort (State.Sized.watchIssue (State.Sized.issueRequest ?_ ?_ _ _) _)
      · exact (hs.modInflight (mapHead_length _)).withCounters (bump_le hs.bulk) (Nat.zero_le _) s.path.arbMode s.path.bulkNext
      · exact room
    · exact (hs.modInflight (mapHead_length _)).grantOther room
    · refine State.Sized.grantOther (answered.raiseGuard _).settlePort ?_
      rw [settlePort_issued, if_pos rfl, (raiseGuard_sameSizes _ _).issued]; exact room
    · refine State.Sized.grantOther (answered.raiseEvent _).settlePort ?_
      rw [settlePort_issued, if_neg (by decide), raiseEvent_path]; exact room

theorem State.Sized.arbiterGrant {s : State} (hs : s.Sized) : (arbiterGrant s).Sized := by
  unfold Machine.arbiterGrant
  split
  · exact hs
  · next hr =>
    have room : s.path.issued.length < 8 := Nat.lt_of_not_le hr
    split
    · exact hs
    · exact hs.grantProc room
    · exact hs.grantPosted room _
    · exact hs.grantBulk room _

/-! ## Memory's answers (R51, R67) -/

theorem setCaptures_path (p : PathUnit) (s : State) : (setCaptures p s).path = p := by rw [setCaptures_eq]

theorem setCapture_sameSizes (p : PathUnit) (k : FaultCapture) (c : Capture) : p.SameSizes (p.setCapture k c) := by
  cases k <;> exact ⟨rfl, rfl, rfl, rfl⟩

theorem offerOf_sameSizes (q : Issued) (s : State) : s.path.SameSizes (offerOf q s).path := by
  unfold offerOf offerFault
  split
  · dsimp only
    split
    · rw [setCaptures_path]; exact setCapture_sameSizes ..
    · rw [raiseEvent_path, setCaptures_path]; exact setCapture_sameSizes ..
  · exact .refl _

theorem State.Sized.offerOf {s : State} (hs : s.Sized) (q : Issued) : (offerOf q s).Sized := by
  unfold Machine.offerOf
  split
  · next k _ =>
    have hc : (Machine.setCaptures (s.path.setCapture k ((s.path.capture k).offer q.req.addr)) s).Sized :=
      hs.setCaptures (setCapture_sameSizes ..)
    unfold offerFault
    dsimp only
    split
    · exact hc
    · exact hc.raiseEvent _
  · exact hs

/-- An answer frees its place in the memory port before its owner takes it. -/
theorem takeAnswer_sized {own : IssueOwner → Bool} {a : MemAnswer} {f : Issued → Option (List Word) → State → State} {s t : State}
    (hf : ∀ (q : Issued) (d : Option (List Word)) (x : State), x.Sized → x.path.issued.length < 8 → (f q d x).Sized)
    (hs : s.Sized) (h : takeAnswer own a f s = .next t) : t.Sized := by
  unfold takeAnswer at h
  split at h
  · cases h
    split
    · exact hs.same (.refl _) rfl rfl rfl rfl
    · exact hs
  · cases h; exact hs
  · next q rest _ hi =>
    have room : rest.length + 1 ≤ 8 := by simpa [hi] using hs.issued
    have answered : ({ s with path := { s.path with issued := rest } } : State).Sized :=
      ⟨hs.inflight, Nat.le_of_succ_le room, hs.posted, hs.bulk, hs.proc, hs.calls, hs.journal, hs.lines, hs.start⟩
    split at h
    · cases h; exact hs
    · dsimp only at h
      split at h
      · have offered := answered.offerOf q
        have left := (offerOf_sameSizes q { s with path := { s.path with issued := rest } }).issued
        cases h
        split
        · exact offered.finish s
        · exact (hf _ _ _ offered (by rw [left]; exact room)).finish s
      · split at h
        · cases h; exact answered.finish s
        · split at h
          · cases h; exact (hf _ _ _ answered room).finish s
          · cases h

theorem State.Sized.settled {s : State} {f : State → State} (hf : (f s).Sized) : (settled f s).Sized := by
  unfold Machine.settled
  split
  · exact hf.settle
  · exact hf

theorem State.Sized.fillAnswer {s : State} (hs : s.Sized) (l : LineNo) (data : Option (List Word)) :
    (fillAnswer l data s).Sized := by
  have h := (Mends.fillAnswer ((Work.refl s).near l) data).near
  exact hs.of_outer h.outer (by simp) h.calls h.journal h.urgent

theorem State.Sized.blockTaken {s : State} (hs : s.Sized) (q : Issued) (data : Option (List Word)) :
    (blockTaken q data s).Sized := by
  unfold Machine.blockTaken
  split
  · exact State.Sized.settled (((Work.refl s).blockAnswer _ _).sized (by simp) hs)
  · exact hs

/-! ## The posted-write queue (R62, R178) -/

/-- Outside reset and start-up the queue may hold entries, up to its size. -/
theorem State.Sized.postWrite {s : State} (hs : s.Sized) (w : PostedWrite) (room : s.path.posted.length < 16)
    (hm : ¬(s.mode = .inReset ∨ s.mode = .startUp)) : (postWrite w s).Sized :=
  ⟨hs.inflight, hs.issued, by show (_ ++ [_]).length ≤ 16; simp; omega, hs.bulk, hs.proc, hs.calls, hs.journal, hs.lines,
    fun h => absurd h hm⟩

theorem State.Sized.postAll (l : List PostedWrite) : ∀ {s : State}, s.Sized → s.path.posted.length + l.length ≤ 16 →
    ¬(s.mode = .inReset ∨ s.mode = .startUp) → (postAll l s).Sized := by
  induction l with
  | nil => exact fun hs _ _ => hs
  | cons w t ih =>
    intro s hs room hm
    simp only [List.length_cons] at room
    refine ih (hs.postWrite w (by omega) hm) ?_ hm
    show (s.path.posted ++ [w]).length + t.length ≤ 16
    simp; omega

theorem postAll_posted (l : List PostedWrite) : ∀ s : State, (postAll l s).path.posted = s.path.posted ++ l := by
  induction l with
  | nil => exact fun s => (List.append_nil _).symm
  | cons w t ih => exact fun s => (ih (Machine.postWrite w s)).trans (List.append_assoc _ [w] t)

theorem postAll_mode (l : List PostedWrite) : ∀ s : State, (postAll l s).mode = s.mode := by
  induction l with
  | nil => exact fun _ => rfl
  | cons w t ih => exact fun s => ih (Machine.postWrite w s)

theorem burstsAt_length (kind : RecordKind) (n : Nat) :
    ∀ (a : Word) (ws : List Word), (burstsAt kind n a ws).length ≤ min n ((ws.length + 7) / 8) := by
  induction n with
  | zero => exact fun _ _ => by simp [burstsAt]
  | succ n ih =>
    intro a ws
    unfold burstsAt
    cases ws with
    | nil => simp
    | cons w t =>
      have := ih (a + 32) ((w :: t).drop 8)
      simp only [List.length_drop, List.length_cons] at this
      simp only [List.isEmpty_cons, Bool.false_eq_true, if_false, List.length_cons]
      omega

/-- R176: a record is posted in bursts of its words and two writes of its change count. -/
theorem recordWrites_length (a n : Word) (body : List Byte) :
    (recordWrites a n body).length ≤ min 4 (((wordsOf body).length + 7) / 8) + 2 := by
  have := burstsAt_length .mirror 4 (a + 4) (wordsOf body)
  simp only [recordWrites, List.length_cons, List.length_append, List.length_nil]
  omega

theorem wordsOf_length : ∀ b : List Byte, (wordsOf b).length = b.length / 4
  | [] => rfl
  | [a] => by simp [wordsOf]
  | [a, b] => by simp [wordsOf]
  | [a, b, c] => by simp [wordsOf]
  | _ :: _ :: _ :: _ :: t => by
    have := wordsOf_length t
    simp only [wordsOf, List.length_cons]
    omega

@[simp] theorem length_le16 (h : Half) : (le16 h).length = 2 := rfl
@[simp] theorem length_le32 (w : Word) : (le32 w).length = 4 := rfl
@[simp] theorem length_zeros (n : Nat) : (zeros n).length = n := List.length_replicate
@[simp] theorem length_calBytes (c : Cal) : c.bytes.length = 8 := rfl
@[simp] theorem length_dirBytes (d : List DirEntry) : (dirBytes d).length = 8 := by simp [dirBytes]

/-- Bytes 4-63 of the oven record (11 §11.4). -/
theorem ovenBytes_length (s : State) (i : Slot) : (s.ovenBytes i).length = 60 := by
  unfold State.ovenBytes
  dsimp only
  generalize (s.ent i).identity = d, (s.ent i).correctedTemps = t, (s.ent i).cook = k, (s.ent i).cal = c
  cases d <;> cases t <;> cases k <;> cases c <;> simp

theorem State.Sized.postCompletion {s : State} (hs : s.Sized) (c : Completion) (room : s.path.posted.length < 16)
    (hm : ¬(s.mode = .inReset ∨ s.mode = .startUp)) : (postCompletion c s).Sized := by
  refine State.Sized.fetchBegin (State.Sized.raiseEvent ?_ _)
  exact (hs.postWrite { addr := ringAddr s.profile.completion s.report.complProd 16, data := c.words, kind := .completion }
    room hm).same (.refl _) rfl rfl rfl rfl

theorem State.Sized.postCall {s : State} (hs : s.Sized) (c : Call) (room : s.path.posted.length < 16)
    (hm : ¬(s.mode = .inReset ∨ s.mode = .startUp)) : (postCall c s).Sized := by
  refine State.Sized.raiseEvent ?_ _
  have hp := hs.postWrite { addr := ringAddr s.profile.service s.report.svcProd 32, data := c.words, kind := .service } room hm
  exact ⟨hp.inflight, hp.issued, hp.posted, hp.bulk, hp.proc, by simpa using hp.calls, hp.journal, hp.lines, hp.start⟩

theorem State.Sized.postJournal {s : State} (hs : s.Sized) (j : JournalRec) (room : s.path.posted.length < 16)
    (hm : ¬(s.mode = .inReset ∨ s.mode = .startUp)) : (postJournal j s).Sized := by
  refine State.Sized.raiseEvent ?_ _
  have hp := hs.postWrite { addr := ringAddr s.profile.journal s.report.jrnProd 32, data := j.words, kind := .journal } room hm
  exact ⟨hp.inflight, hp.issued, hp.posted, hp.bulk, hp.proc, hp.calls,
    Nat.le_trans (by simp) hp.journal, hp.lines, hp.start⟩

theorem State.Sized.postOven {s : State} (hs : s.Sized) (i : Slot) (room : s.path.posted.length + 4 ≤ 16)
    (hm : ¬(s.mode = .inReset ∨ s.mode = .startUp)) : (postOven i s).Sized := by
  have hl := recordWrites_length (s.ovenAddr i) s.report.ovenCounts[i] (s.ovenBytes i)
  rw [wordsOf_length, ovenBytes_length] at hl
  have posted := State.Sized.postAll (recordWrites (s.ovenAddr i) s.report.ovenCounts[i] (s.ovenBytes i)) hs (by omega) hm
  unfold Machine.postOven
  dsimp only
  generalize Machine.postAll _ _ = x at posted ⊢
  exact posted.same (.refl _) rfl rfl rfl rfl

theorem State.Sized.postSite {s : State} (hs : s.Sized) (room : s.path.posted.length + 6 ≤ 16)
    (hm : ¬(s.mode = .inReset ∨ s.mode = .startUp)) : (postSite s).Sized := by
  have hl := recordWrites_length s.siteAddr s.report.siteCount s.siteBytes
  have posted := State.Sized.postAll (recordWrites s.siteAddr s.report.siteCount s.siteBytes) hs (by omega) hm
  unfold Machine.postSite
  dsimp only
  generalize Machine.postAll _ _ = x at posted ⊢
  exact posted.same (.refl _) rfl rfl rfl rfl

theorem State.Sized.postSummary {s : State} (hs : s.Sized) (room : s.path.posted.length < 16)
    (hm : ¬(s.mode = .inReset ∨ s.mode = .startUp)) : (postSummary s).Sized := by
  have hp := hs.postWrite { addr := s.profile.summary, data := [summaryWord s.report.pendingSet s.report.overrunSet],
                            kind := .summary } room hm
  exact hp.same (.refl _) rfl rfl rfl rfl

/-- R62, R178: what the report writer serves has room in the queue. -/
theorem served_room {s : State} {p : Producer} (h : s.served = some p) :
    s.mode = .running ∧ s.path.posted.length < 16 ∧
      (∀ i, p = .oven i → s.path.posted.length + 4 ≤ 16) ∧ (p = .site → s.path.posted.length + 6 ≤ 16) := by
  have rewrite (hr : s.rewriteReady = some p) :
      (∀ i, p = .oven i → s.path.posted.length + 4 ≤ 16) ∧ (p = .site → s.path.posted.length + 6 ≤ 16) := by
    unfold State.rewriteReady at hr
    split at hr
    · cases hr
    · next x _ _ =>
      split at hr
      · next room =>
        cases hr
        cases x
        · exact ⟨fun _ _ => room, nofun⟩
        · exact ⟨nofun, fun _ => room⟩
        · exact ⟨nofun, nofun⟩
      · cases hr
  unfold State.served at h
  split at h
  · cases h
  · next hc =>
    simp only [State.running, Config.postedMax, Bool.not_eq_true', beq_eq_false_iff_ne, not_or, Decidable.not_not,
      Nat.not_le] at hc
    refine ⟨hc.1, hc.2, ?_⟩
    split at h
    · split at h
      · exact rewrite h
      · cases h
    · simp only [Option.or_eq_some_iff, Option.map_eq_some_iff] at h
      rcases h with ⟨_, _, rfl⟩ | ⟨_, ⟨_, _, rfl⟩ | ⟨_, ⟨_, _, rfl⟩ | ⟨_, hr⟩⟩⟩
      · exact ⟨nofun, nofun⟩
      · exact ⟨nofun, nofun⟩
      · exact ⟨nofun, nofun⟩
      · exact rewrite hr

/-! ## Start-up (R187-R190) -/

theorem State.Sized.lineAtStart (r : Option Rate) : (lineAtStart r).Fits := by
  cases r <;> exact ⟨Nat.zero_le _, fun _ => rfl⟩

theorem State.Sized.enterRunning {s : State} (hs : s.Sized) (b : List Byte) : (enterRunning b s).Sized :=
  ⟨hs.inflight, hs.issued, hs.posted, hs.bulk, hs.proc, hs.calls, hs.journal,
    fun l => by simpa [Machine.enterRunning, State.ln] using State.Sized.lineAtStart _,
    fun h => by rcases h with h | h <;> cases h⟩

/-- R190: the diagnostic write finds the queue empty. -/
theorem State.Sized.postDiagnostic {s : State} (hs : s.Sized) (hp : s.path.posted = []) (b : List Byte)
    (hm : ¬(s.mode = .inReset ∨ s.mode = .startUp)) : (postDiagnostic b s).Sized := by
  have marked : ({ s with
      report := { s.report with pendingSet := eventBit .profileBad, siteCount := 2 }, startWrites := true } : State).Sized :=
    hs.same (.refl _) rfl rfl rfl rfl
  have site (x : State) (hx : x.Sized) (hp : x.path.posted = []) (hm : ¬(x.mode = .inReset ∨ x.mode = .startUp))
      (w : PostedWrite) (a : Word) (body : List Byte) :
      (Machine.postWrite w (Machine.postAll (recordWrites a 0 body) x)).Sized := by
    have hl := recordWrites_length a 0 body
    have hn : x.path.posted.length = 0 := by rw [hp]; rfl
    refine (State.Sized.postAll _ hx (by omega) hm).postWrite w ?_ (by rw [postAll_mode]; exact hm)
    rw [postAll_posted, List.length_append]
    omega
  unfold Machine.postDiagnostic
  dsimp only
  exact site _ marked hp hm _ _ _

theorem State.Sized.enterPassOnly {s : State} (hs : s.Sized) (hp : s.path.posted = []) (b : List Byte) (code : Byte) (off : Half) :
    (enterPassOnly b code off s).Sized := by
  have hm : ¬((passOnlyState code off s).mode = .inReset ∨ (passOnlyState code off s).mode = .startUp) := by
    rintro (h | h) <;> cases h
  have passed : (passOnlyState code off s).Sized :=
    ⟨hs.inflight, hs.issued, hs.posted, hs.bulk, hs.proc, hs.calls, hs.journal, hs.lines, fun h => absurd h hm⟩
  unfold Machine.enterPassOnly
  dsimp only
  split
  · exact passed.postDiagnostic hp b hm
  · exact passed.withPath ⟨rfl, rfl, rfl, rfl⟩

theorem State.Sized.disregardIssued {s : State} (hs : s.Sized) (p : IssueOwner → Bool) : (disregardIssued p s).Sized :=
  ⟨hs.inflight, by simpa [Machine.disregardIssued] using hs.issued, hs.posted, hs.bulk, hs.proc, hs.calls, hs.journal, hs.lines,
    hs.start⟩

theorem State.Sized.issueProfileRead {s : State} (hs : s.Sized) : (issueProfileRead s).Sized := by
  unfold Machine.issueProfileRead
  split
  · next h => exact (hs.issueRequest h.2 _ _).same (.refl _) rfl rfl rfl rfl
  · exact hs

theorem State.Sized.issueProfileReads (n : Nat) : ∀ {s : State}, s.Sized → (issueProfileReads n s).Sized := by
  induction n with
  | zero => exact id
  | succ n ih => exact fun hs => ih hs.issueProfileRead

theorem issueProfileRead_posted (s : State) : (issueProfileRead s).path.posted = s.path.posted := by
  unfold issueProfileRead
  split <;> rfl

theorem State.Sized.judgeProfile {s : State} (hs : s.Sized) (hp : s.path.posted = []) (b : List Byte) :
    (judgeProfile b s).Sized := by
  unfold Machine.judgeProfile
  split
  · exact hs.enterRunning b
  · exact hs.enterPassOnly hp ..

theorem State.Sized.startUpAnswer {s : State} (hs : s.Sized) (data : Option (List Word)) : (startUpAnswer data s).Sized := by
  unfold Machine.startUpAnswer
  split
  · next hm =>
    have hp : s.path.posted = [] := hs.start (.inr hm)
    cases data with
    | none => exact (hs.disregardIssued (fun o => o == .profile)).enterPassOnly hp [] 16 _
    | some ws =>
      have kept : ({ s with startBytes := s.startBytes ++ bytesOf ws } : State).Sized := hs.same (.refl _) rfl rfl rfl rfl
      unfold profileAnswer
      dsimp only
      split
      · exact kept.issueProfileRead
      · exact kept.issueProfileRead.judgeProfile (by rw [issueProfileRead_posted]; exact hp) _
  · exact hs

/-! ## RESET and HRST (R185, R183, R184) -/

theorem State.Sized.reset : State.reset.Sized :=
  ⟨Nat.zero_le _, Nat.zero_le _, Nat.zero_le _, Nat.zero_le _, Nat.zero_le _, Nat.zero_le _, Nat.zero_le _,
    fun l => by simp [State.reset, State.ln, Line.reset]; exact ⟨Nat.zero_le _, fun _ => rfl⟩, fun _ => rfl⟩

theorem State.Sized.resetRelease {s : State} (hs : s.Sized) (h : s.mode = .inReset) (a : Word) :
    ({ s with mode := .startUp, profileAddr := a } : State).Sized :=
  ⟨hs.inflight, hs.issued, hs.posted, hs.bulk, hs.proc, hs.calls, hs.journal, hs.lines, fun _ => hs.start (.inl h)⟩

theorem State.Sized.dropInflight {s : State} (hs : s.Sized) : (dropInflight s).Sized := by
  refine State.Sized.disregardIssued ?_ _
  exact ⟨Nat.zero_le _, hs.issued, hs.posted, hs.bulk, Nat.zero_le _, hs.calls, hs.journal, hs.lines, hs.start⟩

theorem State.Sized.hostRestart {s : State} (hs : s.Sized) : (hostRestart s).Sized :=
  (hs.dropInflight.disregardIssued (fun o => o == .command)).same (.refl _) rfl rfl rfl rfl

theorem State.Sized.hostResume {s : State} (hs : s.Sized) : (hostResume s).Sized :=
  ⟨hs.inflight, hs.issued, hs.posted, hs.bulk, hs.proc, by simpa [Machine.hostResume, unpostAll] using hs.calls, hs.journal,
    hs.lines, hs.start⟩

theorem execHrstAssert_sized {s t : State} (hs : s.Sized) (h : execHrstAssert s = .next t) : t.Sized := by
  have asserted : ({ s with hrst := true } : State).Sized := hs.same (.refl _) rfl rfl rfl rfl
  unfold execHrstAssert at h
  cases h
  split
  · exact hs
  · dsimp only
    split
    · exact asserted.hostRestart.finish s
    · exact asserted.dropInflight.finish s
    · exact asserted

theorem execHrstRelease_sized {s t : State} (hs : s.Sized) (h : execHrstRelease s = .next t) : t.Sized := by
  have released : ({ s with hrst := false, startUnderHrst := false } : State).Sized := hs.same (.refl _) rfl rfl rfl rfl
  unfold execHrstRelease at h
  cases h
  split
  · dsimp only
    split
    · exact released.hostResume.finish s
    · exact released
  · exact hs

theorem execProcessorRequest_sized {r : ProcRequest} {s t : State} (hs : s.Sized) (h : execProcessorRequest r s = .next t) :
    t.Sized := by
  unfold execProcessorRequest at h
  split at h
  · cases h
  · cases h; exact (hs.processorRequest r).finish s

/-! ## The report writer's rows -/

theorem not_starting {s : State} (h : s.mode = .running) : ¬(s.mode = .inReset ∨ s.mode = .startUp) := by
  rw [h]; rintro (h | h) <;> cases h

theorem execCompletionPost_sized {s t : State} (hs : s.Sized) (h : execCompletionPost s = .next t) : t.Sized := by
  unfold execCompletionPost at h
  cases h
  split
  · next hp =>
    obtain ⟨hm, room, -⟩ := served_room hp
    exact (hs.postCompletion _ room (not_starting hm)).finish s
  · exact hs

theorem execServicePosting_sized {s t : State} (hs : s.Sized) (h : execServicePosting s = .next t) : t.Sized := by
  unfold execServicePosting at h
  cases h
  split
  · next hp =>
    obtain ⟨hm, room, -⟩ := served_room hp
    exact (hs.postCall _ room (not_starting hm)).finish s
  · exact hs

theorem execJournalRecordWrite_sized {s t : State} (hs : s.Sized) (h : execJournalRecordWrite s = .next t) : t.Sized := by
  unfold execJournalRecordWrite at h
  cases h
  split
  · next hp =>
    obtain ⟨hm, room, -⟩ := served_room hp
    exact (hs.postJournal _ room (not_starting hm)).finish s
  · exact hs

theorem execMirrorRewrite_sized {s t : State} (hs : s.Sized) (h : execMirrorRewrite s = .next t) : t.Sized := by
  unfold execMirrorRewrite at h
  cases h
  split
  · next i hp =>
    obtain ⟨hm, -, room, -⟩ := served_room hp
    exact (hs.postOven i (room i rfl) (not_starting hm)).finish s
  · next hp =>
    obtain ⟨hm, -, -, room⟩ := served_room hp
    exact (hs.postSite (room rfl) (not_starting hm)).finish s
  · exact hs

theorem execEventSummaryWrite_sized {s t : State} (hs : s.Sized) (h : execEventSummaryWrite s = .next t) : t.Sized := by
  unfold execEventSummaryWrite at h
  cases h
  split
  · next hp =>
    obtain ⟨hm, room, -⟩ := served_room hp
    exact (hs.postSummary room (not_starting hm)).finish s
  · exact hs

/-! ## Every row -/

theorem exec_profileReadAnswer (a : MemAnswer) (s : State) : exec (.profileReadAnswer a) s =
    takeAnswer (fun o => o == .profile) a (fun _ d x => startUpAnswer d x) s := rfl

theorem exec_processorAnswer (a : MemAnswer) (s : State) : exec (.processorAnswer a) s =
    takeAnswer (fun o => o == .processor) a (fun _ d x => processorAnswer d x) s := rfl

theorem exec_postedWriteAnswer (a : MemAnswer) (s : State) : exec (.postedWriteAnswer a) s =
    takeAnswer IssueOwner.isPosted a postedAnswer s := rfl

theorem exec_commandFetchAnswer (a : MemAnswer) (s : State) : exec (.commandFetchAnswer a) s =
    takeAnswer (fun o => o == .command) a (fun _ d x => fetchAnswer d x) s := rfl

theorem exec_publishReadAnswer (a : MemAnswer) (s : State) : exec (.publishReadAnswer a) s =
    takeAnswer (fun o => o == .publish) a (fun _ d x => settled (publishAnswer d) x) s := rfl

theorem exec_fillReadAnswer (l : LineNo) (a : MemAnswer) (s : State) : exec (.fillReadAnswer l a) s =
    takeAnswer (fun o => o == .fill l) a (fun _ d x => settled (fillAnswer l d) x) s := rfl

theorem exec_verifyReadAnswer (a : MemAnswer) (s : State) : exec (.verifyReadAnswer a) s =
    takeAnswer (fun o => o == .verify) a (fun _ d x => settled (verifyAnswer d) x) s := rfl

theorem exec_imageBlockReadAnswer (a : MemAnswer) (s : State) : exec (.imageBlockReadAnswer a) s =
    takeAnswer IssueOwner.isBlock a blockTaken s := rfl

/-- Every row of the table keeps every size. -/
theorem exec_sized {c : Instr} {s t : State} (hs : s.Sized) (h : exec c s = .next t) : t.Sized := by
  have w := Work.refl s
  cases c
  case partReset => cases h; exact State.Sized.reset.same (.refl _) rfl rfl rfl rfl
  case resetRelease p q =>
    cases h
    split
    · next hm => exact State.Sized.issueProfileReads _ (hs.resetRelease hm _)
    · exact hs
  case hrstAssert => exact execHrstAssert_sized hs h
  case hrstRelease => exact execHrstRelease_sized hs h
  case profileReadAnswer a =>
    rw [exec_profileReadAnswer] at h
    exact takeAnswer_sized (fun _ d _ hx _ => hx.startUpAnswer d) hs h
  case processorRequest r => exact execProcessorRequest_sized hs h
  case arbiterGrant => cases h; split; exacts [hs.arbiterGrant.finish s, hs]
  case commandProducerIndexWrite v => cases h; exact hs.watchRow (hs.commandProducerWrite v)
  case completionConsumerIndexWrite v => cases h; exact hs.watchRow (hs.completionConsumerWrite v)
  case serviceConsumerIndexWrite v => cases h; exact hs.watchRow (hs.serviceConsumerWrite v)
  case journalConsumerIndexWrite v => cases h; exact hs.watchRow (hs.journalConsumerWrite v)
  case eventAcknowledgeWrite v => cases h; exact hs.watchRow (hs.eventAcknowledge v)
  case siteClockLoadWrite v => cases h; exact hs.watchRow (hs.clockLoad v)
  case processorAnswer a =>
    rw [exec_processorAnswer] at h
    exact takeAnswer_sized (fun _ d _ hx _ => hx.processorAnswer d) hs h
  case postedWriteAnswer a =>
    rw [exec_postedWriteAnswer] at h
    exact takeAnswer_sized (fun q d x hx _ => ((Work.refl x).postedAnswer q d).sized (by simp) hx) hs h
  case commandFetchAnswer a =>
    rw [exec_commandFetchAnswer] at h
    exact takeAnswer_sized (fun _ d _ hx _ => hx.fetchAnswer d) hs h
  case publishReadAnswer a =>
    rw [exec_publishReadAnswer] at h
    exact takeAnswer_sized (fun _ d x hx _ => .settled (((Work.refl x).publishAnswer d).sized (by simp) hx)) hs h
  case fillReadAnswer l a =>
    rw [exec_fillReadAnswer] at h
    exact takeAnswer_sized (fun _ d _ hx _ => .settled (hx.fillAnswer l d)) hs h
  case verifyReadAnswer a =>
    rw [exec_verifyReadAnswer] at h
    exact takeAnswer_sized (fun _ d x hx _ => .settled (((Work.refl x).verifyAnswer d).sized (by simp) hx)) hs h
  case imageBlockReadAnswer a =>
    rw [exec_imageBlockReadAnswer] at h
    exact takeAnswer_sized (fun q d _ hx _ => hx.blockTaken q d) hs h
  case commission => cases h; exact hs.commandRow fun _ hx => hx.commission ..
  case restore => cases h; exact hs.commandRow fun _ hx => hx.restore ..
  case recalibrate => cases h; exact hs.commandRow fun _ hx => (hx.recalibrate ..).settle
  case retire => cases h; exact hs.commandRow fun x hx => (((Work.refl x).retire _ _).sized (by simp) hx).settle
  case release => cases h; exact hs.commandRow fun x hx => ((Work.refl x).release _ _).sized (by simp) hx
  case lineTest => cases h; exact hs.commandRow fun _ hx => hx.lineTest ..
  case publish => cases h; exact hs.commandRow fun _ hx => hx.publish ..
  case withdraw => cases h; exact hs.commandRow fun x hx => ((Work.refl x).withdraw _ _).sized (by simp) hx
  case cook => cases h; exact hs.commandRow fun _ hx => (hx.cook ..).settle
  case abort => cases h; exact hs.commandRow fun x hx => ((Work.refl x).abortCommand _ _).sized (by simp) hx
  case clean => cases h; exact hs.commandRow fun x hx => (((Work.refl x).clean _ _ _).sized (by simp) hx).settle
  case cancelClean => cases h; exact hs.commandRow fun x hx => ((Work.refl x).cancelClean _ _).sized (by simp) hx
  case ackCall => cases h; exact hs.commandRow fun x hx => ((Work.refl x).ackCall _ _ _).sized (by simp) hx
  case closeCall => cases h; exact hs.commandRow fun x hx => ((Work.refl x).closeCall _ _ _).sized (by simp) hx
  case stageClose => cases h; exact hs.commandRow fun _ hx => hx.stageClose ..
  case rollout => cases h; exact hs.commandRow fun _ hx => (hx.rollout ..).settle
  case rolloutHalt => cases h; exact hs.commandRow fun x hx => (((Work.refl x).rolloutHalt _).sized (by simp) hx).settle
  case openProfile => cases h; exact hs.commandRow fun _ hx => hx.openProfile _
  case completionPost => exact execCompletionPost_sized hs h
  case servicePosting => exact execServicePosting_sized hs h
  case journalRecordWrite => exact execJournalRecordWrite_sized hs h
  case mirrorRewrite => exact execMirrorRewrite_sized hs h
  case eventSummaryWrite => exact execEventSummaryWrite_sized hs h
  case siteClockMinuteExpiry => cases h; split; exacts [hs.clockMinute.finish s, hs]
  case schedulerChoice l => cases h; exact (w.schedulerChoice l).plainEvent_sized (by simp) hs
  case transmitEnd l => cases h; exact (w.transmitEnd l).plainEvent_sized (by simp) hs
  case replyReceived l chars => cases h; exact (w.replyReceived l chars).workEvent_sized (by simp) hs
  case replyWindowExpiry l => cases h; exact (w.windowExpired l).workEvent_sized (by simp) hs
  case quietEnd l => cases h; exact (w.quietEnd l).workEvent_sized (by simp) hs
  case turnaroundEnd l => cases h; exact (w.turnaroundEnd l).plainEvent_sized (by simp) hs
  case pollDue i => cases h; exact (w.setDue false i).plainEvent_sized (by simp) hs
  case pollOverdue i => cases h; exact (w.setDue true i).plainEvent_sized (by simp) hs
  case silenceTimerExpiry i =>
    cases h; exact hs.workEvent (hs.whenRunning _ ((w.silenceExpired i).sized (by simp) hs))
  case lineTestStart l => cases h; exact (w.testStart l).plainEvent_sized (by simp) hs
  case lineTestLoopbackEnd l chars => cases h; exact (w.testHeard l chars).plainEvent_sized (by simp) hs
  case lineTestWindowExpiry l chars => cases h; exact (w.testWindow l chars).plainEvent_sized (by simp) hs
  case identResendExpiry i =>
    cases h; exact hs.workEvent (hs.whenRunning _ ((w.identResendExpired i).sized (by simp) hs))
  case calibrationLimitExpiry i =>
    cases h; exact hs.workEvent (hs.whenRunning _ ((w.calLimitExpired i).sized (by simp) hs))
  case hygieneMinuteExpiry =>
    have restarted : ({ s with hygiene := { s.hygiene with minute := some s.now } } : State).Sized :=
      hs.same (.refl _) rfl rfl rfl rfl
    cases h
    exact hs.workEvent (hs.whenRunning _ ((Work.refl _).accrueAll.sized (by simp) restarted))
  case requeueTimerExpiry i =>
    cases h; exact hs.workEvent (hs.whenRunning _ ((w.requeueExpired i).sized (by simp) hs))
  case switchLimitExpiry i =>
    cases h; exact hs.workEvent (hs.whenRunning _ ((w.switchLimitExpired i).sized (by simp) hs))
  case replyStartBitAccepted l => cases h; exact (w.replyStarts l).plainEvent_sized (by simp) hs
  case quietStartBitAccepted l => cases h; exact (w.quietStart l).plainEvent_sized (by simp) hs
  case characterGapLimitExpiry l => cases h; exact (w.gapExpired l).plainEvent_sized (by simp) hs

theorem step_sized {s t : State} (hs : s.Sized) (h : step s = .next t) : t.Sized := by
  unfold step at h
  split at h
  · cases h; exact hs.same (.refl _) rfl rfl rfl rfl
  · next c rest _ =>
    have taken : ({ s with pending := rest } : State).Sized := hs.same (.refl _) rfl rfl rfl rfl
    exact exec_sized taken h

end Sys2Proof.Machine

open Sys2Proof.Machine in
/-- Settles O50: every row keeps every size (`exec_sized`), and a tick of the clock changes none. -/
theorem stepKeepsQueuesFit : Obligations.StepKeepsQueuesFit := by
  intro s t hs h
  rw [State.queuesFit_iff] at hs ⊢
  exact step_sized hs h
end

section
/-! PROOF. Part reset's values, and the output pins read off the state. -/

open Sys2Proof Sys2Proof.Machine

/-- Settles O3: the reset state is given field by field. -/
theorem partResetValues : Obligations.PartResetValues := by
  unfold Obligations.PartResetValues
  refine ⟨fun s => rfl, ?_, ?_, ?_, rfl, rfl, rfl, ?_, ?_, ?_, rfl, rfl, rfl⟩
  · decide
  · decide
  · decide
  · decide
  · decide
  · decide

namespace Sys2Proof.Machine

/-! ## IRQ -/

/-- Every position of an eleven-bit set belongs to an event kind. -/
theorem exists_event_of_bit : ∀ k : Nat, k < 11 → ∃ e : Event, e.bitNo = k := by
  intro k hk
  interval_cases k
  exacts [⟨.completion, rfl⟩, ⟨.service, rfl⟩, ⟨.journal, rfl⟩, ⟨.hygiene, rfl⟩, ⟨.ovenLate, rfl⟩, ⟨.guard, rfl⟩,
    ⟨.clash, rfl⟩, ⟨.fault, rfl⟩, ⟨.ringError, rfl⟩, ⟨.rollout, rfl⟩, ⟨.profileBad, rfl⟩]

theorem and_ne_zero_iff_event (a b : BitVec 11) :
    ((a &&& b) != 0) = true ↔ ∃ e : Event, a.getLsbD e.bitNo = true ∧ b.getLsbD e.bitNo = true := by
  rw [bne_iff_ne]
  constructor
  · intro h
    by_contra hn
    refine h (BitVec.eq_of_getLsbD_eq fun k hk => ?_)
    obtain ⟨e, rfl⟩ := exists_event_of_bit k hk
    simpa using fun ha => Bool.eq_false_iff.mpr fun hb => hn ⟨e, ha, hb⟩
  · rintro ⟨e, ha, hb⟩ h
    have hbit := congrArg (BitVec.getLsbD · e.bitNo) h
    simp [ha, hb] at hbit

theorem irq_of_running {s : State} (h : s.mode = .running) : s.irq = ((s.report.signalled &&& s.profile.mask) != 0) := by
  simp [State.irq, h]

theorem irq_of_passOnly {s : State} (h : s.mode = .passOnly) : s.irq = true := by simp [State.irq, h]

theorem irq_of_stopped {s : State} (h : s.mode = .inReset ∨ s.mode = .startUp) : s.irq = false := by
  rcases h with h | h <;> simp [State.irq, h]

theorem irq_of_signalled_empty {s : State} (hm : s.mode = .running) (h : s.report.signalled = 0) : s.irq = false := by
  simp [irq_of_running hm, h]

/-! ## SERVICE and the port -/

theorem mem_slots (i : Slot) : i ∈ slots := by
  revert i
  decide

theorem serviceLamp_of_running {s : State} (h : s.mode = .running) :
    s.serviceLamp = true ↔ ∃ i : Slot, (s.ent i).state = .suspended := by
  simp [State.serviceLamp, h, mem_slots]

theorem serviceLamp_of_passOnly {s : State} (h : s.mode = .passOnly) : s.serviceLamp = true := by
  simp [State.serviceLamp, h]

theorem serviceLamp_of_stopped {s : State} (h : s.mode = .inReset ∨ s.mode = .startUp) : s.serviceLamp = false := by
  rcases h with h | h <;> simp [State.serviceLamp, h]

/-- The lamp shows the mode and the roster alone. -/
theorem serviceLamp_congr {s t : State} (hm : t.mode = s.mode) (hr : t.roster = s.roster) : t.serviceLamp = s.serviceLamp := by
  unfold State.serviceLamp State.ent
  rw [hm, hr]

theorem portReady_iff (s : State) :
    s.portReady = true ↔ s.path.portOpen = true ∧ s.hrst = false ∧ s.path.inflight.length < 8 := by
  unfold State.portReady Config.inflightMax
  simp [and_assoc]

/-! ## The driver of a line -/

theorem driverEnable_iff (x : Line) : x.driverEnable = true ↔ x.state = .transmit := by simp [Line.driverEnable]

theorem txChars_of_transmit {x : Line} {tr : Transaction} (hs : x.state = .transmit) (ht : x.trans = some tr) :
    x.txChars = tr.q.chars := by
  simp [Line.txChars, hs, ht]

theorem txChars_of_not_transmit {x : Line} (h : x.state ≠ .transmit) : x.txChars = [] := by
  unfold Line.txChars
  split
  next hs _ => exact absurd hs h
  next => rfl

/-! ## HRST and the pins -/

/-- The assertion in RUNNING drops the signalled set and leaves mode and roster. -/
theorem hostRestart_pins (s : State) :
    (hostRestart s).mode = s.mode ∧ (hostRestart s).roster = s.roster ∧ (hostRestart s).report.signalled = 0 := by
  simp [hostRestart, dropInflight]

/-- The release in RUNNING leaves mode and roster. -/
theorem hostResume_pins (s : State) : (hostResume s).mode = s.mode ∧ (hostResume s).roster = s.roster := ⟨rfl, rfl⟩

/-- What an event brings up to date at its end shows on no pin of these. -/
theorem State.EndsAs.pins {t x : State} (h : t.EndsAs x) :
    t.mode = x.mode ∧ t.roster = x.roster ∧ t.report.signalled = x.report.signalled := by
  unfold State.EndsAs at h
  rw [h]
  exact ⟨rfl, rfl, rfl⟩

theorem execHrstAssert_pins (s : State) :
    ∃ t, exec .hrstAssert s = .next t ∧ t.serviceLamp = s.serviceLamp ∧
      (Instr.hrstAssert = .hrstAssert → s.mode = .running → t.irq = false ∨ s.hrst = true) := by
  refine ⟨_, rfl, ?_⟩
  by_cases hh : s.hrst = true
  · rw [if_pos hh]
    exact ⟨rfl, fun _ _ => .inr hh⟩
  · rw [if_neg hh]
    dsimp only
    split
    next hm =>
      obtain ⟨hmode, hroster, hsignalled⟩ := (finish_ends s (hostRestart { s with hrst := true })).pins
      obtain ⟨hmode', hroster', hsignalled'⟩ := hostRestart_pins { s with hrst := true }
      exact ⟨serviceLamp_congr (hmode.trans hmode') (hroster.trans hroster'),
        fun _ _ => .inl (irq_of_signalled_empty ((hmode.trans hmode').trans hm) (hsignalled.trans hsignalled'))⟩
    next hm =>
      obtain ⟨hmode, hroster, _⟩ := (finish_ends s (dropInflight { s with hrst := true })).pins
      exact ⟨serviceLamp_congr hmode hroster, fun _ hr => absurd (hm.symm.trans hr) nofun⟩
    next hm _ => exact ⟨serviceLamp_congr rfl rfl, fun _ hr => absurd hr hm⟩

theorem execHrstRelease_pins (s : State) :
    ∃ t, exec .hrstRelease s = .next t ∧ t.serviceLamp = s.serviceLamp := by
  refine ⟨_, rfl, ?_⟩
  by_cases hh : s.hrst = true
  · rw [if_pos hh]
    dsimp only
    split
    next =>
      obtain ⟨hmode, hroster, _⟩ := (finish_ends s (hostResume { s with hrst := false, startUnderHrst := false })).pins
      exact serviceLamp_congr hmode hroster
    next => exact serviceLamp_congr rfl rfl
  · rw [if_neg hh]

end Sys2Proof.Machine

/-- Settles O60: each pin is a function of the state's mode and of the one block it shows. -/
theorem pinsDriven : Obligations.PinsDriven := by
  unfold Obligations.PinsDriven
  refine ⟨fun s => ⟨fun hm => ⟨?irq, serviceLamp_of_running hm, fun hh hq => ?quiet⟩,
    fun hm => ⟨irq_of_passOnly hm, serviceLamp_of_passOnly hm⟩,
    fun hm => ⟨irq_of_stopped hm, serviceLamp_of_stopped hm, fun hq => ?closed⟩, portReady_iff s,
    fun l => ⟨driverEnable_iff _, fun _ => txChars_of_transmit, txChars_of_not_transmit, fun h => if_pos h, fun h => if_neg h⟩, ?reset⟩, ?hrst⟩
  case irq =>
    rw [irq_of_running hm]
    exact and_ne_zero_iff_event _ _
  case quiet =>
    obtain ⟨_, _, hsignalled⟩ := hq
    exact irq_of_signalled_empty hm (hsignalled (.inr hh))
  case closed =>
    obtain ⟨_, hclosed, _⟩ := hq
    simp [State.portReady, (hclosed hm).1]
  case reset =>
    have hlines : ∀ l : LineNo, (State.reset.ln l).driverEnable = false ∧ (State.reset.ln l).txChars = [] := by decide
    exact ⟨_, rfl, rfl, rfl, rfl, hlines⟩
  case hrst =>
    rintro c s (rfl | rfl)
    · exact execHrstAssert_pins s
    · obtain ⟨t, ht, hlamp⟩ := execHrstRelease_pins s
      exact ⟨t, ht, hlamp, nofun⟩
end

section
/-! PROOF. Rounding: the corrected temperature and the raw hold threshold. -/

namespace Sys2Proof.Machine

/-- Half rounded up, for a denominator that is positive: the quotient is within half of the exact value, and the bound above is
the one that is met. -/
theorem half_up_bounds (n d : Int) (hd : 0 < d) :
    2 * ((2 * n + d) / (2 * d) * d - n) ≤ d ∧ -d < 2 * ((2 * n + d) / (2 * d) * d - n) := by
  have hle := Int.ediv_mul_le (2 * n + d) (show 2 * d ≠ 0 by omega)
  have hlt := Int.lt_ediv_add_one_mul_self (2 * n + d) (show 0 < 2 * d by omega)
  constructor <;> nlinarith

/-- `roundDiv` goes to the nearest whole number, and from a half away from zero. -/
theorem roundDiv_spec (n d : Int) (hd : 0 < d) :
    2 * (roundDiv n d * d - n) ≤ d ∧ -d ≤ 2 * (roundDiv n d * d - n) ∧
      (2 * (roundDiv n d * d - n) = d → 0 < n) ∧ (2 * (roundDiv n d * d - n) = -d → n < 0) := by
  unfold roundDiv
  split
  next hn =>
    obtain ⟨hle, hlt⟩ := half_up_bounds n d hd
    refine ⟨hle, hlt.le, fun heq => ?_, fun heq => absurd heq hlt.ne'⟩
    by_contra hn0
    have h0 : n = 0 := by omega
    subst h0
    have : (2 * 0 + d) / (2 * d) = 0 := Int.ediv_eq_zero_of_lt (by omega) (by omega)
    rw [this] at heq
    omega
  next hn =>
    obtain ⟨hle, hlt⟩ := half_up_bounds (-n) d hd
    rw [Int.neg_mul]
    exact ⟨by linarith, by linarith, fun heq => by linarith, fun _ => by omega⟩

/-- A quotient rounded upward: the least multiple that reaches the value. -/
theorem ceilDiv_spec (n d : Int) (hd : 0 < d) : n ≤ -(-n / d) * d ∧ (-(-n / d) - 1) * d < n := by
  have hle := Int.ediv_mul_le (-n) hd.ne'
  have hlt := Int.lt_ediv_add_one_mul_self (-n) hd
  constructor <;> linarith

theorem corrected_of_pos {c : Cal} (r : Int) (h : 0 < c.rawSpan) :
    c.corrected r = clampTemp (roundDiv (c.refLow.toInt * c.rawSpan + (r - c.rawLow.toInt) * c.refSpan) c.rawSpan) := by
  unfold Cal.corrected
  rw [if_neg h.ne', if_pos h]
  simp only [Int.one_mul]

theorem threshold_of_pos {c : Cal} (t : Int) (h : 0 < c.refSpan) :
    c.threshold t = sat16 (-(-(c.rawLow.toInt * c.refSpan + (t - c.refLow.toInt) * c.rawSpan) / c.refSpan)) := by
  unfold Cal.threshold
  rw [if_neg h.ne', if_pos h]
  simp only [Int.one_mul]

end Sys2Proof.Machine

open Sys2Proof.Machine in
/-- Settles O45: the bounds of the two roundings (`roundDiv_spec`, `ceilDiv_spec`). -/
theorem correctedTemperatureAndThreshold : Obligations.CorrectedTemperatureAndThreshold := by
  unfold Obligations.CorrectedTemperatureAndThreshold
  intro c r hold hraw href
  refine ⟨⟨_, corrected_of_pos r hraw, roundDiv_spec _ _ hraw⟩, ⟨_, threshold_of_pos hold href, ?_⟩⟩
  obtain ⟨hle, hlt⟩ := ceilDiv_spec (c.rawLow.toInt * c.refSpan + (hold - c.refLow.toInt) * c.rawSpan) c.refSpan href
  unfold Cal.refSpan Cal.rawSpan at *
  constructor <;> linarith
end

section
/-! PROOF. The commands of the roster that no work of another unit enters: RELEASE, COMMISSION, RESTORE and RECALIBRATE. -/

namespace Sys2Proof.Machine

/-! ## A row of software is its owner's work on the taken state -/

/-- A row that ends an event on `x` ends as `x`. -/
theorem row_endsAs {c : Instr} {s x y : State} (hrow : exec c s = .next (finish s x)) (h : x = y) :
    ∃ t, exec c s = .next t ∧ t.EndsAs y := ⟨_, hrow, finish_endsAs h⟩

@[simp] theorem State.ent_taken (s : State) (i : Slot) : s.taken.ent i = s.ent i := rfl
@[simp] theorem State.ln_taken (s : State) (l : LineNo) : s.taken.ln l = s.ln l := rfl
@[simp] theorem State.held_taken (s : State) (o : LongObj) : s.taken.held o = s.held o := rfl
@[simp] theorem State.taken_now (s : State) : s.taken.now = s.now := rfl
@[simp] theorem State.taken_report (s : State) : s.taken.report = s.report := rfl
@[simp] theorem State.taken_update (s : State) : s.taken.update = s.update := rfl
@[simp] theorem State.hears_taken (s : State) : s.taken.hears = s.hears := rfl

theorem exec_release (tag : Half) (b : Byte) {s : State} (h : s.hears = true) :
    exec (.release tag b) s = .next (finish s (release tag b s.taken)) := congrArg Host.Outcome.next (commandRow_of_hears _ h)

theorem exec_commission (tag : Half) (slot line drop : Byte) (serial : Word) (lo hi : Half) {s : State} (h : s.hears = true) :
    exec (.commission tag slot line drop serial lo hi) s =
      .next (finish s (commission tag slot line drop serial lo hi s.taken)) :=
  congrArg Host.Outcome.next (commandRow_of_hears _ h)

theorem exec_restore (tag : Half) (slot line drop : Byte) (serial : Word) (lo hi rawLo rawHi : Half) (minutes : Word)
    {s : State} (h : s.hears = true) :
    exec (.restore tag slot line drop serial lo hi rawLo rawHi minutes) s =
      .next (finish s (restore tag slot line drop serial ⟨lo, hi, rawLo, rawHi⟩ minutes s.taken)) :=
  congrArg Host.Outcome.next (commandRow_of_hears _ h)

theorem exec_recalibrate (tag : Half) (b : Byte) (lo hi : Half) {s : State} (h : s.hears = true) :
    exec (.recalibrate tag b lo hi) s = .next (finish s (settle (recalibrate tag b lo hi s.taken))) :=
  congrArg Host.Outcome.next (commandRow_of_hears (fun s => settle (recalibrate tag b lo hi s)) h)

theorem exec_retire (tag : Half) (b : Byte) {s : State} (h : s.hears = true) :
    exec (.retire tag b) s = .next (finish s (settle (retire tag b s.taken))) :=
  congrArg Host.Outcome.next (commandRow_of_hears (fun s => settle (retire tag b s)) h)

/-! ## RELEASE -/

theorem release_range (tag : Half) {b : Byte} (s : State) (h : 16 ≤ b.toNat) :
    release tag b s = complete tag 0x05 .range 0 0 0 s := by
  unfold release
  rw [slotOf_none h]
  rfl

theorem release_state (tag : Half) {i : Slot} {s : State} (h : (s.ent i).state ≠ .suspended) :
    release tag (slotByte i) s = complete tag 0x05 .state 0 0 0 s := by
  unfold release
  rw [slotOf_slotByte]
  exact if_pos h

theorem release_busy (tag : Half) {i : Slot} {s : State} (h : (s.ent i).state = .suspended)
    (hb : (s.ent i).activity ≠ .idle ∨ (s.ent i).offerOut = true) :
    release tag (slotByte i) s = complete tag 0x05 .busy 0 0 0 s := by
  unfold release
  rw [slotOf_slotByte]
  exact (if_neg (not_not_intro h)).trans (if_pos hb)

theorem release_done (tag : Half) {i : Slot} {s : State} (h : (s.ent i).state = .suspended)
    (hi : (s.ent i).activity = .idle) (ho : (s.ent i).offerOut = false) :
    release tag (slotByte i) s = complete tag 0x05 .done 0 0 0
      (sendTo i .roster .identReq (s.setEnt i { s.ent i with causes := 0, state := .revalidating, toggle := none })) := by
  unfold release
  rw [slotOf_slotByte]
  exact (if_neg (not_not_intro h)).trans (if_neg (by simp [hi, ho]))

/-- An owner's telegram to an oven just changed goes to the place that the changed entry names. -/
theorem sendTo_setEnt (i : Slot) (o : Owner) (t : Telegram) (e : Entry) (s : State) :
    sendTo i o t (s.setEnt i e) = queueUrgent e.line
      { tel := t, owner := o, target := some i, about := none, addr := e.drop, replyAddr := e.drop, void := false }
      (s.setEnt i e) := by
  unfold sendTo
  rw [State.ent_setEnt_self]

end Sys2Proof.Machine

open Sys2Proof.Machine in
/-- Settles O20: each of RELEASE's checks in turn. -/
theorem releaseTaken : Obligations.ReleaseTaken := by
  unfold Obligations.ReleaseTaken
  intro tag s hs
  refine ⟨fun b hb => ?_, fun i hi => ?_, fun i hi hbusy => ?_, fun i hi hidle hoffer => ?_⟩
  · exact row_endsAs (exec_release _ _ hs) (release_range tag _ hb)
  · exact row_endsAs (exec_release _ _ hs) (release_state tag hi)
  · exact row_endsAs (exec_release _ _ hs) (release_busy tag hi hbusy)
  · refine row_endsAs (exec_release _ _ hs) ?_
    rw [release_done (s := s.taken) tag hi hidle hoffer, sendTo_setEnt]
    rfl
end

section
/-! PROOF. `settle` leaves the report writer alone and reads the site clock there alone: a report of another content with the same
clock stays in place through it. -/

namespace Sys2Proof.Machine

/-- The state with another report. -/
def State.withReport (s : State) (r : ReportWriter) : State := { s with report := r }

section
variable (s : State) (r : ReportWriter)

@[simp] theorem State.withReport_report : (s.withReport r).report = r := rfl
@[simp] theorem State.ent_withReport (i : Slot) : (s.withReport r).ent i = s.ent i := rfl
@[simp] theorem State.ln_withReport (l : LineNo) : (s.withReport r).ln l = s.ln l := rfl
@[simp] theorem State.rslot_withReport (q : RecipeNo) : (s.withReport r).rslot q = s.rslot q := rfl
@[simp] theorem State.update_withReport : (s.withReport r).update = s.update := rfl
@[simp] theorem State.profile_withReport : (s.withReport r).profile = s.profile := rfl
@[simp] theorem State.freeCount_withReport : (s.withReport r).freeCount = s.freeCount := rfl
@[simp] theorem State.storeBase_withReport : (s.withReport r).storeBase = s.storeBase := rfl
@[simp] theorem State.longOf_withReport (o : LongObj) : (s.withReport r).longOf o = s.longOf o := rfl
@[simp] theorem State.capacityInUse_withReport : (s.withReport r).capacityInUse = s.capacityInUse := rfl
@[simp] theorem State.nextOffer_withReport : (s.withReport r).nextOffer = s.nextOffer := rfl
@[simp] theorem State.onLine_withReport (l : LineNo) (i : Slot) : (s.withReport r).onLine l i = s.onLine l i := rfl
@[simp] theorem State.rolloutLeft_withReport : (s.withReport r).rolloutLeft = s.rolloutLeft := rfl
@[simp] theorem State.ableToRegister_withReport (w : FillWait) (q : RecipeNo) :
    (s.withReport r).ableToRegister w q = s.ableToRegister w q := rfl
@[simp] theorem State.claimsClash_withReport (a b : State) (ra rb : ReportWriter) :
    (s.withReport r).claimsClash (a.withReport ra) (b.withReport rb) = s.claimsClash a b := rfl

@[simp] theorem modEnt_withReport (i : Slot) (f : Entry → Entry) :
    (s.withReport r).modEnt i f = (s.modEnt i f).withReport r := rfl
@[simp] theorem modLn_withReport (l : LineNo) (f : Line → Line) : (s.withReport r).modLn l f = (s.modLn l f).withReport r := rfl
@[simp] theorem sendTo_withReport (i : Slot) (o : Owner) (t : Telegram) :
    sendTo i o t (s.withReport r) = (sendTo i o t s).withReport r := rfl
@[simp] theorem toIdle_withReport (i : Slot) : toIdle i (s.withReport r) = (toIdle i s).withReport r := rfl
@[simp] theorem leaveFillQueue_withReport (l : LineNo) (i : Slot) :
    leaveFillQueue l i (s.withReport r) = (leaveFillQueue l i s).withReport r := rfl
@[simp] theorem waitFill_withReport (l : LineNo) (i : Slot) :
    waitFill l i (s.withReport r) = (waitFill l i s).withReport r := rfl
@[simp] theorem grantFill_withReport (l : LineNo) (i : Slot) (q : RecipeNo) :
    grantFill l i q (s.withReport r) = (grantFill l i q s).withReport r := rfl
@[simp] theorem makeOffer_withReport (w : CleanWait) : makeOffer w (s.withReport r) = (makeOffer w s).withReport r := rfl

@[simp] theorem endLong_withReport (o : LongObj) (c : ResultCode) (d1 d2 d3 : Word) :
    endLong o c d1 d2 d3 (s.withReport r) = (endLong o c d1 d2 d3 s).withReport r := by
  unfold endLong
  rw [State.longOf_withReport]
  split
  next => rfl
  next => split <;> rfl

/-- A fold of steps that each leave the report in place does so too. -/
theorem foldl_withReport {α : Type} {f : State → α → State} (hf : ∀ s a, f (s.withReport r) a = (f s a).withReport r)
    (l : List α) (s : State) : l.foldl f (s.withReport r) = (l.foldl f s).withReport r := by
  induction l generalizing s with
  | nil => rfl
  | cons a t ih => rw [List.foldl_cons, List.foldl_cons, hf, ih]

@[simp] theorem evictAtEnd_withReport (i : Slot) : evictAtEnd i (s.withReport r) = (evictAtEnd i s).withReport r := by
  have hmod (f : List DirEntry → List DirEntry) : (s.withReport r).modDir i f = (s.modDir i f).withReport r := rfl
  unfold evictAtEnd
  rw [State.ent_withReport, hmod]
  exact foldl_withReport (f := fun s (x : DirEntry) => sendEvict i x.recipe s) r (fun _ _ => rfl) _ _

@[simp] theorem returnIdle_withReport (i : Slot) : returnIdle i (s.withReport r) = (returnIdle i s).withReport r := by
  simp only [returnIdle, toIdle_withReport, evictAtEnd_withReport]

@[simp] theorem answerRefusal_withReport (i : Slot) (p : PendingStart) (why : Reason) :
    answerRefusal i p why (s.withReport r) = (answerRefusal i p why s).withReport r := by
  unfold answerRefusal
  split
  · split <;> exact endLong_withReport ..
  · rfl

@[simp] theorem refuseStart_withReport (i : Slot) (why : Reason) :
    refuseStart i why (s.withReport r) = (refuseStart i why s).withReport r := by
  unfold refuseStart
  rw [State.ent_withReport]
  split
  · rfl
  · simp only [modEnt_withReport, returnIdle_withReport, answerRefusal_withReport]

theorem registerFills_withReport (l : LineNo) (q : List FillWait) :
    registerFills l q (s.withReport r) = (registerFills l q s).withReport r := by
  induction q generalizing s with
  | nil => rfl
  | cons w t ih =>
    unfold registerFills
    simp only [State.ln_withReport, State.ent_withReport, State.ableToRegister_withReport, State.rslot_withReport,
      leaveFillQueue_withReport, refuseStart_withReport, waitFill_withReport, grantFill_withReport, ih]
    (repeat' split) <;> rfl

theorem registerAll_withReport : registerAll (s.withReport r) = (registerAll s).withReport r :=
  foldl_withReport r (fun _ _ => registerFills_withReport ..) _ _

theorem offersUpTo_withReport (n : Nat) : offersUpTo n (s.withReport r) = (offersUpTo n s).withReport r := by
  induction n generalizing s with
  | zero => rfl
  | succ n ih =>
    unfold offersUpTo
    simp only [State.capacityInUse_withReport, State.profile_withReport, State.nextOffer_withReport, makeOffer_withReport, ih]
    (repeat' split) <;> rfl

theorem endRollout_withReport : endRollout (s.withReport r) = (endRollout s).withReport r := by
  unfold endRollout
  have hend : (s.withReport r).modRollout (fun r => { r with state := .ended }) =
      (s.modRollout fun r => { r with state := .ended }).withReport r := rfl
  have hverified (t : State) : (t.withReport r).modImage (fun m => { m with state := .verified }) =
      (t.modImage fun m => { m with state := .verified }).withReport r := rfl
  simp only [State.update_withReport, State.rolloutLeft_withReport, hend, hverified, endLong_withReport]
  split <;> rfl

end

section
variable {s : State} {r : ReportWriter} (h : r.clock = s.report.clock)
include h

theorem takePick_withReport (l : LineNo) (i : Slot) : takePick l i (s.withReport r) = (takePick l i s).withReport r := by
  unfold takePick
  simp only [State.withReport_report, State.ent_withReport, h]
  rfl

theorem pickOn_withReport (l : LineNo) : pickOn (s.withReport r) l = (pickOn s l).withReport r := by
  unfold pickOn
  simp only [State.update_withReport, State.onLine_withReport, State.ent_withReport, takePick_withReport h]
  (repeat' split) <;> rfl

end

/-! ## `settle` as a whole -/

/-- An operation that leaves every report in place leaves the state's own. -/
theorem report_of_withReport {f : State → State} {s : State} (hf : f (s.withReport s.report) = (f s).withReport s.report) :
    (f s).report = s.report := by
  have h := congrArg State.report hf
  exact h

theorem registerAll_report (s : State) : (registerAll s).report = s.report :=
  report_of_withReport (registerAll_withReport s _)

theorem makeOffers_report (s : State) : (makeOffers s).report = s.report := report_of_withReport (offersUpTo_withReport s _ 16)

section
variable {s : State} {r : ReportWriter} (h : r.clock = s.report.clock)
include h

theorem foldl_pickOn_withReport (ls : List LineNo) :
    ls.foldl pickOn (s.withReport r) = (ls.foldl pickOn s).withReport r := by
  induction ls generalizing s with
  | nil => rfl
  | cons l t ih =>
    have hclock : r.clock = (pickOn s l).report.clock := by
      rw [report_of_withReport (f := (pickOn · l)) (pickOn_withReport rfl l), h]
    rw [List.foldl_cons, List.foldl_cons, pickOn_withReport h, ih hclock]

theorem makePicks_withReport : makePicks (s.withReport r) = (makePicks s).withReport r := foldl_pickOn_withReport h _

end

theorem makePicks_report (s : State) : (makePicks s).report = s.report := report_of_withReport (makePicks_withReport rfl)

section
variable {s : State} {r : ReportWriter} (h : r.clock = s.report.clock)
include h

theorem makeClaims_withReport : makeClaims (s.withReport r) = (makeClaims s).withReport r := by
  have hoffers (t : State) : makeOffers (t.withReport r) = (makeOffers t).withReport r := offersUpTo_withReport t r 16
  have hpicks : makePicks (s.withReport r) = (makePicks s).withReport r := makePicks_withReport h
  have hafter : makePicks ((makeOffers s).withReport r) = (makePicks (makeOffers s)).withReport r :=
    makePicks_withReport (by rw [makeOffers_report, h])
  let s1 : State := { s with freeCount := s.freeCount + 1 }
  have hpicks1 : makePicks (s1.withReport r) = (makePicks s1).withReport r := makePicks_withReport h
  have hafter1 : makePicks ((makeOffers s1).withReport r) = (makePicks (makeOffers s1)).withReport r :=
    makePicks_withReport (by rw [makeOffers_report]; exact h)
  have hfree : { s.withReport r with freeCount := s.freeCount + 1 } = s1.withReport r := rfl
  unfold makeClaims
  simp only [hoffers, hpicks, State.claimsClash_withReport, State.freeCount_withReport, hfree, hpicks1, hafter, hafter1]
  (repeat' split) <;> rfl

theorem settle_withReport : settle (s.withReport r) = (settle s).withReport r := by
  unfold settle
  rw [registerAll_withReport, makeClaims_withReport (by rw [registerAll_report, h]), endRollout_withReport]

end

@[simp] theorem settle_report (s : State) : (settle s).report = s.report := report_of_withReport (settle_withReport rfl)

/-- The scratch mark of a raise made before `settle` is brought up to date at the end of the event. -/
theorem finish_settle_raised (s y : State) :
    (finish s (settle (y.withReport { y.report with summaryRaised := true }))).EndsAs (settle y) := by
  rw [settle_withReport (show { y.report with summaryRaised := true : ReportWriter }.clock = y.report.clock from rfl)]
  have h := finish_raising s (settle y) y.report y.report.rewriteList true
  have hreport : { settle y with report := y.report } = settle y := by rw [← settle_report y]
  rw [hreport] at h
  exact h

end Sys2Proof.Machine
end

section
/-! PROOF. COMMISSION, RESTORE and RECALIBRATE. -/

namespace Sys2Proof.Machine

/-! ## The ranges -/

/-- The temperatures that the roster takes as reference points. -/
theorem tempOk_iff (t : Half) : tempOk t = true ↔ -400 ≤ t.toInt ∧ t.toInt ≤ 4000 := by simp [tempOk]

theorem tempOk_eq_false {t : Half} (h : t.toInt < -400 ∨ 4000 < t.toInt) : tempOk t = false := by
  rw [Bool.eq_false_iff, Ne, tempOk_iff]
  omega

theorem placeOf_some {drop : Byte} {lo hi : Half} (i : Slot) (l : LineNo) (h1 : 1 ≤ drop.toNat) (h31 : drop.toNat ≤ 31)
    (hlo : tempOk lo = true) (hhi : tempOk hi = true) :
    placeOf (slotByte i) (BitVec.ofNat 8 l.val) drop lo hi = some (i, l, drop) := by
  unfold placeOf
  rw [slotOf_slotByte, lineOf_ofNat]
  exact if_pos ⟨h1, h31, hlo, hhi⟩

theorem placeOf_none {slot line drop : Byte} {lo hi : Half}
    (h : 16 ≤ slot.toNat ∨ 4 ≤ line.toNat ∨ drop = 0 ∨ 31 < drop.toNat ∨ lo.toInt < -400 ∨ 4000 < lo.toInt ∨
      hi.toInt < -400 ∨ 4000 < hi.toInt) :
    placeOf slot line drop lo hi = none := by
  unfold placeOf
  split
  next i l hi' hl' =>
    refine if_neg ?_
    rintro ⟨h1, h31, hlo, hhi⟩
    rw [tempOk_iff] at hlo hhi
    rcases h with h | h | h | h
    · rw [slotOf_none h] at hi'; cases hi'
    · rw [lineOf_none h] at hl'; cases hl'
    · subst h; exact absurd h1 (by decide)
    · omega
  next => rfl

/-! ## The checks of R6 -/

@[simp] theorem State.commissionRefusal_taken (s : State) (i : Slot) (l : LineNo) (drop : Byte) (serial : Word) (span : Int) :
    s.taken.commissionRefusal i l drop serial span = s.commissionRefusal i l drop serial span := rfl

/-- The entries on a line. -/
def State.residents (s : State) (l : LineNo) : List Slot := slots.filter (fun k => (s.ent k).state != .vacant && s.onLine l k)

theorem State.mem_residents (s : State) (l : LineNo) (k : Slot) :
    k ∈ s.residents l ↔ (s.ent k).state ≠ .vacant ∧ s.onLine l k = true := by
  simp [State.residents, mem_slots]

section refusal
variable {s : State} {i : Slot} {l : LineNo} {drop : Byte} {serial : Word} {span : Int}

theorem commissionRefusal_held (h : s.held (.oven i) = true) : s.commissionRefusal i l drop serial span = some .busy := if_pos h

theorem commissionRefusal_state (h : s.held (.oven i) = false) (hv : (s.ent i).state ≠ .vacant) :
    s.commissionRefusal i l drop serial span = some .state := by
  unfold State.commissionRefusal
  rw [if_neg (by simp [h]), if_pos hv]

theorem commissionRefusal_disabled (h : s.held (.oven i) = false) (hv : (s.ent i).state = .vacant)
    (hl : s.lineEnabled l = false) : s.commissionRefusal i l drop serial span = some .disabled := by
  unfold State.commissionRefusal
  rw [if_neg (by simp [h]), if_neg (not_not_intro hv), if_pos (by simp [hl])]

variable (h : s.held (.oven i) = false) (hv : (s.ent i).state = .vacant) (hl : s.lineEnabled l = true)
include h hv hl

/-- What is left to check for a vacant slot that no long command holds and an enabled line. -/
theorem commissionRefusal_eq : s.commissionRefusal i l drop serial span =
    if (s.residents l).any (fun k => k != i && (s.ent k).drop == drop) then some .state
    else if 8 ≤ (s.residents l).length then some .state
    else if serial ≠ 0 ∧ slots.any (fun k => k != i &&
        (match (s.ent k).identity with | some d => d.serial == serial | none => false)) then some .state
    else if serial = 0 ∧ (s.residents l).any (fun k => k != i && (s.ent k).pairing) then some .busy
    else if span < 100 then some .range
    else none := by
  unfold State.commissionRefusal
  rw [if_neg (by simp [h]), if_neg (not_not_intro hv), if_neg (by simp [hl])]
  rfl

end refusal

theorem State.residents_any (s : State) (l : LineNo) (i : Slot) (p : Slot → Bool) :
    (s.residents l).any (fun k => k != i && p k) = true ↔
      ∃ k, k ≠ i ∧ ((s.ent k).state ≠ .vacant ∧ s.onLine l k = true) ∧ p k = true := by
  simp only [List.any_eq_true, State.mem_residents, Bool.and_eq_true, bne_iff_ne, ne_eq]
  exact exists_congr fun k => and_left_comm

theorem State.length_residents (s : State) (l : LineNo) :
    (s.residents l).length = slots.countP (fun k => (s.ent k).state != .vacant && s.onLine l k) :=
  List.countP_eq_length_filter.symm

theorem residents_drop_iff (s : State) (l : LineNo) (i : Slot) (drop : Byte) :
    (s.residents l).any (fun k => k != i && (s.ent k).drop == drop) = true ↔
      ∃ k : Slot, k ≠ i ∧ ((s.ent k).state ≠ .vacant ∧ s.onLine l k = true) ∧ (s.ent k).drop = drop := by
  rw [State.residents_any s l i (fun k => (s.ent k).drop == drop)]
  simp only [beq_iff_eq]

/-- Another entry has an identity of this serial. -/
theorem serial_named_iff (s : State) (i : Slot) (serial : Word) :
    slots.any (fun k => k != i && (match (s.ent k).identity with | some d => d.serial == serial | none => false)) = true ↔
      ∃ (k : Slot) (d : Identity), k ≠ i ∧ (s.ent k).identity = some d ∧ d.serial = serial := by
  simp only [List.any_eq_true, mem_slots, true_and, Bool.and_eq_true, bne_iff_ne, ne_eq]
  refine exists_congr fun k => ?_
  cases (s.ent k).identity <;> simp

section refusal
variable {s : State} {i : Slot} {l : LineNo} {drop : Byte} {serial : Word} {span : Int}
variable (h : s.held (.oven i) = false) (hv : (s.ent i).state = .vacant) (hl : s.lineEnabled l = true)
include h hv hl

theorem commissionRefusal_drop
    (hd : ∃ k : Slot, k ≠ i ∧ ((s.ent k).state ≠ .vacant ∧ s.onLine l k = true) ∧ (s.ent k).drop = drop) :
    s.commissionRefusal i l drop serial span = some .state := by
  rw [commissionRefusal_eq h hv hl, if_pos ((residents_drop_iff s l i drop).mpr hd)]

variable (hd : ¬∃ k : Slot, k ≠ i ∧ ((s.ent k).state ≠ .vacant ∧ s.onLine l k = true) ∧ (s.ent k).drop = drop)
include hd

theorem commissionRefusal_full (h8 : 8 ≤ slots.countP (fun k => (s.ent k).state != .vacant && s.onLine l k)) :
    s.commissionRefusal i l drop serial span = some .state := by
  rw [commissionRefusal_eq h hv hl, if_neg (mt (residents_drop_iff s l i drop).mp hd),
    if_pos (s.length_residents l ▸ h8)]

variable (h7 : slots.countP (fun k => (s.ent k).state != .vacant && s.onLine l k) ≤ 7)
include h7

/-- With a place for the oven on its line, its serial and its span remain to check. -/
theorem commissionRefusal_placed : s.commissionRefusal i l drop serial span =
    if serial ≠ 0 ∧ slots.any (fun k => k != i &&
        (match (s.ent k).identity with | some d => d.serial == serial | none => false)) then some .state
    else if serial = 0 ∧ (s.residents l).any (fun k => k != i && (s.ent k).pairing) then some .busy
    else if span < 100 then some .range
    else none := by
  rw [← s.length_residents l] at h7
  rw [commissionRefusal_eq h hv hl, if_neg (mt (residents_drop_iff s l i drop).mp hd), if_neg (by omega)]

theorem commissionRefusal_serial (h0 : serial ≠ 0)
    (hk : ∃ (k : Slot) (d : Identity), k ≠ i ∧ (s.ent k).identity = some d ∧ d.serial = serial) :
    s.commissionRefusal i l drop serial span = some .state := by
  rw [commissionRefusal_placed h hv hl hd h7, if_pos ⟨h0, (serial_named_iff s i serial).mpr hk⟩]

theorem commissionRefusal_pairing (h0 : serial = 0)
    (hk : ∃ k : Slot, k ≠ i ∧ ((s.ent k).state ≠ .vacant ∧ s.onLine l k = true) ∧ (s.ent k).pairing = true) :
    s.commissionRefusal i l drop serial span = some .busy := by
  rw [commissionRefusal_placed h hv hl hd h7, if_neg (fun hc => hc.1 h0),
    if_pos ⟨h0, (s.residents_any l i (fun k => (s.ent k).pairing)).mpr hk⟩]

theorem commissionRefusal_span
    (hk : (serial ≠ 0 ∧ ∀ (k : Slot) (d : Identity), k ≠ i → (s.ent k).identity = some d → d.serial ≠ serial) ∨
      (serial = 0 ∧ ∀ k : Slot, k ≠ i → (s.ent k).state ≠ .vacant ∧ s.onLine l k = true → (s.ent k).pairing = false)) :
    s.commissionRefusal i l drop serial span = if span < 100 then some .range else none := by
  rw [commissionRefusal_placed h hv hl hd h7]
  rcases hk with ⟨h0, hother⟩ | ⟨h0, hpairing⟩
  · rw [if_neg, if_neg (fun hc => h0 hc.1)]
    rintro ⟨_, hc⟩
    obtain ⟨k, d, hki, hid, hser⟩ := (serial_named_iff s i serial).mp hc
    exact hother k d hki hid hser
  · rw [if_neg (fun hc => hc.1 h0), if_neg]
    rintro ⟨_, hc⟩
    obtain ⟨k, hki, hon, hp⟩ := (s.residents_any l i (fun k => (s.ent k).pairing)).mp hc
    exact Bool.false_ne_true ((hpairing k hki hon).symm.trans hp)

end refusal

/-! ## COMMISSION and RESTORE -/

/-- Where an accepted oven stands, and the pairing mark, while ASSIGN is out. -/
def Entry.assigning (e : Entry) (l : LineNo) (drop : Byte) (j : Job) : Entry :=
  { e with state := .assigning, place := some (l, drop), pairing := true, toggle := none, job := some j }

theorem beginCommission_eq (kind : Byte) (i : Slot) (l : LineNo) (drop : Byte) (j : Job) (s : State) :
    beginCommission kind i l drop j s = queueUrgent l
      { tel := .assign j.named drop, owner := .roster, target := none, about := some i, addr := 0, replyAddr := 0, void := false }
      ((startLong kind j.tag (.oven i) s).setEnt i ((s.ent i).assigning l drop j)) := by
  unfold beginCommission sendAssign State.modEnt
  rw [State.ent_setEnt_self]
  rfl

section commands
variable {i : Slot} {l : LineNo} {drop : Byte} {serial : Word} {lo hi : Half} (tag : Half) {s : State}

theorem commission_range {slot line : Byte} (h : placeOf slot line drop lo hi = none) :
    commission tag slot line drop serial lo hi s = complete tag 0x01 .range 0 0 0 s := by
  unfold commission
  rw [h]
  rfl

theorem restore_range {slot line : Byte} (rawLo rawHi : Half) (minutes : Word) (h : placeOf slot line drop lo hi = none) :
    restore tag slot line drop serial ⟨lo, hi, rawLo, rawHi⟩ minutes s = complete tag 0x02 .range 0 0 0 s := by
  unfold restore
  rw [h]
  rfl

variable {slot line : Byte} (h : placeOf slot line drop lo hi = some (i, l, drop))
include h

theorem commission_refused {why : ResultCode} (hr : s.commissionRefusal i l drop serial (hi.toInt - lo.toInt) = some why) :
    commission tag slot line drop serial lo hi s = complete tag 0x01 why 0 0 0 s := by
  unfold commission
  simp only [h, hr]
  rfl

theorem restore_refused {why : ResultCode} (rawLo rawHi : Half) (minutes : Word)
    (hr : s.commissionRefusal i l drop serial (hi.toInt - lo.toInt) = some why) :
    restore tag slot line drop serial ⟨lo, hi, rawLo, rawHi⟩ minutes s = complete tag 0x02 why 0 0 0 s := by
  change s.commissionRefusal i l drop serial (Cal.refSpan ⟨lo, hi, rawLo, rawHi⟩) = some why at hr
  unfold restore
  simp only [h, hr]
  rfl

theorem commission_begins (hr : s.commissionRefusal i l drop serial (hi.toInt - lo.toInt) = none) :
    commission tag slot line drop serial lo hi s = beginCommission 0x01 i l drop
      { kind := .commission, tag := tag, named := serial, kept := 0, cal := ⟨lo, hi, 0, 0⟩, minutes := 0 } s := by
  unfold commission
  simp only [h, hr]
  rfl

omit h in
/-- What a RESTORE that R6 does not refuse has still to pass. -/
theorem restore_eq (cal : Cal) (minutes : Word) (hp : placeOf slot line drop cal.refLow cal.refHigh = some (i, l, drop))
    (hr : s.commissionRefusal i l drop serial cal.refSpan = none) :
    restore tag slot line drop serial cal minutes s =
      if serial = 0 then complete tag 0x02 .range 0 0 0 s
      else if cal.rawSpan < 100 then complete tag 0x02 .range 0 0 0 s
      else if 65535 < minutes.toNat then complete tag 0x02 .range 0 0 0 s
      else beginCommission 0x02 i l drop
        { kind := .restore, tag := tag, named := serial, kept := 0, cal := cal, minutes := minutes.setWidth 16 } s := by
  unfold restore
  simp only [hp, hr]
  rfl

theorem restore_unfit (rawLo rawHi : Half) (minutes : Word)
    (hr : s.commissionRefusal i l drop serial (hi.toInt - lo.toInt) = none)
    (hx : serial = 0 ∨ rawHi.toInt - rawLo.toInt < 100 ∨ 65535 < minutes.toNat) :
    restore tag slot line drop serial ⟨lo, hi, rawLo, rawHi⟩ minutes s = complete tag 0x02 .range 0 0 0 s := by
  rw [restore_eq tag ⟨lo, hi, rawLo, rawHi⟩ minutes h hr]
  by_cases h0 : serial = 0
  · exact if_pos h0
  · rw [if_neg h0]
    by_cases hspan : Cal.rawSpan ⟨lo, hi, rawLo, rawHi⟩ < 100
    · exact if_pos hspan
    · rw [if_neg hspan]
      exact if_pos ((hx.resolve_left h0).resolve_left hspan)

theorem restore_begins (rawLo rawHi : Half) (minutes : Word)
    (hr : s.commissionRefusal i l drop serial (hi.toInt - lo.toInt) = none)
    (hserial : serial ≠ 0) (hspan : 100 ≤ rawHi.toInt - rawLo.toInt) (hminutes : minutes.toNat ≤ 65535) :
    restore tag slot line drop serial ⟨lo, hi, rawLo, rawHi⟩ minutes s = beginCommission 0x02 i l drop
      { kind := .restore, tag := tag, named := serial, kept := 0, cal := ⟨lo, hi, rawLo, rawHi⟩,
        minutes := minutes.setWidth 16 } s := by
  have hraw : ¬Cal.rawSpan ⟨lo, hi, rawLo, rawHi⟩ < 100 := hspan.not_gt
  rw [restore_eq tag ⟨lo, hi, rawLo, rawHi⟩ minutes h hr, if_neg hserial, if_neg hraw, if_neg hminutes.not_gt]

end commands

/-! ## RECALIBRATE -/

section recalibrate
variable {lo hi : Half} (tag : Half) {s : State} {i : Slot}

theorem recalibrate_range {b : Byte}
    (h : 16 ≤ b.toNat ∨ lo.toInt < -400 ∨ 4000 < lo.toInt ∨ hi.toInt < -400 ∨ 4000 < hi.toInt) :
    recalibrate tag b lo hi s = complete tag 0x03 .range 0 0 0 s := by
  unfold recalibrate
  cases hb : slotOf b with
  | none => rfl
  | some i =>
    refine if_pos ?_
    have hslot : ¬16 ≤ b.toNat := fun hc => by simp [slotOf_none hc] at hb
    rw [Bool.not_eq_true', Bool.and_eq_false_iff]
    rcases h.resolve_left hslot with h | h | h
    · exact .inl (tempOk_eq_false (.inl h))
    · exact .inl (tempOk_eq_false (.inr h))
    · exact .inr (tempOk_eq_false h)

variable (hlo : tempOk lo = true) (hhi : tempOk hi = true)
include hlo hhi

/-- The checks after the ranges. -/
theorem recalibrate_eq : recalibrate tag (slotByte i) lo hi s =
    if s.held (.oven i) then complete tag 0x03 .busy 0 0 0 s
    else if (s.ent i).state ≠ .calFailed ∧ (s.ent i).state ≠ .inService then complete tag 0x03 .state 0 0 0 s
    else if (s.ent i).state = .inService ∧ ((s.ent i).activity ≠ .idle ∨ (s.ent i).offerOut) then
      complete tag 0x03 .busy 0 0 0 s
    else if hi.toInt - lo.toInt < 100 then complete tag 0x03 .range 0 0 0 s
    else enterCalibrating i (skipQueued i ((startLong 0x03 tag (.oven i) s).modEnt i fun e =>
      { e with job := some { kind := .recalibrate, tag := tag, named := 0, kept := 0, cal := ⟨lo, hi, 0, 0⟩, minutes := 0 } })) := by
  unfold recalibrate
  rw [slotOf_slotByte]
  exact if_neg (by simp [hlo, hhi])

theorem recalibrate_held (h : s.held (.oven i) = true) :
    recalibrate tag (slotByte i) lo hi s = complete tag 0x03 .busy 0 0 0 s := by
  rw [recalibrate_eq tag hlo hhi, if_pos h]

variable (h : s.held (.oven i) = false)
include h

theorem recalibrate_state (hf : (s.ent i).state ≠ .calFailed) (hi' : (s.ent i).state ≠ .inService) :
    recalibrate tag (slotByte i) lo hi s = complete tag 0x03 .state 0 0 0 s := by
  rw [recalibrate_eq tag hlo hhi, if_neg (by simp [h]), if_pos ⟨hf, hi'⟩]

theorem recalibrate_busy (hs : (s.ent i).state = .inService) (hb : (s.ent i).activity ≠ .idle ∨ (s.ent i).offerOut = true) :
    recalibrate tag (slotByte i) lo hi s = complete tag 0x03 .busy 0 0 0 s := by
  rw [recalibrate_eq tag hlo hhi, if_neg (by simp [h]), if_neg (by simp [hs]), if_pos ⟨hs, hb⟩]

variable (hs : (s.ent i).state = .calFailed ∨
  ((s.ent i).state = .inService ∧ (s.ent i).activity = .idle ∧ (s.ent i).offerOut = false))
include hs

/-- An oven that may calibrate passes all but the check of the span. -/
theorem recalibrate_ready : recalibrate tag (slotByte i) lo hi s =
    if hi.toInt - lo.toInt < 100 then complete tag 0x03 .range 0 0 0 s
    else enterCalibrating i (skipQueued i ((startLong 0x03 tag (.oven i) s).modEnt i fun e =>
      { e with job := some { kind := .recalibrate, tag := tag, named := 0, kept := 0, cal := ⟨lo, hi, 0, 0⟩, minutes := 0 } })) := by
  rw [recalibrate_eq tag hlo hhi, if_neg (by simp [h])]
  rcases hs with hf | ⟨hin, hidle, hoffer⟩
  · rw [if_neg (by simp [hf]), if_neg (by simp [hf])]
  · rw [if_neg (by simp [hin]), if_neg (by simp [hidle, hoffer])]

end recalibrate

/-- How an oven enters CALIBRATING. -/
def Entry.calibrating (e : Entry) (now : Nat) : Entry :=
  { e with state := .calibrating, probe := false, calLimit := some now }

/-- An entry CALIBRATING, whatever its entry was before: the schedule is joined and PROBE_CHECK is queued. -/
theorem enterCalibrating_setEnt (i : Slot) (e : Entry) (s : State) :
    enterCalibrating i (s.setEnt i e) =
      sendTo i .roster .probeCheck (joinSchedule i (s.setEnt i (e.calibrating s.now))) := by
  unfold enterCalibrating State.modEnt
  rw [State.ent_setEnt_self, State.setEnt_setEnt]
  rfl

theorem skipQueued_of_ne {i : Slot} {s : State} (h : (s.ent i).upd.state ≠ .queued) : skipQueued i s = s := if_neg h

/-- An oven that a rollout had queued, in the skipped mask and with ROLLOUT raised. -/
def State.skipping (s : State) (i : Slot) : State :=
  { s with
    report := s.report.raising .rollout,
    update := { s.update with
      rollout := { s.update.rollout with skipped := s.update.rollout.skipped ||| (1 <<< i.val) } } }

/-- R163: an oven that a rollout had queued is SKIPPED, and ROLLOUT is raised. -/
theorem skipQueued_setEnt {i : Slot} {e : Entry} {s : State} (hs : s.hears = true) (h : e.upd.state = .queued) :
    skipQueued i (s.setEnt i e) = ((s.skipping i).setEnt i { e with upd := { e.upd with state := .skipped } }).withReport
      { (s.skipping i).report with summaryRaised := true } := by
  unfold skipQueued
  rw [State.ent_setEnt_self, if_pos h, State.modUpd, State.modEnt, State.ent_setEnt_self, State.setEnt_setEnt]
  exact raiseEvent_of_hears .rollout hs

theorem enterCalibrating_withReport (i : Slot) (s : State) (r : ReportWriter) :
    enterCalibrating i (s.withReport r) = (enterCalibrating i s).withReport r := rfl

end Sys2Proof.Machine

open Sys2Proof.Machine in
/-- Settles O21: the checks of each command in their order, then what the accepted one does. -/
theorem commissioningCommandsTaken : Obligations.CommissioningCommandsTaken := by
  unfold Obligations.CommissioningCommandsTaken
  refine ⟨fun tag drop serial lo hi s hs => ⟨fun slot line h => ?ranges, fun i l h1 h31 hlo hlo' hhi hhi' => ?placed⟩,
    fun tag lo hi s hs => ⟨fun b h => ?recalRange, fun i hlo hlo' hhi hhi' => ?recal⟩⟩
  case ranges =>
    exact ⟨row_endsAs (exec_commission _ _ _ _ _ _ _ hs) (commission_range tag (placeOf_none h)),
      fun rawLo rawHi minutes =>
        row_endsAs (exec_restore _ _ _ _ _ _ _ _ _ _ hs) (restore_range tag rawLo rawHi minutes (placeOf_none h))⟩
  case placed =>
    have hp := placeOf_some i l h1 h31 ((tempOk_iff lo).mpr ⟨hlo, hlo'⟩) ((tempOk_iff hi).mpr ⟨hhi, hhi'⟩)
    have refused {why : ResultCode} (hr : s.commissionRefusal i l drop serial (hi.toInt - lo.toInt) = some why) :
        ∃ t, exec (.commission tag (slotByte i) (BitVec.ofNat 8 l.val) drop serial lo hi) s = .next t ∧
          t.EndsAs (complete tag 0x01 why 0 0 0 s.taken) :=
      row_endsAs (exec_commission _ _ _ _ _ _ _ hs) (commission_refused tag hp hr)
    refine ⟨fun h => refused (commissionRefusal_held h), fun h hv => refused (commissionRefusal_state h hv),
      fun h hv hl => refused (commissionRefusal_disabled h hv hl), fun why hr => ⟨refused hr, fun rawLo rawHi minutes => ?_⟩,
      fun h hv hl => ⟨fun hd => commissionRefusal_drop h hv hl hd, fun hd => ⟨fun h8 => commissionRefusal_full h hv hl hd h8,
        fun h7 => ⟨fun h0 hk => commissionRefusal_serial h hv hl hd h7 h0 hk,
          fun h0 hk => commissionRefusal_pairing h hv hl hd h7 h0 hk, fun hk => ?_⟩⟩⟩,
      fun hr => ?_, fun rawLo rawHi minutes hr => ⟨fun hx => ?_, fun h0 hraw hmin => ?_⟩⟩
    · exact row_endsAs (exec_restore _ _ _ _ _ _ _ _ _ _ hs) (restore_refused tag hp rawLo rawHi minutes hr)
    · have hspan := commissionRefusal_span (span := hi.toInt - lo.toInt) h hv hl hd h7 hk
      exact ⟨fun hlt => hspan.trans (if_pos hlt), fun hge => hspan.trans (if_neg hge.not_gt)⟩
    · exact row_endsAs (exec_commission _ _ _ _ _ _ _ hs) ((commission_begins (s := s.taken) tag hp hr).trans ((beginCommission_eq ..).trans rfl))
    · exact row_endsAs (exec_restore _ _ _ _ _ _ _ _ _ _ hs) (restore_unfit tag hp rawLo rawHi minutes hr hx)
    · exact row_endsAs (exec_restore _ _ _ _ _ _ _ _ _ _ hs)
        ((restore_begins (s := s.taken) tag hp rawLo rawHi minutes hr h0 hraw hmin).trans ((beginCommission_eq ..).trans rfl))
  case recalRange => exact row_endsAs (exec_recalibrate _ _ _ _ hs) (congrArg settle (recalibrate_range tag h))
  case recal =>
    have hlo := (tempOk_iff lo).mpr ⟨hlo, hlo'⟩
    have hhi := (tempOk_iff hi).mpr ⟨hhi, hhi'⟩
    refine ⟨fun h => ?_, fun h hf hin => ?_, fun h hin hb => ?_, fun h hready => ⟨fun hspan => ?_, fun hspan hq => ?_,
      fun hspan hq => ?_⟩⟩
    · exact row_endsAs (exec_recalibrate _ _ _ _ hs) (congrArg settle (recalibrate_held tag hlo hhi h))
    · exact row_endsAs (exec_recalibrate _ _ _ _ hs) (congrArg settle (recalibrate_state tag hlo hhi h hf hin))
    · exact row_endsAs (exec_recalibrate _ _ _ _ hs) (congrArg settle (recalibrate_busy tag hlo hhi h hin hb))
    · exact row_endsAs (exec_recalibrate _ _ _ _ hs)
        (congrArg settle ((recalibrate_ready (s := s.taken) tag hlo hhi h hready).trans (if_pos hspan)))
    · refine row_endsAs (exec_recalibrate _ _ _ _ hs) (congrArg settle ?_)
      rw [recalibrate_ready (s := s.taken) tag hlo hhi h hready, if_neg hspan.not_gt, State.modEnt,
        skipQueued_of_ne (by rw [State.ent_setEnt_self]; exact hq), enterCalibrating_setEnt]
      rfl
    · refine ⟨_, exec_recalibrate _ _ _ _ hs, ?_⟩
      rw [recalibrate_ready (s := s.taken) tag hlo hhi h hready, if_neg hspan.not_gt, State.modEnt,
        skipQueued_setEnt (by exact hs) (by exact hq), enterCalibrating_withReport, enterCalibrating_setEnt]
      exact finish_settle_raised s _
end

section
/-! PROOF. The scheduler's choice on a line: what each kind of telegram does as it begins, and which one is taken. -/

namespace Sys2Proof.Machine

/-! ## The round -/

/-- One step of the search for the first in a round. -/
def nearer (start : Slot) (best : Option PollEntry) (p : PollEntry) : Option PollEntry :=
  match best with
  | none => some p
  | some b => if roundPos start p.slot < roundPos start b.slot then some p else some b

theorem firstInRound_eq (start : Slot) (l : List PollEntry) : firstInRound start l = l.foldl (nearer start) none := rfl

theorem foldl_nearer (start : Slot) (l : List PollEntry) (b : PollEntry) :
    ∃ p ∈ b :: l, l.foldl (nearer start) (some b) = some p ∧ ∀ q ∈ b :: l, roundPos start p.slot ≤ roundPos start q.slot := by
  induction l generalizing b with
  | nil => exact ⟨b, by simp, rfl, by simp⟩
  | cons a t ih =>
    rw [List.foldl_cons]
    by_cases hlt : roundPos start a.slot < roundPos start b.slot
    · have hstep : nearer start (some b) a = some a := if_pos hlt
      rw [hstep]
      obtain ⟨p, hp, hfold, hle⟩ := ih a
      refine ⟨p, List.mem_cons_of_mem b hp, hfold, fun q hq => ?_⟩
      rcases List.mem_cons.mp hq with rfl | hq
      · exact (hle a List.mem_cons_self).trans hlt.le
      · exact hle q hq
    · have hstep : nearer start (some b) a = some b := if_neg hlt
      rw [hstep]
      obtain ⟨p, hp, hfold, hle⟩ := ih b
      have hpb := hle b List.mem_cons_self
      refine ⟨p, ?_, hfold, fun q hq => ?_⟩
      · rcases List.mem_cons.mp hp with rfl | hp
        · exact List.mem_cons_self
        · exact List.mem_cons_of_mem _ (List.mem_cons_of_mem _ hp)
      · rcases List.mem_cons.mp hq with rfl | hq
        · exact hpb
        · rcases List.mem_cons.mp hq with rfl | hq
          · omega
          · exact hle q (List.mem_cons_of_mem _ hq)

theorem firstInRound_nil (start : Slot) : firstInRound start [] = none := rfl

/-- The first in the round is of the list, and none of the list comes before it. -/
theorem firstInRound_spec (start : Slot) {l : List PollEntry} (h : l ≠ []) :
    ∃ p ∈ l, firstInRound start l = some p ∧ ∀ q ∈ l, roundPos start p.slot ≤ roundPos start q.slot := by
  cases l with
  | nil => exact absurd rfl h
  | cons a t => exact foldl_nearer start t a

/-- A place in the round is one slot's. -/
theorem roundPos_inj {start i k : Slot} (h : roundPos start i = roundPos start k) : i = k := by
  unfold roundPos at h
  have hi := i.isLt
  have hk := k.isLt
  have hs := start.isLt
  exact Fin.ext (by omega)

theorem firstInRound_slot {start : Slot} {l : List PollEntry} {p : PollEntry} (hp : p ∈ l)
    (h : ∀ q ∈ l, roundPos start p.slot ≤ roundPos start q.slot) :
    ∃ p', firstInRound start l = some p' ∧ p'.slot = p.slot := by
  obtain ⟨p', hp', hfirst, hle⟩ := firstInRound_spec start (List.ne_nil_of_mem hp)
  exact ⟨p', hfirst, roundPos_inj (Nat.le_antisymm (hle p hp) (h p' hp'))⟩

theorem earliestOverdue_slot {start : Slot} {l : List PollEntry} {p : PollEntry} (hp : p ∈ l) (ho : p.overdue = true)
    (h : ∀ q ∈ l, q.overdue = true →
      p.begun < q.begun ∨ p.begun = q.begun ∧ roundPos start p.slot ≤ roundPos start q.slot) :
    ∃ p', earliestOverdue start l = some p' ∧ p'.slot = p.slot := by
  have hpo : p ∈ l.filter (fun q => q.overdue) := List.mem_filter.mpr ⟨hp, ho⟩
  refine firstInRound_slot ?_ fun q hq => ?_
  · refine List.mem_filter.mpr ⟨hpo, List.all_eq_true.mpr fun q hq => decide_eq_true ?_⟩
    obtain ⟨hql, hqo⟩ := List.mem_filter.mp hq
    rcases h q hql hqo with hlt | ⟨heq, _⟩ <;> omega
  · obtain ⟨hqo, hqall⟩ := List.mem_filter.mp hq
    have hle := of_decide_eq_true (List.all_eq_true.mp hqall p hpo)
    obtain ⟨hql, hqo⟩ := List.mem_filter.mp hqo
    rcases h q hql hqo with hlt | ⟨_, hround⟩
    · omega
    · exact hround

theorem earliestOverdue_none {start : Slot} {l : List PollEntry} (h : ∀ q ∈ l, q.overdue = false) :
    earliestOverdue start l = none := by
  have hnil : l.filter (fun q => q.overdue) = [] := List.filter_eq_nil_iff.mpr fun q hq => by simp [h q hq]
  simp only [earliestOverdue, hnil, List.filter_nil, firstInRound_nil]

/-! ## The telegram that begins -/

theorem identBegins_assigning {q : Queued} {i : Slot} {s : State} (ht : q.tel = .identReq) (hi : q.target = some i)
    (ha : (s.ent i).state = .assigning) :
    identBegins q s = s.setEnt i { s.ent i with state := .identifying } := by
  unfold identBegins
  rw [ht, hi]
  exact if_pos ha

theorem identBegins_other {q : Queued} {s : State}
    (h : q.tel ≠ .identReq ∨ ∀ i, q.target = some i → (s.ent i).state ≠ .assigning) : identBegins q s = s := by
  unfold identBegins
  split
  next i htel htarget => exact if_neg ((h.resolve_left (not_not_intro htel)) i htarget)
  next => rfl

/-- A line in TRANSMIT with a telegram at its first attempt. -/
def Line.sending (x : Line) (q : Queued) : Line :=
  { x with state := .transmit, trans := some { q := q, attempt := 1, damage := false, gone := false }, window := none,
           quiet := none }

theorem State.setLn_setLn (s : State) (l : LineNo) (a b : Line) : (s.setLn l a).setLn l b = s.setLn l b := by
  simp [State.setLn]

theorem beginTransaction_setLn (l : LineNo) (q : Queued) (x : Line) (s : State) :
    beginTransaction l q (s.setLn l x) = s.setLn l (x.sending q) := by
  unfold beginTransaction State.modLn
  rw [State.ln_setLn_self, State.setLn_setLn]
  rfl

theorem takeUrgent_eq (l : LineNo) (q : Queued) (rest : List Queued) (s : State) :
    takeUrgent l q rest s = identBegins q (s.setLn l
      (Line.sending { s.ln l with urgent := rest ++ (s.ln l).waiting.take 1, waiting := (s.ln l).waiting.drop 1 } q)) := by
  unfold takeUrgent
  rw [State.modLn, beginTransaction_setLn]

theorem beginPoll_eq (l : LineNo) (i : Slot) (s : State) :
    beginPoll l i s = s.setLn l (Line.sending
      { s.ln l with
        rr := i + 1,
        schedule := (s.ln l).schedule.map fun x =>
          if x.slot = i then { x with begun := s.now, due := false, overdue := false } else x }
      { tel := .poll (s.ent i).toggle, owner := .lineUnit, target := some i, about := none, addr := (s.ent i).drop,
        replyAddr := (s.ent i).drop, void := false }) := beginTransaction_setLn ..

theorem beginBlockTelegram_eq (l : LineNo) (z : Stream) (tel : Telegram) (s : State) :
    beginBlockTelegram l z tel s = s.setLn l (Line.sending
      { s.ln l with
        streams := (s.ln l).streams.map fun y =>
          if y.kind = z.kind ∧ y.slot = z.slot then { y with ready := false } else y }
      { tel := tel, owner := if z.kind = .fill then .cache else .update, target := some z.slot, about := none,
        addr := (s.ent z.slot).drop, replyAddr := (s.ent z.slot).drop, void := false }) := beginTransaction_setLn ..

/-! ## The choice -/

theorem exec_schedulerChoice (l : LineNo) {s : State} (h : s.mode = .running) :
    exec (.schedulerChoice l) s = .next (finish s (schedulerChoice l s)) := congrArg Host.Outcome.next (plainEvent_running _ h)

section
variable {l : LineNo} {s : State}

theorem schedulerChoice_free (hf : (s.ln l).state = .free) (ht : (s.ln l).test = .unset) :
    schedulerChoice l s = scheduleNext l s := if_pos ⟨hf, ht⟩

theorem schedulerChoice_closed (h : (s.ln l).state ≠ .free ∨ (s.ln l).test ≠ .unset) : schedulerChoice l s = s :=
  if_neg fun hc => h.elim (· hc.1) (· hc.2)

theorem scheduleNext_urgent {q : Queued} {rest : List Queued} (h : (s.ln l).urgent = q :: rest) :
    scheduleNext l s = takeUrgent l q rest s := by simp only [scheduleNext, h]

variable (hu : (s.ln l).urgent = [])
include hu

theorem scheduleNext_overdue {p : PollEntry} (h : earliestOverdue (s.ln l).rr (s.ln l).schedule = some p) :
    scheduleNext l s = beginPoll l p.slot s := by simp only [scheduleNext, hu, h]

variable (ho : ∀ q ∈ (s.ln l).schedule, q.overdue = false)
include ho

theorem scheduleNext_stream {z : Stream} {tel : Telegram} (hz : (s.ln l).streams.find? (fun z => z.ready) = some z)
    (ht : streamTelegram (s.ln l).fill z = some tel) : scheduleNext l s = beginBlockTelegram l z tel s := by
  simp only [scheduleNext, hu, earliestOverdue_none ho, hz, ht]

variable (hz : ∀ z ∈ (s.ln l).streams, z.ready = false)
include hz

theorem scheduleNext_first {p : PollEntry}
    (hp : firstInRound (s.ln l).rr ((s.ln l).schedule.filter (fun p => p.due)) = some p) :
    scheduleNext l s = beginPoll l p.slot s := by
  have hnone : (s.ln l).streams.find? (fun z => z.ready) = none := List.find?_eq_none.mpr fun z hmem => by simp [hz z hmem]
  simp only [scheduleNext, hu, earliestOverdue_none ho, hnone, hp]

theorem scheduleNext_due {p : PollEntry} (hp : p ∈ (s.ln l).schedule) (hd : p.due = true)
    (h : ∀ q ∈ (s.ln l).schedule, q.due = true → roundPos (s.ln l).rr p.slot ≤ roundPos (s.ln l).rr q.slot) :
    scheduleNext l s = beginPoll l p.slot s := by
  obtain ⟨p', hfirst, hslot⟩ := firstInRound_slot (start := (s.ln l).rr) (List.mem_filter.mpr ⟨hp, hd⟩) fun q hq => by
    obtain ⟨hql, hqd⟩ := List.mem_filter.mp hq
    exact h q hql hqd
  rw [scheduleNext_first hu ho hz hfirst, hslot]

theorem scheduleNext_nothing (hd : ∀ q ∈ (s.ln l).schedule, q.due = false) : scheduleNext l s = s := by
  have hnil : (s.ln l).schedule.filter (fun p => p.due) = [] := List.filter_eq_nil_iff.mpr fun q hq => by simp [hd q hq]
  have hnone : (s.ln l).streams.find? (fun z => z.ready) = none := List.find?_eq_none.mpr fun z hmem => by simp [hz z hmem]
  simp only [scheduleNext, hu, earliestOverdue_none ho, hnone, hnil, firstInRound_nil]

end

end Sys2Proof.Machine

open Sys2Proof.Machine in
/-- Settles O30: R43's order, each of its choices with the telegram that it begins. -/
theorem schedulerChooses : Obligations.SchedulerChooses := by
  unfold Obligations.SchedulerChooses
  intro l s hm
  refine ⟨fun h => row_endsAs (exec_schedulerChoice l hm) (schedulerChoice_closed h), fun hf ht => ?_⟩
  have chosen {y : State} (h : scheduleNext l s = y) : ∃ t, exec (.schedulerChoice l) s = .next t ∧ t.EndsAs y :=
    row_endsAs (exec_schedulerChoice l hm) ((schedulerChoice_free hf ht).trans h)
  refine ⟨fun q rest hu => ?urgent, fun p hp hu hchoice => ?poll, fun z before after tel hu ho hsplit hz hbefore htel => ?stream,
    fun hu hnone hz => chosen (scheduleNext_nothing hu (fun q hq => (hnone q hq).1) hz fun q hq => (hnone q hq).2)⟩
  case urgent =>
    refine ⟨_, exec_schedulerChoice l hm, fun i htel hi ha => ?_, fun h => ?_⟩
    all_goals
      refine finish_endsAs ?_
      rw [schedulerChoice_free hf ht, scheduleNext_urgent hu, takeUrgent_eq]
    · exact identBegins_assigning htel hi ha
    · exact identBegins_other h
  case poll =>
    refine chosen (Eq.trans ?_ (beginPoll_eq l p.slot s))
    rcases hchoice with ⟨ho, hfirst⟩ | ⟨ho, hz, hd, hfirst⟩
    · obtain ⟨p', hearliest, hslot⟩ := earliestOverdue_slot hp ho hfirst
      rw [scheduleNext_overdue hu hearliest, hslot]
    · exact scheduleNext_due hu ho hz hp hd hfirst
  case stream =>
    have hfind : (s.ln l).streams.find? (fun z => z.ready) = some z := by
      rw [hsplit]
      exact List.find?_eq_some_iff_append.mpr ⟨hz, before, after, rfl, fun y hy => by simp [hbefore y hy]⟩
    exact chosen ((scheduleNext_stream hu ho hfind htel).trans (beginBlockTelegram_eq ..))
end

section
/-! PROOF. What the operations that every unit shares leave alone: raising an event or a call, passing a journal record, ending a
long command; and on what the calls and the completions depend. -/

namespace Sys2Proof.Machine

theorem endLong_eq (o : LongObj) (r : ResultCode) (d1 d2 d3 : Word) (s : State) :
    endLong o r d1 d2 d3 s = { s with command := (endLong o r d1 d2 d3 s).command } := by
  unfold endLong
  split
  · rfl
  · dsimp only
    split <;> rfl

section
variable (e : Event) (s : State)

@[simp] theorem ent_raiseEvent (k : Slot) : (raiseEvent e s).ent k = s.ent k := by rw [raiseEvent_eq]; rfl
@[simp] theorem ln_raiseEvent (k : LineNo) : (raiseEvent e s).ln k = s.ln k := by rw [raiseEvent_eq]; rfl
@[simp] theorem rslot_raiseEvent (k : RecipeNo) : (raiseEvent e s).rslot k = s.rslot k := by rw [raiseEvent_eq]; rfl
@[simp] theorem raiseEvent_mode : (raiseEvent e s).mode = s.mode := by rw [raiseEvent_eq]
@[simp] theorem raiseEvent_hrst : (raiseEvent e s).hrst = s.hrst := by rw [raiseEvent_eq]
@[simp] theorem raiseEvent_profile : (raiseEvent e s).profile = s.profile := by rw [raiseEvent_eq]
@[simp] theorem raiseEvent_now : (raiseEvent e s).now = s.now := by rw [raiseEvent_eq]
@[simp] theorem raiseEvent_freeCount : (raiseEvent e s).freeCount = s.freeCount := by rw [raiseEvent_eq]
@[simp] theorem raiseEvent_roster : (raiseEvent e s).roster = s.roster := by rw [raiseEvent_eq]
@[simp] theorem raiseEvent_lines : (raiseEvent e s).lines = s.lines := by rw [raiseEvent_eq]
@[simp] theorem raiseEvent_recipe : (raiseEvent e s).recipe = s.recipe := by rw [raiseEvent_eq]
@[simp] theorem raiseEvent_cache : (raiseEvent e s).cache = s.cache := by rw [raiseEvent_eq]
@[simp] theorem raiseEvent_hygiene : (raiseEvent e s).hygiene = s.hygiene := by rw [raiseEvent_eq]
@[simp] theorem raiseEvent_service : (raiseEvent e s).service = s.service := by rw [raiseEvent_eq]
@[simp] theorem raiseEvent_update : (raiseEvent e s).update = s.update := by rw [raiseEvent_eq]
@[simp] theorem raiseEvent_command : (raiseEvent e s).command = s.command := by rw [raiseEvent_eq]

end

section
variable (src : Source) (cause : Cause) (sev : Severity) (details : List Word) (s : State)

@[simp] theorem ent_raiseCall (k : Slot) : (raiseCall src cause sev details s).ent k = s.ent k := by rw [raiseCall_eq]; rfl
@[simp] theorem ln_raiseCall (k : LineNo) : (raiseCall src cause sev details s).ln k = s.ln k := by rw [raiseCall_eq]; rfl
@[simp] theorem rslot_raiseCall (k : RecipeNo) : (raiseCall src cause sev details s).rslot k = s.rslot k := by rw [raiseCall_eq]; rfl
@[simp] theorem raiseCall_mode : (raiseCall src cause sev details s).mode = s.mode := by rw [raiseCall_eq]
@[simp] theorem raiseCall_hrst : (raiseCall src cause sev details s).hrst = s.hrst := by rw [raiseCall_eq]
@[simp] theorem raiseCall_profile : (raiseCall src cause sev details s).profile = s.profile := by rw [raiseCall_eq]
@[simp] theorem raiseCall_now : (raiseCall src cause sev details s).now = s.now := by rw [raiseCall_eq]
@[simp] theorem raiseCall_freeCount : (raiseCall src cause sev details s).freeCount = s.freeCount := by rw [raiseCall_eq]
@[simp] theorem raiseCall_roster : (raiseCall src cause sev details s).roster = s.roster := by rw [raiseCall_eq]
@[simp] theorem raiseCall_lines : (raiseCall src cause sev details s).lines = s.lines := by rw [raiseCall_eq]
@[simp] theorem raiseCall_recipe : (raiseCall src cause sev details s).recipe = s.recipe := by rw [raiseCall_eq]
@[simp] theorem raiseCall_cache : (raiseCall src cause sev details s).cache = s.cache := by rw [raiseCall_eq]
@[simp] theorem raiseCall_hygiene : (raiseCall src cause sev details s).hygiene = s.hygiene := by rw [raiseCall_eq]
@[simp] theorem raiseCall_update : (raiseCall src cause sev details s).update = s.update := by rw [raiseCall_eq]
@[simp] theorem raiseCall_command : (raiseCall src cause sev details s).command = s.command := by rw [raiseCall_eq]

end

section
variable (b : JBody) (s : State)

@[simp] theorem ent_passJournal (k : Slot) : (passJournal b s).ent k = s.ent k := by rw [passJournal_eq]; rfl
@[simp] theorem ln_passJournal (k : LineNo) : (passJournal b s).ln k = s.ln k := by rw [passJournal_eq]; rfl
@[simp] theorem rslot_passJournal (k : RecipeNo) : (passJournal b s).rslot k = s.rslot k := by rw [passJournal_eq]; rfl
@[simp] theorem passJournal_mode : (passJournal b s).mode = s.mode := by rw [passJournal_eq]
@[simp] theorem passJournal_hrst : (passJournal b s).hrst = s.hrst := by rw [passJournal_eq]
@[simp] theorem passJournal_profile : (passJournal b s).profile = s.profile := by rw [passJournal_eq]
@[simp] theorem passJournal_now : (passJournal b s).now = s.now := by rw [passJournal_eq]
@[simp] theorem passJournal_freeCount : (passJournal b s).freeCount = s.freeCount := by rw [passJournal_eq]
@[simp] theorem passJournal_roster : (passJournal b s).roster = s.roster := by rw [passJournal_eq]
@[simp] theorem passJournal_lines : (passJournal b s).lines = s.lines := by rw [passJournal_eq]
@[simp] theorem passJournal_recipe : (passJournal b s).recipe = s.recipe := by rw [passJournal_eq]
@[simp] theorem passJournal_cache : (passJournal b s).cache = s.cache := by rw [passJournal_eq]
@[simp] theorem passJournal_hygiene : (passJournal b s).hygiene = s.hygiene := by rw [passJournal_eq]
@[simp] theorem passJournal_service : (passJournal b s).service = s.service := by rw [passJournal_eq]
@[simp] theorem passJournal_update : (passJournal b s).update = s.update := by rw [passJournal_eq]
@[simp] theorem passJournal_command : (passJournal b s).command = s.command := by rw [passJournal_eq]

end

section
variable (o : LongObj) (r : ResultCode) (d1 d2 d3 : Word) (s : State)

@[simp] theorem ent_endLong (k : Slot) : (endLong o r d1 d2 d3 s).ent k = s.ent k := by rw [endLong_eq]; rfl
@[simp] theorem ln_endLong (k : LineNo) : (endLong o r d1 d2 d3 s).ln k = s.ln k := by rw [endLong_eq]; rfl
@[simp] theorem rslot_endLong (k : RecipeNo) : (endLong o r d1 d2 d3 s).rslot k = s.rslot k := by rw [endLong_eq]; rfl
@[simp] theorem endLong_mode : (endLong o r d1 d2 d3 s).mode = s.mode := by rw [endLong_eq]
@[simp] theorem endLong_hrst : (endLong o r d1 d2 d3 s).hrst = s.hrst := by rw [endLong_eq]
@[simp] theorem endLong_profile : (endLong o r d1 d2 d3 s).profile = s.profile := by rw [endLong_eq]
@[simp] theorem endLong_now : (endLong o r d1 d2 d3 s).now = s.now := by rw [endLong_eq]
@[simp] theorem endLong_freeCount : (endLong o r d1 d2 d3 s).freeCount = s.freeCount := by rw [endLong_eq]
@[simp] theorem endLong_roster : (endLong o r d1 d2 d3 s).roster = s.roster := by rw [endLong_eq]
@[simp] theorem endLong_lines : (endLong o r d1 d2 d3 s).lines = s.lines := by rw [endLong_eq]
@[simp] theorem endLong_recipe : (endLong o r d1 d2 d3 s).recipe = s.recipe := by rw [endLong_eq]
@[simp] theorem endLong_cache : (endLong o r d1 d2 d3 s).cache = s.cache := by rw [endLong_eq]
@[simp] theorem endLong_hygiene : (endLong o r d1 d2 d3 s).hygiene = s.hygiene := by rw [endLong_eq]
@[simp] theorem endLong_service : (endLong o r d1 d2 d3 s).service = s.service := by rw [endLong_eq]
@[simp] theorem endLong_update : (endLong o r d1 d2 d3 s).update = s.update := by rw [endLong_eq]
@[simp] theorem endLong_report : (endLong o r d1 d2 d3 s).report = s.report := by rw [endLong_eq]

end

/-! ## The parts of the report -/

section
variable (e : Event) (s : State)

@[simp] theorem raiseEvent_journal : (raiseEvent e s).report.journal = s.report.journal := by
  unfold raiseEvent
  (repeat' split) <;> rfl
@[simp] theorem raiseEvent_gapPending : (raiseEvent e s).report.gapPending = s.report.gapPending := by
  unfold raiseEvent
  (repeat' split) <;> rfl
@[simp] theorem raiseEvent_clock : (raiseEvent e s).report.clock = s.report.clock := by
  unfold raiseEvent
  (repeat' split) <;> rfl

theorem raiseEvent_pendingSet {s : State} (h : s.hears = true) :
    (raiseEvent e s).report.pendingSet = raisedPending s.report.pendingSet e := by
  rw [raiseEvent_of_hears e h]
  rfl

end

/-- A raise touches of the report the rewrite list, the overrun set and the scratch mark. -/
theorem raiseCall_report (src : Source) (cause : Cause) (sev : Severity) (details : List Word) (s : State) :
    (raiseCall src cause sev details s).report = { s.report with
      rewriteList := (raiseCall src cause sev details s).report.rewriteList,
      overrunSet := (raiseCall src cause sev details s).report.overrunSet,
      summaryRaised := (raiseCall src cause sev details s).report.summaryRaised } := by
  unfold raiseCall joinCall markServiceOverrun oweSite
  (repeat' split) <;> rfl

section
variable (src : Source) (cause : Cause) (sev : Severity) (details : List Word) (s : State)

@[simp] theorem raiseCall_journal : (raiseCall src cause sev details s).report.journal = s.report.journal := by
  rw [raiseCall_report]
@[simp] theorem raiseCall_gapPending : (raiseCall src cause sev details s).report.gapPending = s.report.gapPending := by
  rw [raiseCall_report]
@[simp] theorem raiseCall_pendingSet : (raiseCall src cause sev details s).report.pendingSet = s.report.pendingSet := by
  rw [raiseCall_report]
@[simp] theorem raiseCall_clock : (raiseCall src cause sev details s).report.clock = s.report.clock := by
  rw [raiseCall_report]

end

section
variable (b : JBody) (s : State)

@[simp] theorem passJournal_pendingSet : (passJournal b s).report.pendingSet = s.report.pendingSet := by rw [passJournal_eq]
@[simp] theorem passJournal_clock : (passJournal b s).report.clock = s.report.clock := by rw [passJournal_eq]

end

/-! ## What a raise and an ended command depend on -/

/-- The call table after a raise depends on the table, the mode and the site clock alone. -/
theorem raiseCall_service_congr {src : Source} {cause : Cause} {sev : Severity} {details : List Word} {s t : State}
    (hm : t.mode = s.mode) (hs : t.service = s.service) (hc : t.report.clock = s.report.clock) :
    (raiseCall src cause sev details t).service = (raiseCall src cause sev details s).service := by
  unfold raiseCall joinCall markServiceOverrun oweSite State.running
  simp only [hm, hs, hc]
  (repeat' split) <;> simp only [hs]

/-- An entry changed before a raise or after it. -/
theorem raiseCall_setEnt (src : Source) (cause : Cause) (sev : Severity) (details : List Word) (s : State) (i : Slot) (e : Entry) :
    raiseCall src cause sev details (s.setEnt i e) = (raiseCall src cause sev details s).setEnt i e := by
  unfold raiseCall joinCall markServiceOverrun oweSite State.running State.setEnt
  dsimp only
  (repeat' split) <;> rfl

/-- The completions after a long command's end depend on the command unit alone. -/
theorem endLong_command_congr {o : LongObj} {r : ResultCode} {d1 d2 d3 : Word} {s t : State} (h : t.command = s.command) :
    (endLong o r d1 d2 d3 t).command = (endLong o r d1 d2 d3 s).command := by
  unfold endLong State.longOf
  rw [h]
  split
  · exact h
  · dsimp only
    split <;> simp [complete]

end Sys2Proof.Machine
end

section
/-! PROOF. The roster's timers: what an expiry does, and what a suspension and an oven's failure in a rollout come to there. -/

namespace Sys2Proof.Machine

/-! ## The rows -/

section
variable (i : Slot) {s : State} (hm : s.mode = .running)
include hm

theorem exec_silenceTimerExpiry : exec (.silenceTimerExpiry i) s =
    .next (finish s (settle (whenRunning (s.ent i).silence (silenceExpired i) s))) :=
  congrArg Host.Outcome.next (workEvent_running _ hm)

theorem exec_identResendExpiry : exec (.identResendExpiry i) s =
    .next (finish s (settle (whenRunning (s.ent i).identResend (identResendExpired i) s))) :=
  congrArg Host.Outcome.next (workEvent_running _ hm)

theorem exec_calibrationLimitExpiry : exec (.calibrationLimitExpiry i) s =
    .next (finish s (settle (whenRunning (s.ent i).calLimit (calLimitExpired i) s))) :=
  congrArg Host.Outcome.next (workEvent_running _ hm)

theorem exec_switchLimitExpiry : exec (.switchLimitExpiry i) s =
    .next (finish s (settle (whenRunning (s.ent i).upd.limit (switchLimitExpired i) s))) :=
  congrArg Host.Outcome.next (workEvent_running _ hm)

end

theorem whenRunning_some {t : Timer} (f : State → State) (s : State) (h : t ≠ none) : whenRunning t f s = f s :=
  if_pos (Option.isSome_iff_ne_none.mpr h)

theorem whenRunning_none {t : Timer} (f : State → State) (s : State) (h : t = none) : whenRunning t f s = s :=
  if_neg (by simp [h])

/-! ## Suspension -/

@[simp] theorem ent_leaveCleaning (i k : Slot) (s : State) : (leaveCleaning i s).ent k = s.ent k := rfl
@[simp] theorem ln_leaveCleaning (i : Slot) (l : LineNo) (s : State) : (leaveCleaning i s).ln l = s.ln l := rfl
@[simp] theorem rslot_leaveCleaning (i : Slot) (r : RecipeNo) (s : State) : (leaveCleaning i s).rslot r = s.rslot r := rfl
@[simp] theorem leaveCleaning_lines (i : Slot) (s : State) : (leaveCleaning i s).lines = s.lines := rfl
@[simp] theorem leaveCleaning_recipe (i : Slot) (s : State) : (leaveCleaning i s).recipe = s.recipe := rfl
@[simp] theorem leaveCleaning_cache (i : Slot) (s : State) : (leaveCleaning i s).cache = s.cache := rfl
@[simp] theorem leaveCleaning_service (i : Slot) (s : State) : (leaveCleaning i s).service = s.service := rfl
@[simp] theorem leaveCleaning_update (i : Slot) (s : State) : (leaveCleaning i s).update = s.update := rfl
@[simp] theorem leaveCleaning_command (i : Slot) (s : State) : (leaveCleaning i s).command = s.command := rfl
@[simp] theorem leaveCleaning_report (i : Slot) (s : State) : (leaveCleaning i s).report = s.report := rfl

/-- An entry that a cause suspends, its activity still to be dealt with (R18). -/
def Entry.stopped (e : Entry) (c : StopCause) : Entry := { e with state := .suspended, causes := e.causes ||| causeBit c }

theorem suspend_eq (i : Slot) (c : StopCause) (s : State) :
    suspend i c s =
      skipQueued i (reduceDirectory i (leaveCleaning i (suspendActivity i c (s.setEnt i ((s.ent i).stopped c))))) := rfl

theorem suspendActivity_idle {i : Slot} (c : StopCause) {s : State} (h : (s.ent i).activity = .idle) :
    suspendActivity i c s = s := by
  unfold suspendActivity
  rw [h]

theorem reduceDirectory_eq (i : Slot) (s : State) :
    reduceDirectory i s = s.setEnt i { s.ent i with dir := (s.ent i).reducedDir } := rfl

theorem Entry.reducedDir_of_ne {e : Entry} (h : e.activity ≠ .cooking) : e.reducedDir = [] := by
  unfold Entry.reducedDir
  split
  next hc _ => exact absurd hc h
  next => rfl

theorem Entry.reducedDir_cooking {e : Entry} {k : CookRec} (h : e.activity = .cooking) (hk : e.cook = some k) :
    e.reducedDir = e.dir.filter (fun x => x.recipe == k.recipe) := by
  unfold Entry.reducedDir
  rw [h, hk]

theorem reduceDirectory_of_ne {i : Slot} {s : State} (h : (s.ent i).activity ≠ .cooking) :
    reduceDirectory i s = s.setEnt i { s.ent i with dir := [] } := by
  rw [reduceDirectory_eq, Entry.reducedDir_of_ne h]

/-- Leaving the cleaning queue and changing an entry do not meet. -/
theorem leaveCleaning_setEnt (i k : Slot) (e : Entry) (s : State) :
    leaveCleaning i (s.setEnt k e) = (leaveCleaning i s).setEnt k e := rfl

/-- An oven that does nothing and that no rollout has queued is stopped, forgets its directory and leaves the cleaning queue. -/
theorem suspend_idle {i : Slot} (c : StopCause) {s : State} (hidle : (s.ent i).activity = .idle)
    (hq : (s.ent i).upd.state ≠ .queued) :
    suspend i c s = leaveCleaning i (s.setEnt i { (s.ent i).stopped c with dir := [] }) := by
  have hent : ((s.setEnt i ((s.ent i).stopped c)).ent i).activity = .idle := by rw [State.ent_setEnt_self]; exact hidle
  rw [suspend_eq, suspendActivity_idle c hent, reduceDirectory_of_ne (by rw [ent_leaveCleaning, hent]; nofun),
    ent_leaveCleaning, State.ent_setEnt_self, leaveCleaning_setEnt, State.setEnt_setEnt,
    skipQueued_of_ne (by rw [State.ent_setEnt_self]; exact hq)]
  rfl

/-! ## Silence -/

theorem detail?_eq (w : Option Word) : detail? w = w.getD 0x80000000 := by cases w <;> rfl

theorem silentDetails_inService (e : Entry) :
    silentDetails e .inService = [e.lastReply.getD 0x80000000, BitVec.ofNat 32 e.failures, 5] := by
  rw [← detail?_eq]
  rfl

section
variable {i : Slot} {s : State}

/-- The state with the silence timer stopped. -/
def State.silenced (s : State) (i : Slot) : State := s.setEnt i { s.ent i with silence := none }

theorem silenceExpired_inService (h : (s.ent i).state = .inService) (hu : (s.ent i).upd.state ≠ .switching) :
    silenceExpired i s = suspend i .silent (raiseCall (.oven i) .silent .stop
      [(s.ent i).lastReply.getD 0x80000000, BitVec.ofNat 32 (s.ent i).failures, 5] (s.silenced i)) := by
  rw [← silentDetails_inService]
  unfold silenceExpired
  dsimp only
  rw [State.ent_modEnt_self]
  simp only [h]
  exact if_neg hu

theorem silenceExpired_switching (h : (s.ent i).state = .inService) (hu : (s.ent i).upd.state = .switching) :
    silenceExpired i s = s.silenced i := by
  unfold silenceExpired
  dsimp only
  rw [State.ent_modEnt_self]
  simp only [h]
  exact if_pos hu

theorem silenceExpired_other (h : (s.ent i).state ≠ .inService) (h' : (s.ent i).state ≠ .suspended) :
    silenceExpired i s = s.silenced i := by
  unfold silenceExpired
  dsimp only
  rw [State.ent_modEnt_self]
  split
  next hc => exact absurd hc h
  next hc => exact absurd hc h'
  next => rfl

theorem silenceExpired_suspended (h : (s.ent i).state = .suspended) (hc : (s.ent i).activity ≠ .cooking)
    (hc' : (s.ent i).activity ≠ .cleaning) : silenceExpired i s = s.silenced i := by
  unfold silenceExpired
  dsimp only
  rw [State.ent_modEnt_self]
  simp only [h]
  rfl

theorem silenceExpired_cooking (h : (s.ent i).state = .suspended) (hc : (s.ent i).activity = .cooking) :
    silenceExpired i s = closeCookUnknown i (s.silenced i) := by
  unfold silenceExpired
  dsimp only
  rw [State.ent_modEnt_self]
  simp only [h, hc]
  rfl

theorem silenceExpired_cleaning (h : (s.ent i).state = .suspended) (hc : (s.ent i).activity = .cleaning) :
    silenceExpired i s = closeCleaningUnknown i (s.silenced i) := by
  unfold silenceExpired
  dsimp only
  rw [State.ent_modEnt_self]
  simp only [h, hc]
  rfl

end

/-! ## Closed by silence -/

/-- The journal record of a cook that ends now. -/
def State.cookJournal (s : State) (i : Slot) (k : CookRec) (o : CookOutcome) (steps : Byte) : JBody :=
  .cook { slot := i, origin := k.origin, tag := k.tag, recipe := k.recipe, version := k.version, token := k.token,
          start := k.start, stop := s.report.clock, outcome := o, steps := steps }

theorem closeCook_eq (i : Slot) (k : CookRec) (o : CookOutcome) (steps : Byte) (s : State) :
    closeCook i k o steps s = passJournal (s.cookJournal i k o steps)
      ((s.setEnt i { s.ent i with cook := none }).setRslot k.recipe
        { s.rslot k.recipe with pins := (s.rslot k.recipe).pins - 1 }) := rfl

/-- The entry of an oven whose cook or cleaning was closed: it is idle, with no abort mark. -/
theorem toIdle_eq (i : Slot) (s : State) :
    toIdle i s = s.setEnt i { s.ent i with activity := .idle, abortMark := .unset } := rfl

theorem passJournal_setEnt (b : JBody) (s : State) (i : Slot) (e : Entry) :
    passJournal b (s.setEnt i e) = (passJournal b s).setEnt i e := by
  unfold passJournal State.setEnt
  dsimp only
  (repeat' split) <;> rfl

theorem setRslot_setEnt (s : State) (i : Slot) (e : Entry) (r : RecipeNo) (x : RecipeSlot) :
    (s.setEnt i e).setRslot r x = (s.setRslot r x).setEnt i e := rfl

/-- R107: the journal record is passed, the pin count falls, the oven is idle and its directory empty. -/
theorem closeCookUnknown_some {i : Slot} {s : State} {k : CookRec} (hk : (s.ent i).cook = some k) :
    closeCookUnknown i s = (passJournal (s.cookJournal i k .unknown k.step) (s.setRslot k.recipe
      { s.rslot k.recipe with pins := (s.rslot k.recipe).pins - 1 })).setEnt i
        { s.ent i with cook := none, activity := .idle, abortMark := .unset, dir := [] } := by
  unfold closeCookUnknown
  rw [hk]
  dsimp only
  rw [closeCook_eq, setRslot_setEnt, passJournal_setEnt, toIdle_eq, State.ent_setEnt_self, State.setEnt_setEnt,
    reduceDirectory_of_ne (by rw [State.ent_setEnt_self]; nofun), State.ent_setEnt_self, State.setEnt_setEnt]

/-- The journal record of a cleaning that ends unobserved. -/
def State.cleanJournal (s : State) (i : Slot) (k : CleanRec) : JBody :=
  .clean { slot := i, origin := k.origin, program := k.program, queued := k.queued, start := some k.start,
           stop := s.report.clock, outcome := .unknown, phases := k.phases, maximum := k.maximum, seconds := k.seconds,
           count := (s.ent i).count }

/-- R128: the journal record is passed and the oven is idle. -/
theorem closeCleaningUnknown_some {i : Slot} {s : State} {k : CleanRec} (hk : (s.ent i).cleaning = some k) :
    closeCleaningUnknown i s = (passJournal (s.cleanJournal i k) s).setEnt i
      { s.ent i with cleaning := none, activity := .idle, abortMark := .unset } := by
  unfold closeCleaningUnknown endCleaning
  rw [hk]
  dsimp only
  rw [toIdle_eq, State.modEnt, State.ent_setEnt_self, State.setEnt_setEnt]
  exact congrArg (State.setEnt _ i) (by rw [show (passCleanOf i k .unknown s).ent i = s.ent i from ent_passJournal _ _ i])

/-! ## The other timers -/

section
variable {i : Slot} {s : State}

theorem identResendExpired_asks (h : (s.ent i).state = .identifying ∨ (s.ent i).state = .revalidating) :
    identResendExpired i s = sendTo i .roster .identReq (s.setEnt i { s.ent i with identResend := none }) := by
  unfold identResendExpired
  dsimp only
  rw [State.ent_modEnt_self]
  exact if_pos h

theorem identResendExpired_other (h : (s.ent i).state ≠ .identifying) (h' : (s.ent i).state ≠ .revalidating) :
    identResendExpired i s = s.setEnt i { s.ent i with identResend := none } := by
  unfold identResendExpired
  dsimp only
  rw [State.ent_modEnt_self]
  exact if_neg fun hc => hc.elim h h'

theorem calLimitExpired_calibrating (h : (s.ent i).state = .calibrating) :
    calLimitExpired i s = calFail i none .limit s := if_pos h

theorem switchLimitExpired_switching (h : (s.ent i).upd.state = .switching) :
    switchLimitExpired i s = switchExpired i s := if_pos h

end

end Sys2Proof.Machine
end

section
/-! PROOF. An oven's failure in a rollout (R162), part by part. -/

namespace Sys2Proof.Machine
/-! ## An oven's failure in a rollout -/

theorem ReportWriter.passed_congr {r q : ReportWriter} {a b : JBody} (hj : r.journal = q.journal)
    (hg : r.gapPending = q.gapPending) (hb : a = b) : r.passed a = q.passed b := by
  subst hb
  unfold ReportWriter.passed
  rw [hj, hg]

/-- The state of a failed oven before its raises: the image stream and the SWITCH are gone, and the masks know it. -/
def failedState (i : Slot) (why : UpdReason) (s : State) : State :=
  markFailed i (leaveUpdating i .failed ((removeTelegrams (isSwitchTo i) (dropImageStream i s)).modUpd i fun u =>
    { u with reason := some why }))

theorem failOven_raises (i : Slot) (why : UpdReason) (block : Option Nat) (fourth : Option Word) (reported : Option Half) (s : State) :
    failOven i why block fourth reported s = raiseEvent .rollout (passUpdate i .failed reported (s.blocksAcked i) (some why)
      (if why = .switchLimit then failedState i why s
       else raiseCall (.oven i) .updateFail .urgent (updateFailDetails why block s.update.rollout.level fourth)
         (failedState i why s))) := rfl

/-- The entry of a failed oven (R162). -/
def Entry.failedUpdate (e : Entry) (why : UpdReason) : Entry :=
  { e.leftUpdating .failed with upd := { (e.leftUpdating .failed).upd with reason := some why } }

theorem failedState_eq (i : Slot) (why : UpdReason) (s : State) :
    failedState i why s = { dropImageStream i s with
      lines := (removeTelegrams (isSwitchTo i) (dropImageStream i s)).lines
      roster := (s.setEnt i ((s.ent i).failedUpdate why)).roster
      update := { (dropImageStream i s).update with
        rollout := { s.update.rollout with failed := s.update.rollout.failed ||| slotBit i } } } := by
  unfold failedState
  rw [leaveUpdating_eq, State.modUpd, State.modEnt, State.setEnt_setEnt, State.ent_setEnt_self]
  have h := dropImageStream_eq i s
  generalize dropImageStream i s = y at h ⊢
  rw [h]
  rfl


section
variable (i : Slot) (why : UpdReason) (s : State)

theorem failedState_report : (failedState i why s).report = s.report := by
  rw [failedState_eq, dropImageStream_eq]

theorem failedState_service : (failedState i why s).service = s.service := by
  rw [failedState_eq, dropImageStream_eq]

theorem failedState_hygiene : (failedState i why s).hygiene = s.hygiene := by
  rw [failedState_eq, dropImageStream_eq]

theorem failedState_mode : (failedState i why s).mode = s.mode := by
  rw [failedState_eq, dropImageStream_eq]

theorem failedState_hears : (failedState i why s).hears = s.hears := by
  rw [failedState_eq, dropImageStream_eq]
  rfl

theorem failedState_rollout : (failedState i why s).update.rollout =
    { s.update.rollout with failed := s.update.rollout.failed ||| slotBit i } := by
  rw [failedState_eq]

theorem ent_failedState (k : Slot) : (failedState i why s).ent k = if k = i then (s.ent i).failedUpdate why else s.ent k := by
  rw [← State.ent_setEnt, failedState_eq]
  rfl

end

section
variable (i : Slot) (why : UpdReason) (block : Option Nat) (fourth : Option Word) (reported : Option Half) (s : State)

theorem ent_failOven (k : Slot) :
    (failOven i why block fourth reported s).ent k = if k = i then (s.ent i).failedUpdate why else s.ent k := by
  rw [← State.ent_setEnt, failOven_eq]
  rfl

theorem failOven_rollout : (failOven i why block fourth reported s).update.rollout =
    { s.update.rollout with failed := s.update.rollout.failed ||| slotBit i } := by
  rw [failOven_eq]

theorem failOven_mode : (failOven i why block fourth reported s).mode = s.mode := by
  rw [failOven_eq, dropImageStream_eq]

theorem failOven_hygiene : (failOven i why block fourth reported s).hygiene = s.hygiene := by
  rw [failOven_eq, dropImageStream_eq]

/-- The journal record of an oven's failure. -/
def State.failJournal : JBody :=
  .update { slot := i, outcome := .failed, level := s.update.rollout.level, check := s.update.rollout.check,
            prev := (s.ent i).upd.prevLevel, reported := reported, picked := (s.ent i).upd.picked, stop := s.report.clock,
            blocks := s.blocksAcked i, reason := some why }

theorem failOven_passed :
    ((failOven i why block fourth reported s).report.journal, (failOven i why block fourth reported s).report.gapPending) =
      s.report.passed (State.failJournal i why reported s) := by
  rw [failOven_raises, raiseEvent_journal, raiseEvent_gapPending]
  unfold passUpdate
  rw [passJournal_passed]
  split <;> refine ReportWriter.passed_congr ?_ ?_ ?_ <;>
    simp [failedState_report, failedState_rollout, ent_failedState, State.failJournal, Entry.failedUpdate, Entry.leftUpdating]

theorem failOven_clock : (failOven i why block fourth reported s).report.clock = s.report.clock := by
  rw [failOven_raises, raiseEvent_clock]
  unfold passUpdate
  rw [passJournal_clock]
  split <;> simp [failedState_report]

theorem failOven_pendingSet (h : s.hears = true) :
    (failOven i why block fourth reported s).report.pendingSet = raisedPending s.report.pendingSet .rollout := by
  rw [failOven_raises, raiseEvent_pendingSet]
  · unfold passUpdate
    rw [passJournal_pendingSet]
    split <;> simp [failedState_report]
  · rw [← failedState_hears i why s] at h
    unfold passUpdate
    unfold State.hears State.running at h ⊢
    rw [passJournal_mode, passJournal_hrst]
    split <;> simpa using h

/-- At a switch limit the call of the failure is left to the caller (R161). -/
theorem failOven_switchLimit_service : (failOven i .switchLimit block fourth reported s).service = s.service := by
  rw [failOven_raises, if_pos rfl, raiseEvent_service]
  unfold passUpdate
  rw [passJournal_service, failedState_service]

end
end Sys2Proof.Machine
end

section
/-! PROOF. The roster's timers expire. -/

namespace Sys2Proof.Machine

/-! ## The switch limit (R161) -/

/-- The failure of the oven and its call, before the suspension. -/
def State.switchOverdue (s : State) (i : Slot) : State :=
  raiseCall (.oven i) .updateFail .stop
    [8, 0x80000000, s.update.rollout.level.setWidth 32, BitVec.ofNat 32 (s.ent i).upd.failedIdents]
    (failOven i .switchLimit none (some (natWord (s.ent i).upd.failedIdents)) none s)

theorem switchExpired_suspends (s : State) (i : Slot) : switchExpired i s = suspend i .update (s.switchOverdue i) := rfl

theorem ent_switchOverdue (s : State) (i : Slot) : (s.switchOverdue i).ent i = (s.ent i).failedUpdate .switchLimit := by
  rw [State.switchOverdue, ent_raiseCall, ent_failOven, if_pos rfl]

/-- The oven failed and stands idle, and is then suspended as any idle oven. -/
theorem switchExpired_eq (s : State) (i : Slot) :
    switchExpired i s = leaveCleaning i ((s.switchOverdue i).setEnt i
      { ((s.ent i).failedUpdate .switchLimit).stopped .update with dir := [] }) := by
  have hent := ent_switchOverdue s i
  have hidle : ((s.switchOverdue i).ent i).activity = .idle := by rw [hent]; rfl
  have hq : ((s.switchOverdue i).ent i).upd.state ≠ .queued := by rw [hent]; exact (nofun : UpdState.failed ≠ .queued)
  rw [← hent, switchExpired_suspends]
  exact suspend_idle .update hidle hq

/-- The report writer after the expiry is the one after the failure, but for what a raise may list. -/
theorem switchExpired_report (s : State) (i : Slot) :
    (switchExpired i s).report.journal = (s.switchOverdue i).report.journal ∧
      (switchExpired i s).report.gapPending = (s.switchOverdue i).report.gapPending ∧
      (switchExpired i s).report.pendingSet = (s.switchOverdue i).report.pendingSet := by
  rw [switchExpired_eq]
  exact ⟨rfl, rfl, rfl⟩

theorem switchExpired_service (s : State) (i : Slot) : (switchExpired i s).service =
    (raiseCall (.oven i) .updateFail .stop
      [8, 0x80000000, s.update.rollout.level.setWidth 32, BitVec.ofNat 32 (s.ent i).upd.failedIdents] s).service := by
  rw [switchExpired_eq, leaveCleaning_service, State.setEnt_service, State.switchOverdue]
  exact raiseCall_service_congr (failOven_mode ..) (failOven_switchLimit_service ..) (failOven_clock ..)

theorem switchExpired_failed (s : State) (i : Slot) :
    (switchExpired i s).update.rollout.failed = s.update.rollout.failed ||| (1 <<< i.val) := by
  rw [switchExpired_eq, leaveCleaning_update, State.setEnt_update, State.switchOverdue, raiseCall_update, failOven_rollout]
  rfl

theorem blocksAcked_switching {s : State} {i : Slot} (h : (s.ent i).upd.state = .switching) :
    s.blocksAcked i = (s.update.rollout.length + 63) / 64 := if_pos (.inl h)

end Sys2Proof.Machine

open Sys2Proof.Machine in
/-- Settles O34: each timer's expiry by the state of its oven. -/
theorem rosterTimersExpire : Obligations.RosterTimersExpire := by
  unfold Obligations.RosterTimersExpire
  intro i s hm
  have silence {y : State} (hrun : (s.ent i).silence ≠ none) (h : silenceExpired i s = y) :
      ∃ t, exec (.silenceTimerExpiry i) s = .next t ∧ t.EndsAs (settle y) :=
    row_endsAs (exec_silenceTimerExpiry i hm) (by rw [whenRunning_some _ _ hrun, h])
  refine ⟨fun hrun => ⟨fun hs hu hq hidle => ?idle, fun hs hs' => silence hrun (silenceExpired_other hs hs'),
      fun hs hu => silence hrun (silenceExpired_inService hs hu), fun hs hu => silence hrun (silenceExpired_switching hs hu),
      fun hs hc hc' => silence hrun (silenceExpired_suspended hs hc hc'), fun k hs ha hk => ?cooking,
      fun k hs ha hk => ?cleaning⟩,
    fun hrun => ⟨fun hs => ?resend, fun hs hs' => ?noResend⟩, fun hrun hs => ?calLimit, fun hrun hu => ?switchLimit,
    fun hnone => ?_, fun hnone => ?_, fun hnone => ?_, fun hnone => ?_⟩
  case idle =>
    refine silence hrun ((silenceExpired_inService hs hu).trans ?_)
    have hrange := ent_raiseCall (.oven i) .silent .stop
      [(s.ent i).lastReply.getD 0x80000000, BitVec.ofNat 32 (s.ent i).failures, 5] (s.silenced i) i
    rw [State.silenced, State.ent_setEnt_self] at hrange
    rw [suspend_idle .silent (by rw [State.silenced, hrange]; exact hidle) (by rw [State.silenced, hrange]; exact hq),
      State.silenced, hrange, raiseCall_setEnt, State.setEnt_setEnt]
    rfl
  case cooking =>
    have hclosed : whenRunning (s.ent i).silence (silenceExpired i) s = closeCookUnknown i (s.silenced i) :=
      (whenRunning_some _ _ hrun).trans (silenceExpired_cooking hs ha)
    have hx := closeCookUnknown_some (s := s.silenced i) (i := i) (k := k) (by rw [State.silenced, State.ent_setEnt_self]; exact hk)
    refine ⟨_, closeCookUnknown i (s.silenced i), exec_silenceTimerExpiry i hm, hclosed ▸ finish_ends s _, ?_⟩
    rw [hx]
    refine ⟨?_, ?_, ?_, ?_, ?_⟩
    · rw [State.ent_setEnt_self, State.silenced, State.ent_setEnt_self]
    · simp [State.silenced]
    · exact passJournal_passed _ _
    · simp [State.silenced]
    · simp [State.silenced]
  case cleaning =>
    have hclosed : whenRunning (s.ent i).silence (silenceExpired i) s = closeCleaningUnknown i (s.silenced i) :=
      (whenRunning_some _ _ hrun).trans (silenceExpired_cleaning hs ha)
    have hx := closeCleaningUnknown_some (s := s.silenced i) (i := i) (k := k)
      (by rw [State.silenced, State.ent_setEnt_self]; exact hk)
    refine ⟨_, closeCleaningUnknown i (s.silenced i), exec_silenceTimerExpiry i hm, hclosed ▸ finish_ends s _, ?_⟩
    rw [hx]
    refine ⟨?_, ?_, ?_, ?_⟩
    · rw [State.ent_setEnt_self, State.silenced, State.ent_setEnt_self]
    · refine (passJournal_passed _ _).trans (ReportWriter.passed_congr rfl rfl ?_)
      rw [State.cleanJournal, State.silenced, State.ent_setEnt_self]
      rfl
    · simp [State.silenced]
    · simp [State.silenced]
  case resend =>
    refine row_endsAs (exec_identResendExpiry i hm) (congrArg settle ?_)
    rw [whenRunning_some _ _ hrun, identResendExpired_asks hs, sendTo_setEnt]
    rfl
  case noResend =>
    exact row_endsAs (exec_identResendExpiry i hm)
      (congrArg settle ((whenRunning_some _ _ hrun).trans (identResendExpired_other hs hs')))
  case calLimit =>
    exact row_endsAs (exec_calibrationLimitExpiry i hm)
      (congrArg settle ((whenRunning_some _ _ hrun).trans (calLimitExpired_calibrating hs)))
  case switchLimit =>
    have hexpired : whenRunning (s.ent i).upd.limit (switchLimitExpired i) s = switchExpired i s :=
      (whenRunning_some _ _ hrun).trans (switchLimitExpired_switching hu)
    have hx := switchExpired_eq s i
    obtain ⟨hjournal, hgap, hpending⟩ := switchExpired_report s i
    have hent : (switchExpired i s).ent i = { ((s.ent i).failedUpdate .switchLimit).stopped .update with dir := [] } := by
      rw [hx, ent_leaveCleaning, State.ent_setEnt_self]
    refine ⟨_, switchExpired i s, exec_switchLimitExpiry i hm, hexpired ▸ finish_ends s _, ?_, ?_, ?_, ?_, ?_, ?_, ?_, ?_, ?_, ?_, ?_⟩
    · rw [hent]; rfl
    · rw [hent]; rfl
    · rw [hent]; rfl
    · rw [hent]; rfl
    · rw [hent]; rfl
    · rw [hent]; rfl
    · rw [hent]
    · exact switchExpired_failed s i
    · exact switchExpired_service s i
    · rw [hjournal, hgap, State.switchOverdue, raiseCall_journal, raiseCall_gapPending, failOven_passed, State.failJournal,
        blocksAcked_switching hu]
    · intro hh
      rw [hpending, State.switchOverdue, raiseCall_pendingSet, failOven_pendingSet]
      simp [State.hears, State.running, hm, hh]
  · exact row_endsAs (exec_silenceTimerExpiry i hm) (congrArg settle (whenRunning_none _ _ hnone))
  · exact row_endsAs (exec_identResendExpiry i hm) (congrArg settle (whenRunning_none _ _ hnone))
  · exact row_endsAs (exec_calibrationLimitExpiry i hm) (congrArg settle (whenRunning_none _ _ hnone))
  · exact row_endsAs (exec_switchLimitExpiry i hm) (congrArg settle (whenRunning_none _ _ hnone))
end

section
/-! PROOF. Suspension (R18-R21): what surrounds the end of the activity, part by part. -/

namespace Sys2Proof.Machine

/-! ## Leaving a rollout's queue (R163) -/

theorem markSkipped_eq (i : Slot) (s : State) : markSkipped i s = { s with
    update := { s.update with rollout := { s.update.rollout with skipped := s.update.rollout.skipped ||| (1 <<< i.val) } } } := rfl

/-- The update record of an oven that leaves a rollout's queue. -/
def UpdRec.unqueued (u : UpdRec) : UpdRec := if u.state = .queued then { u with state := .skipped } else u

theorem UpdRec.unqueued_of_ne {u : UpdRec} (h : u.state ≠ .queued) : u.unqueued = u := if_neg h

theorem skipQueued_of_queued {i : Slot} {s : State} (h : (s.ent i).upd.state = .queued) :
    skipQueued i s = raiseEvent .rollout (markSkipped i
      (s.setEnt i { s.ent i with upd := { (s.ent i).upd with state := .skipped } })) := if_pos h

theorem ent_skipQueued (i : Slot) (s : State) :
    (skipQueued i s).ent i = { s.ent i with upd := (s.ent i).upd.unqueued } := by
  by_cases h : (s.ent i).upd.state = .queued
  · rw [skipQueued_of_queued h, ent_raiseEvent, UpdRec.unqueued, if_pos h]
    exact State.ent_setEnt_self ..
  · rw [skipQueued_of_ne h, UpdRec.unqueued_of_ne h]

section
variable (i : Slot) (s : State)

@[simp] theorem ln_skipQueued (l : LineNo) : (skipQueued i s).ln l = s.ln l := by
  unfold skipQueued
  split
  · exact ln_raiseEvent ..
  · rfl
@[simp] theorem rslot_skipQueued (r : RecipeNo) : (skipQueued i s).rslot r = s.rslot r := by
  unfold skipQueued
  split
  · exact rslot_raiseEvent ..
  · rfl
@[simp] theorem skipQueued_lines : (skipQueued i s).lines = s.lines := by
  unfold skipQueued
  split
  · exact raiseEvent_lines ..
  · rfl
@[simp] theorem skipQueued_recipe : (skipQueued i s).recipe = s.recipe := by
  unfold skipQueued
  split
  · exact raiseEvent_recipe ..
  · rfl
@[simp] theorem skipQueued_cache : (skipQueued i s).cache = s.cache := by
  unfold skipQueued
  split
  · exact raiseEvent_cache ..
  · rfl
@[simp] theorem skipQueued_hygiene : (skipQueued i s).hygiene = s.hygiene := by
  unfold skipQueued
  split
  · exact raiseEvent_hygiene ..
  · rfl
@[simp] theorem skipQueued_service : (skipQueued i s).service = s.service := by
  unfold skipQueued
  split
  · exact raiseEvent_service ..
  · rfl
@[simp] theorem skipQueued_command : (skipQueued i s).command = s.command := by
  unfold skipQueued
  split
  · exact raiseEvent_command ..
  · rfl
@[simp] theorem skipQueued_journal : (skipQueued i s).report.journal = s.report.journal := by
  unfold skipQueued
  split
  · exact raiseEvent_journal ..
  · rfl
@[simp] theorem skipQueued_gapPending : (skipQueued i s).report.gapPending = s.report.gapPending := by
  unfold skipQueued
  split
  · exact raiseEvent_gapPending ..
  · rfl

end

theorem skipQueued_update {i : Slot} {s : State} (h : (s.ent i).upd.state = .queued) : (skipQueued i s).update =
    { s.update with rollout := { s.update.rollout with skipped := s.update.rollout.skipped ||| (1 <<< i.val) } } := by
  rw [skipQueued_of_queued h, raiseEvent_update]
  rfl

theorem skipQueued_pendingSet {i : Slot} {s : State} (h : (s.ent i).upd.state = .queued) (hs : s.hears = true) :
    (skipQueued i s).report.pendingSet = raisedPending s.report.pendingSet .rollout := by
  rw [skipQueued_of_queued h, raiseEvent_pendingSet .rollout (by exact hs)]
  rfl

/-! ## The suspension around its activity -/

/-- The state as the activity of a suspended oven is dealt with: the entry is SUSPENDED by its cause already. -/
def State.suspending (s : State) (i : Slot) (c : StopCause) : State := s.setEnt i ((s.ent i).stopped c)

@[simp] theorem State.ent_suspending (s : State) (i : Slot) (c : StopCause) : (s.suspending i c).ent i = (s.ent i).stopped c :=
  State.ent_setEnt_self ..

/-- The entry's end of a suspension: the directory is reduced (R21), and the oven leaves a rollout's queue (R163). -/
def Entry.afterSuspension (e : Entry) : Entry := { e with dir := e.reducedDir, upd := e.upd.unqueued }

section
variable (i : Slot) (c : StopCause) (s : State)

theorem ent_suspend :
    (suspend i c s).ent i = ((suspendActivity i c (s.suspending i c)).ent i).afterSuspension := by
  rw [suspend_eq, ent_skipQueued, reduceDirectory_eq, State.ent_setEnt_self]
  rfl

theorem suspend_lines : (suspend i c s).lines = (suspendActivity i c (s.suspending i c)).lines := by
  rw [suspend_eq, skipQueued_lines]
  rfl

theorem ln_suspend (l : LineNo) : (suspend i c s).ln l = (suspendActivity i c (s.suspending i c)).ln l :=
  State.ln_congr (suspend_lines i c s) l

theorem suspend_waitingOn (l : LineNo) : (suspend i c s).waitingOn l = (suspendActivity i c (s.suspending i c)).waitingOn l := by
  unfold State.waitingOn
  rw [ln_suspend]

theorem suspend_recipe : (suspend i c s).recipe = (suspendActivity i c (s.suspending i c)).recipe := by
  rw [suspend_eq, skipQueued_recipe]
  rfl

theorem rslot_suspend (r : RecipeNo) : (suspend i c s).rslot r = (suspendActivity i c (s.suspending i c)).rslot r :=
  State.rslot_congr (suspend_recipe i c s) r

theorem suspend_service : (suspend i c s).service = (suspendActivity i c (s.suspending i c)).service := by
  rw [suspend_eq, skipQueued_service]
  rfl

theorem suspend_command : (suspend i c s).command = (suspendActivity i c (s.suspending i c)).command := by
  rw [suspend_eq, skipQueued_command]
  rfl

theorem suspend_journal :
    (suspend i c s).report.journal = (suspendActivity i c (s.suspending i c)).report.journal := by
  rw [suspend_eq, skipQueued_journal]
  rfl

theorem suspend_gapPending :
    (suspend i c s).report.gapPending = (suspendActivity i c (s.suspending i c)).report.gapPending := by
  rw [suspend_eq, skipQueued_gapPending]
  rfl

/-- The cleaning queue without the oven. -/
def HygieneUnit.without (h : HygieneUnit) (i : Slot) : HygieneUnit := { h with queue := h.queue.filter (fun w => w.slot != i) }

theorem suspend_hygiene :
    (suspend i c s).hygiene = (suspendActivity i c (s.suspending i c)).hygiene.without i := by
  rw [suspend_eq, skipQueued_hygiene]
  rfl

end

end Sys2Proof.Machine
end

section
/-! PROOF. What the report of an abandoned fill, and the commit it may let happen, leave alone. -/

namespace Sys2Proof.Machine

/-! ## Entries put back unchanged -/

theorem State.setEnt_ent (s : State) (i : Slot) : s.setEnt i (s.ent i) = s := by
  simp [State.setEnt, State.ent]

/-! ## The work of a fill's report -/

/-- Work that leaves the hygiene unit, the update unit and the event sets, and of every entry all but its directory; and that
gives no line a fill. -/
structure FillWork (s t : State) : Prop where
  hygiene : t.hygiene = s.hygiene
  update  : t.update = s.update
  pending : t.report.pendingSet = s.report.pendingSet
  hears   : t.hears = s.hears
  ents    : ∀ k : Slot, ∃ d, t.ent k = { s.ent k with dir := d }
  fills   : ∀ n : LineNo, (s.ln n).fill = none → (t.ln n).fill = none

namespace FillWork
variable {s t u : State}

theorem refl (s : State) : FillWork s s := ⟨rfl, rfl, rfl, rfl, fun k => ⟨(s.ent k).dir, rfl⟩, fun _ => id⟩

theorem trans (h : FillWork s t) (k : FillWork t u) : FillWork s u where
  hygiene := k.hygiene.trans h.hygiene
  update := k.update.trans h.update
  pending := k.pending.trans h.pending
  hears := k.hears.trans h.hears
  ents i := by
    obtain ⟨d, hd⟩ := h.ents i
    obtain ⟨d', hd'⟩ := k.ents i
    exact ⟨d', by rw [hd', hd]⟩
  fills n := k.fills n ∘ h.fills n

/-- Work that leaves the roster too. -/
theorem of_roster (hy : t.hygiene = s.hygiene) (hu : t.update = s.update) (hp : t.report.pendingSet = s.report.pendingSet)
    (hh : t.hears = s.hears) (hr : t.roster = s.roster) (hf : ∀ n : LineNo, (s.ln n).fill = none → (t.ln n).fill = none) :
    FillWork s t := ⟨hy, hu, hp, hh, fun k => ⟨(s.ent k).dir, State.ent_congr hr k⟩, hf⟩

theorem foldl {α : Type} {f : State → α → State} (hf : ∀ s a, FillWork s (f s a)) (l : List α) (s : State) :
    FillWork s (l.foldl f s) := by
  induction l generalizing s with
  | nil => exact refl s
  | cons a t ih => exact (hf s a).trans (ih (f s a))

theorem modDir (s : State) (i : Slot) (f : List DirEntry → List DirEntry) : FillWork s (s.modDir i f) where
  hygiene := rfl
  update := rfl
  pending := rfl
  hears := rfl
  ents k := by
    unfold State.modDir
    rw [State.ent_modEnt]
    by_cases h : k = i
    · subst h
      exact ⟨f (s.ent k).dir, if_pos rfl⟩
    · exact ⟨(s.ent k).dir, if_neg h⟩
  fills _ := id

theorem queueUrgent (l : LineNo) (q : Queued) (s : State) : FillWork s (queueUrgent l q s) := by
  refine of_roster rfl rfl rfl rfl rfl fun n h => ?_
  unfold Machine.queueUrgent
  rw [State.ln_modLn]
  split
  · next hn =>
    subst hn
    split <;> exact h
  · exact h

theorem modRslot (s : State) (r : RecipeNo) (f : RecipeSlot → RecipeSlot) : FillWork s (s.modRslot r f) :=
  of_roster rfl rfl rfl rfl rfl fun _ => id

theorem endLong (o : LongObj) (c : ResultCode) (d1 d2 d3 : Word) (s : State) : FillWork s (endLong o c d1 d2 d3 s) := by
  rw [endLong_eq]
  exact of_roster rfl rfl rfl rfl rfl fun _ => id

theorem raiseCall (src : Source) (cause : Cause) (sev : Severity) (details : List Word) (s : State) :
    FillWork s (raiseCall src cause sev details s) := by
  refine of_roster ?_ ?_ ?_ ?_ ?_ fun n => ?_
  · exact raiseCall_hygiene ..
  · exact raiseCall_update ..
  · exact raiseCall_pendingSet ..
  · rw [raiseCall_eq]; rfl
  · rw [raiseCall_eq]
  · rw [ln_raiseCall]; exact id

theorem setFill_none (l : LineNo) (s : State) : FillWork s (setFill l none s) := by
  refine of_roster rfl rfl rfl rfl rfl fun n h => ?_
  unfold setFill
  rw [State.ln_modLn]
  split
  · rfl
  · exact h

theorem staleAt (r : RecipeNo) (s : State) (i : Slot) : FillWork s (staleAt r s i) := by
  unfold Machine.staleAt
  split
  · exact refl s
  · split
    · exact modDir ..
    · split
      · exact modDir ..
      · exact (modDir ..).trans (queueUrgent ..)

theorem markFillsStale (r : RecipeNo) (s : State) : FillWork s (markFillsStale r s) := by
  refine of_roster rfl rfl rfl rfl rfl fun n h => ?_
  simp only [Machine.markFillsStale, State.ln, Fin.getElem_fin, Vector.getElem_map] at h ⊢
  rw [h]
  rfl

theorem staleRecipe (r : RecipeNo) (s : State) : FillWork s (staleRecipe r s) :=
  (foldl (staleAt r) slots s).trans (markFillsStale r _)

theorem releaseWaits (r : RecipeNo) (s : State) : FillWork s (releaseWaits r s) := by
  refine of_roster rfl rfl rfl rfl rfl fun n h => ?_
  simp only [Machine.releaseWaits, State.ln, Fin.getElem_fin, Vector.getElem_map] at h ⊢
  exact h

theorem commitNotice (r : RecipeNo) (g : Gate) (s : State) : FillWork s (commitNotice r g s) :=
  (of_roster (s := s) (t := { s with cache := { s.cache with gates := s.cache.gates.set r (some g) } }) rfl rfl rfl rfl rfl
    fun _ => id).trans ((staleRecipe ..).trans (releaseWaits ..))

theorem commit (r : RecipeNo) (s : State) : FillWork s (commit r s) := by
  unfold Machine.commit
  split
  · exact refl s
  · dsimp only
    split
    · exact (modRslot ..).trans ((endLong ..).trans (releaseWaits ..))
    · exact (modRslot ..).trans ((commitNotice ..).trans (endLong ..))

theorem readerDone (r : RecipeNo) (s : State) : FillWork s (readerDone r s) := by
  unfold Machine.readerDone
  dsimp only
  split
  · exact (modRslot ..).trans (commit ..)
  · exact modRslot ..

theorem quarantine (l : LineNo) (f : Fill) (v : Verdict) (s : State) : FillWork s (quarantine l f v s) :=
  (modRslot ..).trans (raiseCall ..)

theorem fillVerdict (l : LineNo) {f : Fill} (v : Verdict) (s : State) (h : f.abandoned = true) :
    FillWork s (fillVerdict l f v s) := by
  unfold Machine.fillVerdict
  dsimp only
  rw [if_pos h]
  refine FillWork.trans ?_ ((setFill_none ..).trans (readerDone ..))
  split
  · exact refl s
  · exact quarantine ..

theorem countFree (s : State) : FillWork s { s with freeCount := s.freeCount + 1 } :=
  of_roster rfl rfl rfl rfl rfl fun _ => id

theorem reportAbandoned (l : LineNo) (s : State) : FillWork s (reportAbandoned l s) := by
  unfold Machine.reportAbandoned
  split
  · exact refl s
  · next f _ =>
    split
    · exact refl s
    · next h =>
      have ha : f.abandoned = true := by
        by_contra hc
        simp [Bool.eq_false_iff.mpr hc] at h
      split
      · exact fillVerdict _ _ _ ha
      · split
        · exact fillVerdict _ _ _ ha
        · exact (countFree s).trans (fillVerdict _ _ _ ha)

end FillWork
end Sys2Proof.Machine
end

section
/-! PROOF. A start abandoned at a suspension (R102, R103): what its stage, its answer and its fill come to. -/

namespace Sys2Proof.Machine

/-! ## Telegrams to an oven -/

theorem ln_queueUrgent_ne {l n : LineNo} (q : Queued) (s : State) (h : n ≠ l) : (queueUrgent l q s).ln n = s.ln n := by
  unfold queueUrgent
  rw [State.ln_modLn, if_neg h]

/-- Queuing a telegram changes on a line what waits there alone. -/
theorem ln_queueUrgent (l : LineNo) (q : Queued) (s : State) (n : LineNo) :
    ∃ u w, (queueUrgent l q s).ln n = { s.ln n with urgent := u, waiting := w } := by
  by_cases h : n = l
  · subst h
    unfold queueUrgent
    rw [State.ln_modLn, if_pos rfl]
    split
    · exact ⟨_, _, rfl⟩
    · exact ⟨_, _, rfl⟩
  · exact ⟨_, _, ln_queueUrgent_ne q s h⟩

theorem waitingOn_queueUrgent_all (l : LineNo) (q : Queued) (s : State) (h : s.OffersWaitInTurn l) (n : LineNo) :
    (queueUrgent l q s).waitingOn n = s.waitingOn n ++ if n = l then [q] else [] := by
  by_cases hn : n = l
  · subst hn
    rw [if_pos rfl, waitingOn_queueUrgent n q s h]
  · rw [if_neg hn, List.append_nil]
    unfold State.waitingOn
    rw [ln_queueUrgent_ne q s hn]

theorem waitingOn_sendTo (i : Slot) (o : Owner) (t : Telegram) (s : State) (h : s.OffersWaitInTurn (s.ent i).line) (n : LineNo) :
    (sendTo i o t s).waitingOn n = s.waitingOn n ++ if n = (s.ent i).line then [s.telegramTo i o t] else [] :=
  waitingOn_queueUrgent_all _ _ s h n

theorem OffersWaitInTurn_congr {s t : State} {l : LineNo} (hu : (t.ln l).urgent = (s.ln l).urgent)
    (hw : (t.ln l).waiting = (s.ln l).waiting) : t.OffersWaitInTurn l ↔ s.OffersWaitInTurn l := by
  unfold State.OffersWaitInTurn
  rw [hu, hw]

theorem waitingOn_congr {s t : State} {l : LineNo} (hu : (t.ln l).urgent = (s.ln l).urgent)
    (hw : (t.ln l).waiting = (s.ln l).waiting) : t.waitingOn l = s.waitingOn l := by
  unfold State.waitingOn
  rw [hu, hw]

/-- After a removal the offers wait in turn, whatever waited before. -/
theorem removeTelegrams_offersWaitInTurn (p : Queued → Bool) (s : State) (l : LineNo) :
    (removeTelegrams p s).OffersWaitInTurn l := by
  unfold State.OffersWaitInTurn
  simp only [removeTelegrams, State.ln, Fin.getElem_fin, Vector.getElem_map, Config.urgentMax, List.length_take]
  intro h
  exact List.drop_eq_nil_of_le (by omega)

theorem telegramQueued_iff (s : State) (p : Queued → Bool) :
    s.telegramQueued p = true ↔ ∃ l, ∃ q ∈ s.waitingOn l, p q = true := by
  have hmem (l : LineNo) : l ∈ lineNos := by
    revert l
    decide
  simp only [State.telegramQueued, State.waitingOn, List.any_eq_true, hmem, true_and, Bool.or_eq_true, List.mem_append]
  refine exists_congr fun l => ⟨?_, ?_⟩
  · rintro (⟨q, hq, hp⟩ | ⟨q, hq, hp⟩)
    · exact ⟨q, .inl hq, hp⟩
    · exact ⟨q, .inr hq, hp⟩
  · rintro ⟨q, hq | hq, hp⟩
    · exact .inl ⟨q, hq, hp⟩
    · exact .inr ⟨q, hq, hp⟩

theorem isGrantTo_iff (i : Slot) (q : Queued) :
    isGrantTo i q = true ↔ q.target = some i ∧ ∃ t r v, q.tel = .grant t r v ∨ q.tel = .start t r v := by
  unfold isGrantTo
  cases q.tel <;> simp

/-! ## The refusal of a start -/

theorem evictAtEnd_nil {i : Slot} {s : State} (h : (s.ent i).dir = []) : evictAtEnd i s = s := by
  unfold evictAtEnd State.modDir State.modEnt
  have hent : { s.ent i with dir := [] } = s.ent i := by rw [← h]
  simp only [h, List.filter_nil, List.map_nil, List.foldl_nil]
  exact (congrArg (s.setEnt i) hent).trans (s.setEnt_ent i)

/-- An entry whose start has ended, idle and with no abort mark. -/
def Entry.unstarted (e : Entry) : Entry := { e with activity := .idle, abortMark := .unset, start := none }

/-- A refused start of an oven that holds no recipe: the oven is idle, and the refusal is answered. -/
theorem refuseStart_nil {i : Slot} {s : State} {p : PendingStart} (why : Reason) (hd : (s.ent i).dir = [])
    (hp : (s.ent i).start = some p) :
    refuseStart i why s = answerRefusal i p why (s.setEnt i (s.ent i).unstarted) := by
  unfold refuseStart returnIdle
  rw [hp]
  dsimp only
  rw [toIdle_eq, State.modEnt, State.ent_setEnt_self, State.setEnt_setEnt,
    evictAtEnd_nil (by rw [State.ent_setEnt_self]; exact hd)]
  rfl

theorem answerRefusal_controller {i : Slot} {p : PendingStart} (s : State) (h : p.origin = .controller) :
    answerRefusal i p .suspended s = endLong (.oven i) .denied 1 0 0 s := by
  unfold answerRefusal
  rw [h]
  rfl

theorem answerRefusal_panel {i : Slot} {p : PendingStart} (s : State) (h : p.origin ≠ .controller) :
    answerRefusal i p .suspended s = sendTo i .cache (.deny .suspended) s := by
  unfold answerRefusal
  split
  next hc => exact absurd hc h
  next => rfl

/-- What the refusal says on the oven's line. -/
def State.refusalSaid (s : State) (i : Slot) (p : PendingStart) : List Queued :=
  if p.origin = .controller then [] else [s.telegramTo i .cache (.deny .suspended)]

section
variable (i : Slot) (p : PendingStart) (s : State)

/-- The refusal touches the command unit or what waits on a line. -/
theorem answerRefusal_eq : answerRefusal i p .suspended s = { s with
    lines := (answerRefusal i p .suspended s).lines, command := (answerRefusal i p .suspended s).command } := by
  by_cases h : p.origin = .controller
  · rw [answerRefusal_controller s h, endLong_eq]
  · rw [answerRefusal_panel s h]
    rfl

theorem ln_answerRefusal (n : LineNo) :
    ∃ u w, (answerRefusal i p .suspended s).ln n = { s.ln n with urgent := u, waiting := w } := by
  by_cases h : p.origin = .controller
  · rw [answerRefusal_controller s h, ln_endLong]
    exact ⟨_, _, rfl⟩
  · rw [answerRefusal_panel s h]
    exact ln_queueUrgent ..

theorem answerRefusal_waitingOn (h : s.OffersWaitInTurn (s.ent i).line) (n : LineNo) :
    (answerRefusal i p .suspended s).waitingOn n =
      s.waitingOn n ++ if n = (s.ent i).line then s.refusalSaid i p else [] := by
  unfold State.refusalSaid
  by_cases hp : p.origin = .controller
  · rw [answerRefusal_controller s hp, if_pos hp, ite_self, List.append_nil]
    exact waitingOn_congr (by rw [ln_endLong]) (by rw [ln_endLong])
  · rw [answerRefusal_panel s hp, if_neg hp]
    exact waitingOn_sendTo i .cache _ s h n

theorem answerRefusal_command (t : State) (ht : s.command = t.command) :
    (p.origin = .controller →
      (answerRefusal i p .suspended s).command = (endLong (.oven i) .denied 1 0 0 t).command) ∧
    (p.origin ≠ .controller → (answerRefusal i p .suspended s).command = t.command) := by
  refine ⟨fun h => ?_, fun h => ?_⟩
  · rw [answerRefusal_controller s h]
    exact endLong_command_congr ht
  · rw [answerRefusal_panel s h]
    exact ht

end

/-! ## What the stage leaves -/

theorem abandonStage_eq (i : Slot) (st : Stage) (s : State) :
    abandonStage i st s = { s with lines := (abandonStage i st s).lines, roster := (abandonStage i st s).roster } := by
  cases st with
  | queued => rfl
  | evictWait => rfl
  | reading => rfl
  | streaming =>
    unfold abandonStage
    dsimp only
    split <;> rfl
  | granting =>
    unfold abandonStage
    dsimp only
    split <;> rfl

/-- A GRANT or START of the start at hand waits unsent. -/
def State.grantUnsent (s : State) (i : Slot) (st : Stage) : Prop := st = .granting ∧ s.telegramQueued (isGrantTo i) = true

theorem abandonStage_unsent {i : Slot} {st : Stage} {s : State} (h : s.grantUnsent i st) :
    abandonStage i st s = (removeTelegrams (isGrantTo i) s).setEnt i { s.ent i with grant := none } := by
  obtain ⟨rfl, hq⟩ := h
  exact if_pos hq

theorem abandonStage_roster {i : Slot} {st : Stage} {s : State} (h : ¬s.grantUnsent i st) :
    (abandonStage i st s).roster = s.roster := by
  cases st with
  | queued => rfl
  | evictWait => rfl
  | reading => rfl
  | streaming =>
    unfold abandonStage
    dsimp only
    split <;> rfl
  | granting =>
    have hq : ¬s.telegramQueued (isGrantTo i) = true := fun hc => h ⟨rfl, hc⟩
    have hs : abandonStage i .granting s = s := if_neg hq
    rw [hs]

end Sys2Proof.Machine
end

section
/-! PROOF. An abandoned start as a whole, and the report of its fill. -/

namespace Sys2Proof.Machine

/-! ## What the stage leaves of the lines -/

section
variable (i : Slot) (st : Stage) (s : State)

theorem ent_abandonStage [Decidable (s.grantUnsent i st)] : (abandonStage i st s).ent i =
    if s.grantUnsent i st then { s.ent i with grant := none } else s.ent i := by
  split
  next h => rw [abandonStage_unsent h, State.ent_setEnt_self]
  next h => rw [State.ent_congr (abandonStage_roster h)]

/-- What waits on the lines: all but an unsent GRANT or START. -/
theorem abandonStage_waitingOn (n : LineNo) : (abandonStage i st s).waitingOn n =
    if st = .granting then (s.waitingOn n).filter (fun q => !isGrantTo i q) else s.waitingOn n := by
  cases st with
  | queued =>
    refine waitingOn_congr ?_ ?_ <;> simp only [abandonStage, leaveFillQueue, State.ln_modLn] <;> split <;> simp [*]
  | evictWait =>
    refine waitingOn_congr ?_ ?_ <;> simp only [abandonStage, leaveFillQueue, State.ln_modLn] <;> split <;> simp [*]
  | reading =>
    refine waitingOn_congr ?_ ?_ <;> simp only [abandonStage, State.ln_modLn] <;> split <;> simp [*]
  | streaming =>
    unfold abandonStage
    dsimp only
    split
    · refine waitingOn_congr ?_ ?_ <;> rw [modStream_ln]
    · refine waitingOn_congr ?_ ?_ <;>
        simp only [endFillStream, setFill, State.ln_modLn, removeStream_ln] <;> split <;> simp [*]
  | granting =>
    rw [if_pos rfl]
    by_cases h : s.telegramQueued (isGrantTo i) = true
    · rw [abandonStage_unsent ⟨rfl, h⟩]
      exact waitingOn_removeTelegrams _ s n
    · have hs : abandonStage i .granting s = s := if_neg h
      rw [hs]
      refine (List.filter_eq_self.mpr fun q hq => ?_).symm
      rw [Bool.not_eq_true', Bool.eq_false_iff]
      exact fun hc => h ((telegramQueued_iff s _).mpr ⟨n, q, hq, hc⟩)

/-- Offers wait in turn behind what an abandoned stage leaves. -/
theorem abandonStage_offersWaitInTurn (n : LineNo) (h : s.OffersWaitInTurn n) : (abandonStage i st s).OffersWaitInTurn n := by
  cases st with
  | queued =>
    refine (OffersWaitInTurn_congr ?_ ?_).mpr h <;> simp only [abandonStage, leaveFillQueue, State.ln_modLn] <;> split <;> simp [*]
  | evictWait =>
    refine (OffersWaitInTurn_congr ?_ ?_).mpr h <;> simp only [abandonStage, leaveFillQueue, State.ln_modLn] <;> split <;> simp [*]
  | reading =>
    refine (OffersWaitInTurn_congr ?_ ?_).mpr h <;> simp only [abandonStage, State.ln_modLn] <;> split <;> simp [*]
  | streaming =>
    unfold abandonStage
    dsimp only
    split
    · refine (OffersWaitInTurn_congr ?_ ?_).mpr h <;> rw [modStream_ln]
    · refine (OffersWaitInTurn_congr ?_ ?_).mpr h <;>
        simp only [endFillStream, setFill, State.ln_modLn, removeStream_ln] <;> split <;> simp [*]
  | granting =>
    unfold abandonStage
    dsimp only
    split
    · exact removeTelegrams_offersWaitInTurn _ s n
    · exact h

end

/-! ## The line of the start, by its stage -/

section
variable (i : Slot) (s : State)

theorem ln_abandonStage_queued {st : Stage} (h : st = .queued ∨ st = .evictWait) :
    (abandonStage i st s).ln (s.ent i).line = { s.ln (s.ent i).line with
      fillQueue := (s.ln (s.ent i).line).fillQueue.filter (fun w => w.slot != i) } := by
  rcases h with rfl | rfl <;> exact State.ln_setLn_self ..

theorem ln_abandonStage_reading :
    (abandonStage i .reading s).ln (s.ent i).line = { s.ln (s.ent i).line with
      fill := (s.ln (s.ent i).line).fill.map (fun f => { f with abandoned := true }) } := State.ln_setLn_self ..

theorem ln_abandonStage_sending (h : s.blockRunning (s.ent i).line .fill i = true) :
    (abandonStage i .streaming s).ln (s.ent i).line = { s.ln (s.ent i).line with
      streams := (s.ln (s.ent i).line).streams.map (fun z => if z.kind = .fill ∧ z.slot = i then { z with drop := true } else z) } := by
  unfold abandonStage
  dsimp only
  rw [if_pos h, modStream_ln, if_pos rfl]

theorem ln_abandonStage_waiting (h : ¬s.blockRunning (s.ent i).line .fill i = true) :
    (abandonStage i .streaming s).ln (s.ent i).line = { s.ln (s.ent i).line with
      fill := none,
      streams := (s.ln (s.ent i).line).streams.filter (fun z => !(z.kind == .fill && z.slot == i)) } := by
  unfold abandonStage
  dsimp only
  rw [if_neg h, endFillStream, setFill, State.ln_modLn, if_pos rfl, removeStream_ln, if_pos rfl]

/-- A stage other than READING begins no abandoned fill. -/
theorem abandonStage_fill {st : Stage} (h : st ≠ .reading) :
    ((abandonStage i st s).ln (s.ent i).line).fill = (s.ln (s.ent i).line).fill ∨
      ((abandonStage i st s).ln (s.ent i).line).fill = none := by
  cases st with
  | queued => exact .inl (by rw [ln_abandonStage_queued i s (.inl rfl)])
  | evictWait => exact .inl (by rw [ln_abandonStage_queued i s (.inr rfl)])
  | reading => exact absurd rfl h
  | streaming =>
    by_cases hb : s.blockRunning (s.ent i).line .fill i = true
    · exact .inl (by rw [ln_abandonStage_sending i s hb])
    · exact .inr (by rw [ln_abandonStage_waiting i s hb])
  | granting =>
    left
    unfold abandonStage
    dsimp only
    split
    · simp [removeTelegrams, State.ln]
    · rfl

theorem blockRunning_fill_iff (n : LineNo) : s.blockRunning n .fill i = true ↔
    ∃ tr r v k last vic d, (s.ln n).trans = some tr ∧ tr.q.target = some i ∧ tr.q.tel = .fillBlock r v k last vic d := by
  unfold State.blockRunning
  cases (s.ln n).trans with
  | none => simp
  | some tr =>
    constructor
    · intro h
      obtain ⟨htarget, hkind⟩ := Bool.and_eq_true_iff.mp h
      cases hq : tr.q.tel with
      | fillBlock r v k last vic d => exact ⟨tr, r, v, k, last, vic, d, rfl, beq_iff_eq.mp htarget, hq⟩
      | _ => simp [hq] at hkind
    · rintro ⟨tr', r, v, k, last, vic, d, heq, htarget, hq⟩
      cases heq
      simp [htarget, hq]

end

/-! ## The start as a whole -/

/-- The oven's start has gone, and its refusal is still to be answered. -/
def State.startLeft (s : State) (i : Slot) (st : Stage) : State :=
  (abandonStage i st s).setEnt i ((abandonStage i st s).ent i).unstarted

section
variable {i : Slot} {s : State} {p : PendingStart} (hd : (s.ent i).dir = []) (hp : (s.ent i).start = some p)
include hd hp

theorem abandonStart_eq : abandonStart i s = answerRefusal i p .suspended (s.startLeft i p.stage) := by
  classical
  unfold abandonStart
  rw [hp]
  dsimp only
  refine refuseStart_nil _ ?_ ?_
  all_goals
    rw [ent_abandonStage]
    split
  · exact hd
  · exact hd
  · exact hp
  · exact hp

theorem ent_abandonStart [Decidable (s.grantUnsent i p.stage)] : (abandonStart i s).ent i =
    if s.grantUnsent i p.stage then { (s.ent i).unstarted with grant := none } else (s.ent i).unstarted := by
  rw [abandonStart_eq hd hp, answerRefusal_eq]
  change (s.startLeft i p.stage).ent i = _
  rw [State.startLeft, State.ent_setEnt_self, ent_abandonStage]
  split <;> rfl

/-- The parts that an abandoned start does not touch. -/
theorem abandonStart_keeps : abandonStart i s = { s with
    lines := (abandonStart i s).lines, roster := (abandonStart i s).roster, command := (abandonStart i s).command } := by
  rw [abandonStart_eq hd hp, answerRefusal_eq, State.startLeft, abandonStage_eq]
  rfl

theorem ln_abandonStart (n : LineNo) :
    ∃ u w, (abandonStart i s).ln n = { (abandonStage i p.stage s).ln n with urgent := u, waiting := w } := by
  rw [abandonStart_eq hd hp]
  exact ln_answerRefusal i p _ n

theorem abandonStart_command :
    (p.origin = .controller → (abandonStart i s).command = (endLong (.oven i) .denied 1 0 0 s).command) ∧
    (p.origin ≠ .controller → (abandonStart i s).command = s.command) := by
  rw [abandonStart_eq hd hp]
  refine answerRefusal_command i p _ s ?_
  rw [State.startLeft, abandonStage_eq]
  rfl

theorem abandonStart_waitingOn (h : s.OffersWaitInTurn (s.ent i).line) (n : LineNo) : (abandonStart i s).waitingOn n =
    (if p.stage = .granting then (s.waitingOn n).filter (fun q => !isGrantTo i q) else s.waitingOn n) ++
      if n = (s.ent i).line then s.refusalSaid i p else [] := by
  classical
  have hent : (s.startLeft i p.stage).ent i = (if s.grantUnsent i p.stage then { s.ent i with grant := none } else s.ent i).unstarted := by
    rw [State.startLeft, State.ent_setEnt_self, ent_abandonStage]
  have hline : ((s.startLeft i p.stage).ent i).line = (s.ent i).line := by
    rw [hent]
    split <;> rfl
  have hdrop : ((s.startLeft i p.stage).ent i).drop = (s.ent i).drop := by
    rw [hent]
    split <;> rfl
  have hsaid : (s.startLeft i p.stage).refusalSaid i p = s.refusalSaid i p := by
    unfold State.refusalSaid State.telegramTo
    rw [hdrop]
  rw [abandonStart_eq hd hp, answerRefusal_waitingOn _ _ _ (by rw [hline]; exact abandonStage_offersWaitInTurn i p.stage s _ h),
    hline, hsaid, ← abandonStage_waitingOn]
  rfl

end

/-- An oven that is FILLING without a pending start is only idle. -/
theorem abandonStart_none {i : Slot} {s : State} (h : (s.ent i).start = none) : abandonStart i s = toIdle i s := by
  unfold abandonStart
  rw [h]

end Sys2Proof.Machine
end

section
/-! PROOF. The report of an abandoned fill (R78): when there is none, and what one with and without a waiting commit does. -/

namespace Sys2Proof.Machine

theorem fillReadOut_iff (s : State) (l : LineNo) :
    s.fillReadOut l = true ↔ ∃ q ∈ s.path.issued, q.owner = .fill l ∧ q.disregard = false := by
  simp [State.fillReadOut]

@[simp] theorem State.rslot_modRslot_self (s : State) (r : RecipeNo) (f : RecipeSlot → RecipeSlot) :
    (s.modRslot r f).rslot r = f (s.rslot r) := by
  rw [State.rslot_modRslot, if_pos rfl]

/-! ## Whether a fill reports -/

section
variable {l : LineNo} {s : State}

theorem reportAbandoned_waits
    (h : ∀ f, (s.ln l).fill = some f → f.abandoned = true → f.streaming = false → s.fillReadOut l = true) :
    reportAbandoned l s = s := by
  unfold reportAbandoned
  split
  · rfl
  · next f hf =>
    refine if_pos ?_
    cases ha : f.abandoned with
    | false => rfl
    | true =>
      cases hs : f.streaming with
      | true => rfl
      | false => simpa using h f hf ha hs

variable {f : Fill} (hf : (s.ln l).fill = some f) (ha : f.abandoned = true) (hs : f.streaming = false)
  (hr : s.fillReadOut l = false)
include hf ha hs hr

/-- The fill of an oven that has left it, with no read to come: what it reports, and the free values drawn. -/
theorem reportAbandoned_reports : reportAbandoned l s =
    if f.failed then fillVerdict l f .readError s
    else if f.used ≤ f.data.length then fillVerdict l f f.verdict s
    else fillVerdict l f (if Config.partialFillGood s.freeCount then .good else .mismatch)
      { s with freeCount := s.freeCount + 1 } := by
  unfold reportAbandoned
  rw [hf]
  exact if_neg (by simp [ha, hs, hr])

theorem reportAbandoned_verdict :
    ∃ v y, (y = s ∨ y = { s with freeCount := s.freeCount + 1 }) ∧ reportAbandoned l s = fillVerdict l f v y := by
  rw [reportAbandoned_reports hf ha hs hr]
  split
  · exact ⟨_, s, .inl rfl, rfl⟩
  · split
    · exact ⟨_, s, .inl rfl, rfl⟩
    · exact ⟨_, _, .inr rfl, rfl⟩

end

/-! ## The verdict of an abandoned fill -/

/-- The buffer is free, and a bad verdict has quarantined the recipe. -/
def State.verdictTaken (s : State) (l : LineNo) (f : Fill) (v : Verdict) : State :=
  setFill l none (if v = .good then s else quarantine l f v s)

theorem fillVerdict_abandoned {l : LineNo} {f : Fill} (v : Verdict) (s : State) (h : f.abandoned = true) :
    fillVerdict l f v s = readerDone f.recipe (s.verdictTaken l f v) := by
  unfold fillVerdict
  dsimp only
  rw [if_pos h]
  rfl

section
variable (l : LineNo) (f : Fill) (v : Verdict) (s : State)

/-- The slot of a recipe with a bad verdict. -/
def RecipeSlot.afterVerdict (x : RecipeSlot) (v : Verdict) : RecipeSlot :=
  if v = .good then x else { x with state := if x.state = .published then .quarantined else x.state }

theorem rslot_verdictTaken : (s.verdictTaken l f v).rslot f.recipe = (s.rslot f.recipe).afterVerdict v := by
  unfold State.verdictTaken RecipeSlot.afterVerdict setFill
  rw [State.rslot_modLn]
  split
  · rfl
  · unfold quarantine
    rw [rslot_raiseCall, State.rslot_modRslot_self]

theorem verdictTaken_roster : (s.verdictTaken l f v).roster = s.roster := by
  unfold State.verdictTaken setFill
  rw [State.modLn_roster]
  split
  · rfl
  · exact raiseCall_roster ..

theorem verdictTaken_command : (s.verdictTaken l f v).command = s.command := by
  unfold State.verdictTaken setFill
  rw [State.modLn_command]
  split
  · rfl
  · exact raiseCall_command ..

theorem ln_verdictTaken (n : LineNo) :
    (s.verdictTaken l f v).ln n = { s.ln n with fill := if n = l then none else (s.ln n).fill } := by
  have hln (n : LineNo) : (if v = .good then s else quarantine l f v s).ln n = s.ln n := by
    split
    · rfl
    · exact ln_raiseCall ..
  unfold State.verdictTaken setFill
  rw [State.ln_modLn, hln, hln]
  split
  · next h => rw [h]
  · rfl

theorem verdictTaken_good : (s.verdictTaken l f .good).service = s.service := rfl

theorem verdictTaken_mismatch : (s.verdictTaken l f .mismatch).service =
    (raiseCall (.recipe f.recipe) .recipeCorrupt .urgent [f.version.setWidth 32, Config.mismatchCode, natWord l.val] s).service :=
  raiseCall_service_congr rfl rfl rfl

end

/-! ## The reader leaves -/

section
variable {r : RecipeNo} {s : State}

theorem readerDone_noCommit (h : (s.rslot r).publish ≠ .commitWait ∨ 1 < (s.rslot r).readers) :
    readerDone r s = s.modRslot r fun x => { x with readers := x.readers - 1 } := by
  unfold readerDone
  dsimp only
  rw [State.rslot_modRslot_self]
  refine if_neg ?_
  rintro ⟨hreaders, hpublish⟩
  rcases h with h | h
  · exact h hpublish
  · dsimp only at hreaders
    omega

theorem readerDone_commit (h : ¬((s.rslot r).publish ≠ .commitWait ∨ 1 < (s.rslot r).readers)) :
    readerDone r s = commit r (s.modRslot r fun x => { x with readers := x.readers - 1 }) := by
  push Not at h
  unfold readerDone
  dsimp only
  rw [State.rslot_modRslot_self]
  exact if_pos ⟨by dsimp only; omega, h.1⟩

end

theorem foldl_staleAt_recipe (r : RecipeNo) (l : List Slot) (s : State) : (l.foldl (staleAt r) s).recipe = s.recipe := by
  induction l generalizing s with
  | nil => rfl
  | cons i t ih =>
    rw [List.foldl_cons, ih]
    unfold staleAt
    split
    · rfl
    · split
      · rfl
      · split <;> rfl

theorem staleRecipe_recipe (r : RecipeNo) (s : State) : (staleRecipe r s).recipe = s.recipe := by
  have hmark (y : State) : (markFillsStale r y).recipe = y.recipe := rfl
  rw [staleRecipe, hmark, foldl_staleAt_recipe]

theorem commitNotice_recipe (r : RecipeNo) (g : Gate) (s : State) : (commitNotice r g s).recipe = s.recipe := by
  have hwaits (y : State) : (releaseWaits r y).recipe = y.recipe := rfl
  rw [commitNotice, hwaits, staleRecipe_recipe]

/-- R80: a commit, made or refused, ends the slot's publish; who reads it is not touched. -/
theorem rslot_commit {r : RecipeNo} {s : State} :
    ((commit r s).rslot r).readers = (s.rslot r).readers ∧
      ((s.rslot r).staged ≠ none → ((commit r s).rslot r).publish = .idle ∧ ((commit r s).rslot r).staged = none) := by
  unfold commit
  split
  next h => exact ⟨rfl, fun hc => absurd h hc⟩
  next g h =>
    dsimp only
    split
    · have hrecipe (y : State) : (releaseWaits r y).rslot r = y.rslot r := rfl
      rw [hrecipe, rslot_endLong, State.rslot_modRslot_self]
      exact ⟨rfl, fun _ => ⟨rfl, rfl⟩⟩
    · rw [rslot_endLong, State.rslot_congr (commitNotice_recipe ..), State.rslot_modRslot_self]
      exact ⟨rfl, fun _ => ⟨rfl, rfl⟩⟩

/-- What remains of a slot's record at the end of a reader, with and without a commit. -/
theorem rslot_readerDone (r : RecipeNo) (s : State) :
    ((readerDone r s).rslot r).readers = (s.rslot r).readers - 1 ∧
      (¬((s.rslot r).publish ≠ .commitWait ∨ 1 < (s.rslot r).readers) → (s.rslot r).staged ≠ none →
        ((readerDone r s).rslot r).publish = .idle ∧ ((readerDone r s).rslot r).staged = none) := by
  by_cases h : (s.rslot r).publish ≠ .commitWait ∨ 1 < (s.rslot r).readers
  · rw [readerDone_noCommit h, State.rslot_modRslot_self]
    exact ⟨rfl, fun hc => absurd h hc⟩
  · rw [readerDone_commit h]
    obtain ⟨hreaders, hcommit⟩ := rslot_commit (r := r) (s := s.modRslot r fun x => { x with readers := x.readers - 1 })
    rw [State.rslot_modRslot_self] at hreaders hcommit
    exact ⟨hreaders, fun _ hs => hcommit hs⟩

/-- A verdict reported by an abandoned fill: its buffer is free, its reader gone, and a publish that waited for it ends. -/
theorem fillVerdict_reported (l : LineNo) (f : Fill) (v : Verdict) (s : State) (h : f.abandoned = true) :
    ((fillVerdict l f v s).ln l).fill = none ∧
      ((fillVerdict l f v s).rslot f.recipe).readers = (s.rslot f.recipe).readers - 1 ∧
      (¬((s.rslot f.recipe).publish ≠ .commitWait ∨ 1 < (s.rslot f.recipe).readers) → (s.rslot f.recipe).staged ≠ none →
        ((fillVerdict l f v s).rslot f.recipe).publish = .idle ∧ ((fillVerdict l f v s).rslot f.recipe).staged = none) := by
  have hslot := rslot_verdictTaken l f v s
  have hreaders : ((s.verdictTaken l f v).rslot f.recipe).readers = (s.rslot f.recipe).readers := by
    rw [hslot, RecipeSlot.afterVerdict]
    split <;> rfl
  have hpublish : ((s.verdictTaken l f v).rslot f.recipe).publish = (s.rslot f.recipe).publish := by
    rw [hslot, RecipeSlot.afterVerdict]
    split <;> rfl
  have hstaged : ((s.verdictTaken l f v).rslot f.recipe).staged = (s.rslot f.recipe).staged := by
    rw [hslot, RecipeSlot.afterVerdict]
    split <;> rfl
  rw [fillVerdict_abandoned v s h, ← hreaders, ← hpublish, ← hstaged]
  refine ⟨(FillWork.readerDone f.recipe _).fills l ?_, rslot_readerDone ..⟩
  rw [ln_verdictTaken]
  exact if_pos rfl

theorem fillVerdict_noCommit {l : LineNo} {f : Fill} (v : Verdict) (s : State) (ha : f.abandoned = true)
    (h : (s.rslot f.recipe).publish ≠ .commitWait ∨ 1 < (s.rslot f.recipe).readers) :
    fillVerdict l f v s = (s.verdictTaken l f v).modRslot f.recipe (fun x => { x with readers := x.readers - 1 }) := by
  rw [fillVerdict_abandoned v s ha]
  refine readerDone_noCommit ?_
  rw [rslot_verdictTaken, RecipeSlot.afterVerdict]
  split
  · exact h
  · exact h

end Sys2Proof.Machine
end

section
/-! PROOF. What entry to SUSPENDED does with each activity (R20). -/

namespace Sys2Proof.Machine

/-! ## The roster's ABORT -/

theorem queueRosterAbort_unset {i : Slot} {s : State} (h : (s.ent i).abortMark = .unset) :
    queueRosterAbort i s = sendTo i .roster .abort (s.setEnt i { s.ent i with abortMark := .outstanding }) := if_pos h

theorem queueRosterAbort_set {i : Slot} {s : State} (h : (s.ent i).abortMark ≠ .unset) : queueRosterAbort i s = s := if_neg h

/-! ## The activities -/

section
variable {i : Slot} {c : StopCause} {s : State}

theorem suspendActivity_filling (h : (s.ent i).activity = .filling) :
    suspendActivity i c s = reportAbandoned (s.ent i).line (abandonStart i (reduceDirectory i s)) := by
  unfold suspendActivity
  rw [h]

theorem suspendActivity_updating (h : (s.ent i).activity = .updating) :
    suspendActivity i c s = failOven i .suspended none none none s := by
  unfold suspendActivity
  rw [h]
  rfl

theorem suspendActivity_cooking (h : (s.ent i).activity = .cooking) : suspendActivity i c s =
    if c = .fault then queueRosterAbort i s else if c = .silent then closeCookUnknown i s else s := by
  unfold suspendActivity
  rw [h]

theorem suspendActivity_cleaning (h : (s.ent i).activity = .cleaning) : suspendActivity i c s =
    if c = .fault then queueRosterAbort i s else if c = .silent then closeCleaningUnknown i s else s := by
  unfold suspendActivity
  rw [h]

end

/-! ## What every end of an activity keeps -/

/-- The hygiene and the update unit, the event sets, and of the oven's entry what the suspension itself writes. -/
structure ActivityWork (i : Slot) (s t : State) : Prop where
  hygiene : t.hygiene = s.hygiene
  update  : t.update = s.update
  pending : t.report.pendingSet = s.report.pendingSet
  hears   : t.hears = s.hears
  state   : (t.ent i).state = (s.ent i).state
  causes  : (t.ent i).causes = (s.ent i).causes
  upd     : (t.ent i).upd = (s.ent i).upd

namespace ActivityWork
variable {i : Slot} {s t u : State}

theorem refl (i : Slot) (s : State) : ActivityWork i s s := ⟨rfl, rfl, rfl, rfl, rfl, rfl, rfl⟩

theorem trans (h : ActivityWork i s t) (k : ActivityWork i t u) : ActivityWork i s u :=
  ⟨k.hygiene.trans h.hygiene, k.update.trans h.update, k.pending.trans h.pending, k.hears.trans h.hears,
    k.state.trans h.state, k.causes.trans h.causes, k.upd.trans h.upd⟩

theorem setEnt (i : Slot) (s : State) {e : Entry} (hs : e.state = (s.ent i).state) (hc : e.causes = (s.ent i).causes)
    (hu : e.upd = (s.ent i).upd) : ActivityWork i s (s.setEnt i e) where
  hygiene := rfl
  update := rfl
  pending := rfl
  hears := rfl
  state := by rw [State.ent_setEnt_self, hs]
  causes := by rw [State.ent_setEnt_self, hc]
  upd := by rw [State.ent_setEnt_self, hu]

theorem of_fillWork (h : FillWork s t) : ActivityWork i s t := by
  obtain ⟨d, hd⟩ := h.ents i
  exact ⟨h.hygiene, h.update, h.pending, h.hears, by rw [hd], by rw [hd], by rw [hd]⟩

theorem passJournal (i : Slot) (b : JBody) (s : State) : ActivityWork i s (passJournal b s) where
  hygiene := by simp
  update := by simp
  pending := by simp
  hears := by rw [passJournal_eq]; rfl
  state := by simp
  causes := by simp
  upd := by simp

theorem queueRosterAbort (i : Slot) (s : State) : ActivityWork i s (queueRosterAbort i s) := by
  unfold Machine.queueRosterAbort
  split
  · exact (setEnt (e := { s.ent i with abortMark := .outstanding }) i s rfl rfl rfl).trans
      (of_fillWork (FillWork.queueUrgent ..))
  · exact refl i s

theorem toIdle (i : Slot) (s : State) : ActivityWork i s (toIdle i s) := setEnt i s rfl rfl rfl

theorem reduceDirectory (i : Slot) (s : State) : ActivityWork i s (reduceDirectory i s) := setEnt i s rfl rfl rfl

theorem closeCookUnknown (i : Slot) (s : State) : ActivityWork i s (closeCookUnknown i s) := by
  unfold Machine.closeCookUnknown
  split
  · refine ActivityWork.trans ?_ ((toIdle ..).trans (reduceDirectory ..))
    rw [closeCook_eq]
    exact ((setEnt (e := { s.ent i with cook := none }) i s rfl rfl rfl).trans (of_fillWork (FillWork.modRslot _ _ fun x => { x with pins := x.pins - 1 }))).trans
      (passJournal ..)
  · exact (toIdle ..).trans (reduceDirectory ..)

theorem closeCleaningUnknown (i : Slot) (s : State) : ActivityWork i s (closeCleaningUnknown i s) := by
  unfold Machine.closeCleaningUnknown
  split
  · next k _ =>
    let y := passCleanOf i k .unknown s
    exact (passJournal ..).trans ((setEnt (e := { y.ent i with cleaning := none }) i y rfl rfl rfl).trans (toIdle ..))
  · exact toIdle ..

theorem abandonStart (i : Slot) {s : State} (hd : (s.ent i).dir = []) : ActivityWork i s (abandonStart i s) := by
  classical
  cases hp : (s.ent i).start with
  | none =>
    rw [abandonStart_none hp]
    exact toIdle ..
  | some p =>
    have hent := ent_abandonStart hd hp
    have hkeeps := abandonStart_keeps hd hp
    refine ⟨?_, ?_, ?_, ?_, ?_, ?_, ?_⟩
    · rw [hkeeps]
    · rw [hkeeps]
    · rw [hkeeps]
    · rw [hkeeps]; rfl
    all_goals
      rw [hent]
      split <;> rfl

/-- The end of any activity but that of an oven in a rollout. -/
theorem suspendActivity {i : Slot} (c : StopCause) {s : State} (h : (s.ent i).activity ≠ .updating) :
    ActivityWork i s (suspendActivity i c s) := by
  cases ha : (s.ent i).activity with
  | idle =>
    rw [suspendActivity_idle c ha]
    exact refl i s
  | filling =>
    rw [suspendActivity_filling ha]
    have hdir : ((Machine.reduceDirectory i s).ent i).dir = [] := by
      rw [reduceDirectory_of_ne (by rw [ha]; nofun), State.ent_setEnt_self]
    exact (reduceDirectory i s).trans ((abandonStart i hdir).trans (of_fillWork (FillWork.reportAbandoned ..)))
  | updating => exact absurd ha h
  | cooking =>
    rw [suspendActivity_cooking ha]
    split
    · exact queueRosterAbort ..
    · split
      · exact closeCookUnknown ..
      · exact refl i s
  | cleaning =>
    rw [suspendActivity_cleaning ha]
    split
    · exact queueRosterAbort ..
    · split
      · exact closeCleaningUnknown ..
      · exact refl i s

end ActivityWork

/-! ## The suspension, whatever the activity -/

section
variable (i : Slot) (c : StopCause) (s : State)

/-- R18: the oven is SUSPENDED, by one more cause, and has left the cleaning queue. -/
theorem suspend_taken : ((suspend i c s).ent i).state = .suspended ∧
    ((suspend i c s).ent i).causes = (s.ent i).causes ||| (1 <<< c.bitNo) ∧ (suspend i c s).hygiene = s.hygiene.without i := by
  rw [ent_suspend, suspend_hygiene]
  by_cases h : (s.ent i).activity = .updating
  · rw [suspendActivity_updating (by rw [State.ent_suspending]; exact h), ent_failOven, failOven_hygiene, if_pos rfl,
      State.ent_suspending]
    exact ⟨rfl, rfl, rfl⟩
  · have hw := ActivityWork.suspendActivity c (i := i) (s := s.suspending i c) (by rw [State.ent_suspending]; exact h)
    have hstate := hw.state
    have hcauses := hw.causes
    rw [State.ent_suspending] at hstate hcauses
    exact ⟨hstate, hcauses, congrArg (HygieneUnit.without · i) hw.hygiene⟩

variable {i c s}

theorem suspend_update_of_queued (ha : (s.ent i).activity ≠ .updating) (h : (s.ent i).upd.state = .queued) :
    (suspend i c s).update = { s.update with
      rollout := { s.update.rollout with skipped := s.update.rollout.skipped ||| (1 <<< i.val) } } ∧
    (s.hears = true → (suspend i c s).report.pendingSet = raisedPending s.report.pendingSet .rollout) := by
  have hw := ActivityWork.suspendActivity c (i := i) (s := s.suspending i c) (by rw [State.ent_suspending]; exact ha)
  have hupd := hw.upd
  rw [State.ent_suspending] at hupd
  have hq : ((reduceDirectory i (leaveCleaning i (suspendActivity i c (s.suspending i c)))).ent i).upd.state = .queued := by
    rw [reduceDirectory_eq, State.ent_setEnt_self, ent_leaveCleaning, hupd]
    exact h
  rw [suspend_eq]
  refine ⟨(skipQueued_update hq).trans ?_, fun hs => (skipQueued_pendingSet hq (hw.hears.trans hs)).trans ?_⟩
  · rw [reduceDirectory_eq, State.setEnt_update, leaveCleaning_update]
    exact congrArg (fun u : UpdateUnit => { u with
      rollout := { u.rollout with skipped := u.rollout.skipped ||| (1 <<< i.val) } }) hw.update
  · exact congrArg (raisedPending · .rollout) hw.pending

theorem suspend_update_of_ne (ha : (s.ent i).activity ≠ .updating) (h : (s.ent i).upd.state ≠ .queued) :
    (suspend i c s).update = s.update ∧ (suspend i c s).report.pendingSet = s.report.pendingSet := by
  have hw := ActivityWork.suspendActivity c (i := i) (s := s.suspending i c) (by rw [State.ent_suspending]; exact ha)
  have hupd := hw.upd
  rw [State.ent_suspending] at hupd
  have hq : ((reduceDirectory i (leaveCleaning i (suspendActivity i c (s.suspending i c)))).ent i).upd.state ≠ .queued := by
    rw [reduceDirectory_eq, State.ent_setEnt_self, ent_leaveCleaning, hupd]
    exact h
  rw [suspend_eq, show s.setEnt i ((s.ent i).stopped c) = s.suspending i c from rfl, skipQueued_of_ne hq]
  exact ⟨hw.update, hw.pending⟩

end

end Sys2Proof.Machine
end

section
/-! PROOF. The suspension of an oven that is FILLING (R102, R103, R78). -/

namespace Sys2Proof.Machine

/-! ## A report without a commit -/

/-- No publish waits for the last reader of this slot to leave. -/
def State.noCommit (s : State) (r : RecipeNo) : Prop := (s.rslot r).publish ≠ .commitWait ∨ 1 < (s.rslot r).readers

theorem noCommit_afterVerdict {s t : State} {r : RecipeNo} {v : Verdict} (h : t.rslot r = (s.rslot r).afterVerdict v) :
    t.noCommit r ↔ s.noCommit r := by
  unfold State.noCommit
  rw [h]
  unfold RecipeSlot.afterVerdict
  split <;> rfl

/-- The part of a state that a fill's report without a commit leaves: the roster, the commands and the telegrams. -/
def ReportsQuietly (s t : State) : Prop :=
  t.roster = s.roster ∧ t.command = s.command ∧ ∀ l : LineNo, t.waitingOn l = s.waitingOn l

theorem fillVerdict_quiet {l : LineNo} {f : Fill} (v : Verdict) (s : State) (ha : f.abandoned = true)
    (h : s.noCommit f.recipe) : ReportsQuietly s (fillVerdict l f v s) := by
  have hcommit := (noCommit_afterVerdict (rslot_verdictTaken l f v s)).mpr h
  rw [fillVerdict_abandoned v s ha, readerDone_noCommit hcommit]
  refine ⟨verdictTaken_roster l f v s, verdictTaken_command l f v s, fun n => waitingOn_congr ?_ ?_⟩
  all_goals
    rw [State.ln_modRslot, ln_verdictTaken]

theorem reportAbandoned_quiet {l : LineNo} {s : State}
    (h : ∀ f, (s.ln l).fill = some f → f.abandoned = true → f.streaming = false → s.fillReadOut l = false →
      s.noCommit f.recipe) : ReportsQuietly s (reportAbandoned l s) := by
  by_cases hreports : ∃ f, (s.ln l).fill = some f ∧ f.abandoned = true ∧ f.streaming = false ∧ s.fillReadOut l = false
  · obtain ⟨f, hf, ha, hs, hr⟩ := hreports
    obtain ⟨v, y, hy, heq⟩ := reportAbandoned_verdict hf ha hs hr
    have hquiet := h f hf ha hs hr
    rw [heq]
    rcases hy with rfl | rfl
    · exact fillVerdict_quiet v _ ha hquiet
    · exact fillVerdict_quiet v { s with freeCount := s.freeCount + 1 } ha hquiet
  · rw [reportAbandoned_waits]
    · exact ⟨rfl, rfl, fun _ => rfl⟩
    · intro f hf ha hs
      rw [← Bool.not_eq_false]
      exact fun hr => hreports ⟨f, hf, ha, hs, hr⟩

/-! ## The oven at the start's end -/

/-- The suspended oven, whose directory has been emptied before its start is abandoned. -/
def State.emptied (s : State) (i : Slot) (c : StopCause) : State := s.setEnt i { (s.ent i).stopped c with dir := [] }

section
variable {i : Slot} {c : StopCause} {s : State}

theorem ent_emptied : (s.emptied i c).ent i = { (s.ent i).stopped c with dir := [] } := State.ent_setEnt_self ..

theorem line_emptied : ((s.emptied i c).ent i).line = (s.ent i).line := by
  rw [ent_emptied]
  rfl

theorem telegramTo_emptied (o : Owner) (t : Telegram) : (s.emptied i c).telegramTo i o t = s.telegramTo i o t := by
  unfold State.telegramTo
  rw [ent_emptied]
  rfl

theorem refusalSaid_emptied (p : PendingStart) : (s.emptied i c).refusalSaid i p = s.refusalSaid i p := by
  unfold State.refusalSaid
  rw [telegramTo_emptied]

theorem suspendActivity_filling_emptied (h : (s.ent i).activity = .filling) :
    suspendActivity i c (s.suspending i c) = reportAbandoned (s.ent i).line (abandonStart i (s.emptied i c)) := by
  have hent := State.ent_suspending s i c
  have hfilling : ((s.suspending i c).ent i).activity = .filling := by rw [hent]; exact h
  have hline : ((s.suspending i c).ent i).line = (s.ent i).line := by rw [hent]; rfl
  rw [suspendActivity_filling hfilling, reduceDirectory_of_ne (by rw [hfilling]; nofun), hline, hent, State.suspending,
    State.setEnt_setEnt]
  rfl

/-- The suspended entry with its start gone. -/
theorem afterSuspension_unstarted (e : Entry) :
    e.unstarted.afterSuspension = { e.unstarted with dir := [], upd := e.upd.unqueued } := by
  unfold Entry.afterSuspension
  rw [Entry.reducedDir_of_ne (by exact (nofun : Activity.idle ≠ .cooking))]
  rfl

variable {p : PendingStart} (hp : (s.ent i).start = some p) (hf : s.FillsAwaitReads)
include hp hf

/-- Where a fill is left that may report, it is the start's own, in READING. -/
theorem abandonStart_emptied_fill {f : Fill} (h : ((abandonStart i (s.emptied i c)).ln (s.ent i).line).fill = some f)
    (hab : f.abandoned = true) (hst : f.streaming = false) :
    s.fillReadOut (s.ent i).line = true ∨
      (p.stage = .reading ∧ ∃ g, (s.ln (s.ent i).line).fill = some g ∧ f = { g with abandoned := true }) := by
  have hd : ((s.emptied i c).ent i).dir = [] := by rw [ent_emptied]
  have hps : ((s.emptied i c).ent i).start = some p := by rw [ent_emptied]; exact hp
  obtain ⟨u, w, hln⟩ := ln_abandonStart hd hps (s.ent i).line
  rw [hln] at h
  dsimp only at h
  rw [← line_emptied (c := c)] at h
  by_cases hstage : p.stage = .reading
  · rw [hstage, ln_abandonStage_reading] at h
    dsimp only at h
    obtain ⟨g, hg, rfl⟩ := Option.map_eq_some_iff.mp h
    rw [line_emptied] at hg
    exact .inr ⟨hstage, g, hg, rfl⟩
  · rcases abandonStage_fill i (s.emptied i c) hstage with hsame | hnone
    · rw [hsame, line_emptied] at h
      exact .inl ((fillReadOut_iff ..).mpr (hf.1 _ f h hab hst))
    · rw [hnone] at h
      cases h

/-- With an answer still to come, or no fill of its own, the start leaves nothing to report. -/
theorem reportAbandoned_emptied (h : p.stage ≠ .reading ∨ s.fillReadOut (s.ent i).line = true) :
    reportAbandoned (s.ent i).line (abandonStart i (s.emptied i c)) = abandonStart i (s.emptied i c) := by
  refine reportAbandoned_waits fun f hfill hab hst => ?_
  have hd : ((s.emptied i c).ent i).dir = [] := by rw [ent_emptied]
  have hps : ((s.emptied i c).ent i).start = some p := by rw [ent_emptied]; exact hp
  have hpath : (abandonStart i (s.emptied i c)).fillReadOut (s.ent i).line = s.fillReadOut (s.ent i).line := by
    rw [abandonStart_keeps hd hps]
    rfl
  rw [hpath]
  rcases abandonStart_emptied_fill hp hf hfill hab hst with hout | ⟨hreading, _⟩
  · exact hout
  · exact h.resolve_left (not_not_intro hreading)

/-- The report of the start's fill is quiet where no publish waits for it. -/
theorem reportAbandoned_emptied_quiet
    (h : p.stage ≠ .reading ∨ s.fillReadOut (s.ent i).line = true ∨
      ∀ f, (s.ln (s.ent i).line).fill = some f → s.noCommit f.recipe) :
    ReportsQuietly (abandonStart i (s.emptied i c))
      (reportAbandoned (s.ent i).line (abandonStart i (s.emptied i c))) := by
  have hd : ((s.emptied i c).ent i).dir = [] := by rw [ent_emptied]
  have hps : ((s.emptied i c).ent i).start = some p := by rw [ent_emptied]; exact hp
  by_cases hquick : p.stage ≠ .reading ∨ s.fillReadOut (s.ent i).line = true
  · rw [reportAbandoned_emptied hp hf hquick]
    exact ⟨rfl, rfl, fun _ => rfl⟩
  · push Not at hquick
    obtain ⟨hreading, hout⟩ := hquick
    have hall := (h.resolve_left (not_not_intro hreading)).resolve_left hout
    refine reportAbandoned_quiet fun f hfill hab hst _ => ?_
    rcases abandonStart_emptied_fill hp hf hfill hab hst with hout' | ⟨_, g, hg, rfl⟩
    · exact absurd hout' hout
    · have hcommit := hall g hg
      rw [abandonStart_keeps hd hps]
      exact hcommit

end

end Sys2Proof.Machine
end

section
/-! PROOF. `SuspensionTaken`: the suspension by what the oven was doing. -/

namespace Sys2Proof.Machine

/-- A suspended oven's entry, its activity and its directory still to be dealt with. -/
def Entry.out (e : Entry) (c : StopCause) : Entry :=
  { e with state := .suspended, causes := e.causes ||| (1 <<< c.bitNo), upd := e.upd.unqueued }

section
variable {i : Slot} {c : StopCause} {s : State}

/-! ## IDLE -/

theorem suspend_idle_taken (h : (s.ent i).activity = .idle) :
    (suspend i c s).ent i = { (s.ent i).out c with dir := [] } ∧ (suspend i c s).lines = s.lines ∧
      (suspend i c s).service = s.service ∧ (suspend i c s).command = s.command := by
  have hidle : ((s.suspending i c).ent i).activity = .idle := by rw [State.ent_suspending]; exact h
  rw [ent_suspend, suspend_lines, suspend_service, suspend_command, suspendActivity_idle c hidle, State.ent_suspending]
  refine ⟨?_, rfl, rfl, rfl⟩
  unfold Entry.afterSuspension
  rw [Entry.reducedDir_of_ne (by rw [show ((s.ent i).stopped c).activity = .idle from h]; nofun)]
  rfl

/-! ## COOKING and CLEANING -/

/-- Under a FAULT the oven goes on, and ABORT is queued unless one is out. -/
theorem suspend_fault_taken (hw : s.OffersWaitInTurn (s.ent i).line)
    (h : (s.ent i).activity = .cooking ∨ (s.ent i).activity = .cleaning) :
    ((s.ent i).abortMark = .unset →
      (suspend i .fault s).ent i = { (s.ent i).out .fault with abortMark := .outstanding, dir := (s.ent i).reducedDir } ∧
      ∀ l, (suspend i .fault s).waitingOn l = s.waitingOn l ++
        if l = (s.ent i).line then [s.telegramTo i .roster .abort] else []) ∧
    ((s.ent i).abortMark ≠ .unset →
      (suspend i .fault s).ent i = { (s.ent i).out .fault with dir := (s.ent i).reducedDir } ∧
      (suspend i .fault s).lines = s.lines) := by
  have hent := State.ent_suspending s i .fault
  have hactivity : suspendActivity i .fault (s.suspending i .fault) = queueRosterAbort i (s.suspending i .fault) := by
    rcases h with h | h
    · exact (suspendActivity_cooking (by rw [hent]; exact h)).trans (if_pos rfl)
    · exact (suspendActivity_cleaning (by rw [hent]; exact h)).trans (if_pos rfl)
  refine ⟨fun hm => ⟨?_, fun l => ?_⟩, fun hm => ⟨?_, ?_⟩⟩
  · rw [ent_suspend, hactivity, queueRosterAbort_unset (by rw [hent]; exact hm), ent_sendTo, State.ent_setEnt_self, hent]
    rfl
  · rw [suspend_waitingOn, hactivity, queueRosterAbort_unset (by rw [hent]; exact hm), State.suspending, State.setEnt_setEnt,
      State.ent_setEnt_self, sendTo_setEnt]
    exact waitingOn_queueUrgent_all _ _ _ hw l
  · rw [ent_suspend, hactivity, queueRosterAbort_set (by rw [hent]; exact hm), hent]
    rfl
  · rw [suspend_lines, hactivity, queueRosterAbort_set (by rw [hent]; exact hm)]
    rfl

theorem suspend_silent_cooking {k : CookRec} (h : (s.ent i).activity = .cooking) (hk : (s.ent i).cook = some k) :
    (suspend i .silent s).ent i =
        { (s.ent i).out .silent with activity := .idle, abortMark := .unset, cook := none, dir := [] } ∧
      (suspend i .silent s).lines = s.lines ∧
      (suspend i .silent s).rslot k.recipe = { s.rslot k.recipe with pins := (s.rslot k.recipe).pins - 1 } ∧
      ((suspend i .silent s).report.journal, (suspend i .silent s).report.gapPending) =
        s.report.passed (s.cookJournal i k .unknown k.step) := by
  have hent := State.ent_suspending s i .silent
  have hactivity : suspendActivity i .silent (s.suspending i .silent) = closeCookUnknown i (s.suspending i .silent) :=
    suspendActivity_cooking (by rw [hent]; exact h)
  rw [ent_suspend, suspend_lines, rslot_suspend, suspend_journal, suspend_gapPending, hactivity,
    closeCookUnknown_some (by rw [hent]; exact hk), hent]
  refine ⟨?_, ?_, ?_, ?_⟩
  · rw [State.ent_setEnt_self]
    rfl
  · simp [State.suspending]
  · simp [State.suspending]
  · exact passJournal_passed _ _

theorem suspend_silent_cleaning {k : CleanRec} (h : (s.ent i).activity = .cleaning) (hk : (s.ent i).cleaning = some k) :
    (suspend i .silent s).ent i =
        { (s.ent i).out .silent with activity := .idle, abortMark := .unset, cleaning := none, dir := [] } ∧
      (suspend i .silent s).lines = s.lines ∧
      ((suspend i .silent s).report.journal, (suspend i .silent s).report.gapPending) =
        s.report.passed (s.cleanJournal i k) := by
  have hent := State.ent_suspending s i .silent
  have hactivity : suspendActivity i .silent (s.suspending i .silent) = closeCleaningUnknown i (s.suspending i .silent) :=
    suspendActivity_cleaning (by rw [hent]; exact h)
  rw [ent_suspend, suspend_lines, suspend_journal, suspend_gapPending, hactivity,
    closeCleaningUnknown_some (by rw [hent]; exact hk), hent]
  refine ⟨?_, ?_, ?_⟩
  · rw [State.ent_setEnt_self]
    unfold Entry.afterSuspension
    rw [Entry.reducedDir_of_ne (by exact (nofun : Activity.idle ≠ .cooking))]
    rfl
  · simp [State.suspending]
  · refine (passJournal_passed _ _).trans (ReportWriter.passed_congr rfl rfl ?_)
    rw [State.cleanJournal, hent]
    rfl

/-! ## UPDATING -/

/-- Around an activity that leaves the oven idle and out of every rollout's queue. -/
theorem suspend_of_activity {z : State} (hz : suspendActivity i c (s.suspending i c) = z)
    (hq : (z.ent i).upd.state ≠ .queued) (ha : (z.ent i).activity ≠ .cooking) (hh : z.hygiene = s.hygiene) :
    suspend i c s = { z.setEnt i { z.ent i with dir := [] } with hygiene := s.hygiene.without i } := by
  have hhygiene : (leaveCleaning i z).hygiene = s.hygiene.without i := congrArg (HygieneUnit.without · i) hh
  rw [suspend_eq, ← State.suspending, hz, reduceDirectory_of_ne (by rw [ent_leaveCleaning]; exact ha),
    skipQueued_of_ne (by rw [State.ent_setEnt_self, ent_leaveCleaning]; exact hq), ent_leaveCleaning, ← hhygiene]
  rfl

theorem suspend_updating (h : (s.ent i).activity = .updating) :
    suspend i c s =
      { (failOven i .suspended none none none (s.suspending i c)).setEnt i
          { (failOven i .suspended none none none (s.suspending i c)).ent i with dir := [] } with
        hygiene := s.hygiene.without i } := by
  have hent : (failOven i .suspended none none none (s.suspending i c)).ent i =
      ((s.suspending i c).ent i).failedUpdate .suspended := by rw [ent_failOven, if_pos rfl]
  refine suspend_of_activity (suspendActivity_updating (by rw [State.ent_suspending]; exact h)) ?_ ?_ ?_
  · rw [hent]
    exact (nofun : UpdState.failed ≠ .queued)
  · rw [hent]
    exact (nofun : Activity.idle ≠ .cooking)
  · rw [failOven_hygiene]
    rfl

end
end Sys2Proof.Machine
end

section
/-! PROOF. `SuspensionTaken` for an oven that is FILLING, and the statement as a whole. -/

namespace Sys2Proof.Machine

section
variable {i : Slot} {c : StopCause} {s : State} {p : PendingStart} (ha : (s.ent i).activity = .filling)
  (hp : (s.ent i).start = some p) (hf : s.FillsAwaitReads)

theorem emptied_dir : ((s.emptied i c).ent i).dir = [] := by rw [ent_emptied]

theorem grantUnsent_iff (st : Stage) : s.grantUnsent i st ↔
    st = .granting ∧ ∃ l, ∃ q ∈ s.waitingOn l, q.target = some i ∧ ∃ t r v, q.tel = .grant t r v ∨ q.tel = .start t r v := by
  simp only [State.grantUnsent, telegramQueued_iff, isGrantTo_iff]

/-- What waits on the lines once the start has gone, but for its refusal. -/
def State.withoutGrants (s : State) (i : Slot) (st : Stage) (l : LineNo) : List Queued :=
  if st = .granting then (s.waitingOn l).filter (fun q => !isGrantTo i q) else s.waitingOn l

include hp

theorem emptied_start : ((s.emptied i c).ent i).start = some p := by
  rw [ent_emptied]
  exact hp

include ha hf

/-! ## Where no publish waits for the fill -/

section
variable (hquiet : p.stage ≠ .reading ∨ s.fillReadOut (s.ent i).line = true ∨
  ∀ f, (s.ln (s.ent i).line).fill = some f → s.noCommit f.recipe)
include hquiet

theorem suspend_filling_ent [Decidable (s.grantUnsent i p.stage)] : (suspend i c s).ent i =
    if s.grantUnsent i p.stage then
      { (s.ent i).out c with activity := .idle, abortMark := .unset, start := none, dir := [], grant := none }
    else { (s.ent i).out c with activity := .idle, abortMark := .unset, start := none, dir := [] } := by
  classical
  obtain ⟨hroster, _, _⟩ := reportAbandoned_emptied_quiet (c := c) hp hf hquiet
  rw [ent_suspend, suspendActivity_filling_emptied ha, State.ent_congr hroster, ent_abandonStart emptied_dir (emptied_start hp),
    ent_emptied]
  by_cases h : s.grantUnsent i p.stage
  · rw [if_pos h, if_pos (by exact h)]
    unfold Entry.afterSuspension
    rw [Entry.reducedDir_of_ne (by exact (nofun : Activity.idle ≠ .cooking))]
    rfl
  · rw [if_neg h, if_neg (by exact h), afterSuspension_unstarted]
    rfl

theorem suspend_filling_command :
    (p.origin = .controller → (suspend i c s).command = (endLong (.oven i) .denied 1 0 0 s).command) ∧
    (p.origin ≠ .controller → (suspend i c s).command = s.command) := by
  obtain ⟨_, hcommand, _⟩ := reportAbandoned_emptied_quiet (c := c) hp hf hquiet
  obtain ⟨hcontroller, hpanel⟩ := abandonStart_command (emptied_dir (c := c)) (emptied_start hp)
  rw [suspend_command, suspendActivity_filling_emptied ha, hcommand]
  exact ⟨fun h => (hcontroller h).trans (endLong_command_congr rfl), fun h => hpanel h⟩

theorem suspend_filling_waitingOn (hw : s.OffersWaitInTurn (s.ent i).line) (l : LineNo) :
    (suspend i c s).waitingOn l = s.withoutGrants i p.stage l ++
      if l = (s.ent i).line then s.refusalSaid i p else [] := by
  obtain ⟨_, _, hwaiting⟩ := reportAbandoned_emptied_quiet (c := c) hp hf hquiet
  rw [suspend_waitingOn, suspendActivity_filling_emptied ha, hwaiting,
    abandonStart_waitingOn emptied_dir (emptied_start hp) (by rw [line_emptied]; exact hw), line_emptied, refusalSaid_emptied]
  rfl

end

/-! ## Where no fill reports -/

section
variable (hnone : p.stage ≠ .reading ∨ s.fillReadOut (s.ent i).line = true)
include hnone

theorem suspend_filling_units : (suspend i c s).recipe = s.recipe ∧ (suspend i c s).service = s.service := by
  rw [suspend_recipe, suspend_service, suspendActivity_filling_emptied ha, reportAbandoned_emptied hp hf hnone,
    abandonStart_keeps emptied_dir (emptied_start hp)]
  exact ⟨rfl, rfl⟩

/-- On the oven's line its stage leaves its traces, beside what waits. -/
theorem suspend_filling_ln : ∃ u w, (suspend i c s).ln (s.ent i).line =
    { (abandonStage i p.stage (s.emptied i c)).ln ((s.emptied i c).ent i).line with urgent := u, waiting := w } := by
  rw [ln_suspend, suspendActivity_filling_emptied ha, reportAbandoned_emptied hp hf hnone, line_emptied]
  exact ln_abandonStart emptied_dir (emptied_start hp) _

end

theorem suspend_filling_queued (h : p.stage = .queued ∨ p.stage = .evictWait) :
    ((suspend i c s).ln (s.ent i).line).fillQueue = (s.ln (s.ent i).line).fillQueue.filter (fun w => w.slot != i) ∧
      ((suspend i c s).ln (s.ent i).line).fill = (s.ln (s.ent i).line).fill := by
  obtain ⟨u, w, hln⟩ := suspend_filling_ln (c := c) ha hp hf (.inl (by rcases h with h | h <;> rw [h] <;> nofun))
  rw [hln, ln_abandonStage_queued i _ h, line_emptied]
  exact ⟨rfl, rfl⟩

theorem suspend_filling_streaming (h : p.stage = .streaming) :
    (s.blockRunning (s.ent i).line .fill i = true →
      ((suspend i c s).ln (s.ent i).line).fill = (s.ln (s.ent i).line).fill ∧
      ((suspend i c s).ln (s.ent i).line).streams = (s.ln (s.ent i).line).streams.map
        (fun z => if z.kind = .fill ∧ z.slot = i then { z with drop := true } else z)) ∧
    (¬s.blockRunning (s.ent i).line .fill i = true →
      ((suspend i c s).ln (s.ent i).line).fill = none ∧
      ((suspend i c s).ln (s.ent i).line).streams =
        (s.ln (s.ent i).line).streams.filter (fun z => !(z.kind == .fill && z.slot == i))) := by
  obtain ⟨u, w, hln⟩ := suspend_filling_ln (c := c) ha hp hf (.inl (by rw [h]; nofun))
  rw [h] at hln
  have hrunning : (s.emptied i c).blockRunning ((s.emptied i c).ent i).line .fill i =
      s.blockRunning (s.ent i).line .fill i := by rw [line_emptied]; rfl
  refine ⟨fun hb => ?_, fun hb => ?_⟩
  · rw [hln, ln_abandonStage_sending i _ (hrunning.trans hb), line_emptied]
    exact ⟨rfl, rfl⟩
  · rw [hln, ln_abandonStage_waiting i _ (fun hc => hb (hrunning.symm.trans hc)), line_emptied]
    exact ⟨rfl, rfl⟩

theorem suspend_filling_reading {f : Fill} (hst : p.stage = .reading) (hfill : (s.ln (s.ent i).line).fill = some f)
    (hout : s.fillReadOut (s.ent i).line = true) :
    ((suspend i c s).ln (s.ent i).line).fill = some { f with abandoned := true } := by
  obtain ⟨u, w, hln⟩ := suspend_filling_ln (c := c) ha hp hf (.inr hout)
  rw [hln, hst, ln_abandonStage_reading, line_emptied, show (s.emptied i c).ln (s.ent i).line = s.ln (s.ent i).line from rfl, hfill]
  rfl

end

/-! ## A fill in READING with no answer to come -/

section
variable {i : Slot} {c : StopCause} {s : State} {p : PendingStart} (hp : (s.ent i).start = some p)
include hp

theorem abandonStart_emptied_rslot (r : RecipeNo) : (abandonStart i (s.emptied i c)).rslot r = s.rslot r := by
  rw [abandonStart_keeps emptied_dir (emptied_start hp)]
  rfl

variable {f : Fill} (hst : p.stage = .reading) (hfill : (s.ln (s.ent i).line).fill = some f)
include hst hfill

/-- The abandoned fill in its buffer, as it may report. -/
theorem abandonStart_reading_fill :
    ((abandonStart i (s.emptied i c)).ln (s.ent i).line).fill = some { f with abandoned := true } := by
  obtain ⟨u, w, hln⟩ := ln_abandonStart (emptied_dir (c := c)) (emptied_start hp) (s.ent i).line
  rw [hln, hst, ← line_emptied (c := c), ln_abandonStage_reading, line_emptied,
    show (s.emptied i c).ln (s.ent i).line = s.ln (s.ent i).line from rfl, hfill]
  rfl

variable (ha : (s.ent i).activity = .filling) (hstream : f.streaming = false)
  (hout : s.fillReadOut (s.ent i).line = false)
include ha hstream hout

/-- What the report is: one verdict of the abandoned fill, on the state without the start. -/
theorem suspend_filling_verdict : ∃ v y, (y = abandonStart i (s.emptied i c) ∨
      y = { abandonStart i (s.emptied i c) with freeCount := (abandonStart i (s.emptied i c)).freeCount + 1 }) ∧
    suspendActivity i c (s.suspending i c) = fillVerdict (s.ent i).line { f with abandoned := true } v y := by
  rw [suspendActivity_filling_emptied ha]
  refine reportAbandoned_verdict (abandonStart_reading_fill hp hst hfill) rfl hstream ?_
  rw [abandonStart_keeps emptied_dir (emptied_start hp)]
  exact hout

/-- Its buffer is free and its reader gone; a publish that waited ends. -/
theorem suspend_filling_reported :
    ((suspend i c s).ln (s.ent i).line).fill = none ∧
      ((suspend i c s).rslot f.recipe).readers = (s.rslot f.recipe).readers - 1 ∧
      (¬s.noCommit f.recipe → (s.rslot f.recipe).staged ≠ none →
        ((suspend i c s).rslot f.recipe).publish = .idle ∧ ((suspend i c s).rslot f.recipe).staged = none) := by
  obtain ⟨v, y, hy, heq⟩ := suspend_filling_verdict (c := c) hp hst hfill ha hstream hout
  have hrslot : y.rslot f.recipe = s.rslot f.recipe := by
    rw [← abandonStart_emptied_rslot (c := c) hp f.recipe]
    rcases hy with rfl | rfl <;> rfl
  have hverdict := fillVerdict_reported (s.ent i).line { f with abandoned := true } v y rfl
  rw [ln_suspend, rslot_suspend, heq, ← hrslot]
  unfold State.noCommit
  rw [← hrslot]
  exact hverdict

/-- A fill that had not read the whole recipe: its verdict is a free value. -/
theorem suspend_filling_partial (hcommit : s.noCommit f.recipe) (hfailed : f.failed = false) (hpart : f.data.length < f.used) :
    suspendActivity i c (s.suspending i c) =
      (({ abandonStart i (s.emptied i c) with freeCount := (abandonStart i (s.emptied i c)).freeCount + 1 } : State).verdictTaken
        (s.ent i).line { f with abandoned := true }
        (if Config.partialFillGood s.freeCount then .good else .mismatch)).modRslot f.recipe
          (fun x => { x with readers := x.readers - 1 }) := by
  have hkeeps := abandonStart_keeps (emptied_dir (i := i) (c := c) (s := s)) (emptied_start hp)
  have hread : (abandonStart i (s.emptied i c)).fillReadOut (s.ent i).line = false := by
    rw [hkeeps]
    exact hout
  have hfree : (abandonStart i (s.emptied i c)).freeCount = s.freeCount := by
    rw [hkeeps]
    rfl
  rw [suspendActivity_filling_emptied ha,
    reportAbandoned_reports (abandonStart_reading_fill hp hst hfill) rfl hstream hread,
    if_neg (by simp [hfailed]), if_neg (by exact hpart.not_ge), hfree]
  refine fillVerdict_noCommit _ _ rfl ?_
  rw [show State.rslot { abandonStart i (s.emptied i c) with freeCount := s.freeCount + 1 } f.recipe = s.rslot f.recipe from
    abandonStart_emptied_rslot hp f.recipe]
  exact hcommit

theorem suspend_filling_good (hcommit : s.noCommit f.recipe) (hfailed : f.failed = false) (hpart : f.data.length < f.used)
    (hgood : Config.partialFillGood s.freeCount = true) :
    (suspend i c s).service = s.service ∧
      (suspend i c s).rslot f.recipe = { s.rslot f.recipe with readers := (s.rslot f.recipe).readers - 1 } := by
  have hkeeps := abandonStart_keeps (emptied_dir (i := i) (c := c) (s := s)) (emptied_start hp)
  rw [suspend_service, rslot_suspend, suspend_filling_partial hp hst hfill ha hstream hout hcommit hfailed hpart, if_pos hgood]
  refine ⟨?_, ?_⟩
  · rw [State.modRslot_service, verdictTaken_good, hkeeps]
    rfl
  · rw [State.rslot_modRslot_self, rslot_verdictTaken]
    exact congrArg (fun x : RecipeSlot => { x with readers := x.readers - 1 }) (abandonStart_emptied_rslot hp f.recipe)

theorem suspend_filling_mismatch (hcommit : s.noCommit f.recipe) (hfailed : f.failed = false) (hpart : f.data.length < f.used)
    (hbad : Config.partialFillGood s.freeCount = false) :
    (suspend i c s).service = (raiseCall (.recipe f.recipe) .recipeCorrupt .urgent
        [f.version.setWidth 32, Config.mismatchCode, BitVec.ofNat 32 (s.ent i).line.val] s).service ∧
      (suspend i c s).rslot f.recipe = { s.rslot f.recipe with
        readers := (s.rslot f.recipe).readers - 1,
        state := if (s.rslot f.recipe).state = .published then .quarantined else (s.rslot f.recipe).state } := by
  have hkeeps := abandonStart_keeps (emptied_dir (i := i) (c := c) (s := s)) (emptied_start hp)
  rw [suspend_service, rslot_suspend, suspend_filling_partial hp hst hfill ha hstream hout hcommit hfailed hpart,
    if_neg (by rw [hbad]; exact Bool.false_ne_true)]
  refine ⟨?_, ?_⟩
  · rw [State.modRslot_service, verdictTaken_mismatch, hkeeps]
    exact raiseCall_service_congr rfl rfl rfl
  · rw [State.rslot_modRslot_self, rslot_verdictTaken]
    exact congrArg (fun x : RecipeSlot => { x.afterVerdict .mismatch with readers := (x.afterVerdict .mismatch).readers - 1 })
      (abandonStart_emptied_rslot hp f.recipe)

end
end Sys2Proof.Machine
end

section
/-! PROOF. `SuspensionTaken` as a whole. -/

namespace Sys2Proof.Machine

section
variable {i : Slot} {c : StopCause} {s : State}

/-- Of the oven's abandoned start: nothing that waits any longer is its GRANT or START. -/
theorem suspend_filling_no_grant {p : PendingStart} (ha : (s.ent i).activity = .filling) (hp : (s.ent i).start = some p)
    (hf : s.FillsAwaitReads) (hw : s.OffersWaitInTurn (s.ent i).line) (h : s.grantUnsent i p.stage) (l : LineNo) (q : Queued)
    (hq : q ∈ (suspend i c s).waitingOn l) : ¬isGrantTo i q = true := by
  obtain ⟨hstage, _⟩ := h
  rw [suspend_filling_waitingOn ha hp hf (.inl (by rw [hstage]; nofun)) hw, State.withoutGrants, if_pos hstage] at hq
  rcases List.mem_append.mp hq with hq | hq
  · simpa using (List.mem_filter.mp hq).2
  · split at hq
    · unfold State.refusalSaid at hq
      split at hq
      · cases hq
      · rw [List.mem_singleton.mp hq]
        simp [isGrantTo, State.telegramTo]
    · cases hq

end

end Sys2Proof.Machine

open Sys2Proof.Machine in
/-- Settles O42: by the oven's activity. -/
theorem suspensionTaken : Obligations.SuspensionTaken := by
  classical
  unfold Obligations.SuspensionTaken
  intro i c s hm hf hw e x n out unqueued
  have hears (hh : s.hrst = false) : s.hears = true := by simp [State.hears, State.running, hm, hh]
  refine ⟨suspend_taken i c s, fun ha => ⟨fun hq => ?queued, fun hq => suspend_update_of_ne ha hq⟩, suspend_idle_taken,
    fun k ha hk => ⟨fun hc hmark => ?cookUnset, fun hc hmark => ?cookSet, fun hc => ?cookSilent⟩,
    fun k ha hk => ⟨fun hc hmark => ?cleanUnset, fun hc hmark => ?cleanSet, fun hc => ?cleanSilent⟩, suspend_updating,
    fun p ha hp => ?filling⟩
  case queued =>
    obtain ⟨hupdate, hpending⟩ := suspend_update_of_queued (c := c) ha hq
    exact ⟨hupdate, fun hh => hpending (hears hh)⟩
  case cookUnset =>
    subst hc
    have h := (suspend_fault_taken hw (.inl ha)).1 hmark
    rw [Entry.reducedDir_cooking ha hk] at h
    exact h
  case cookSet =>
    subst hc
    have h := (suspend_fault_taken hw (.inl ha)).2 hmark
    rw [Entry.reducedDir_cooking ha hk] at h
    exact h
  case cookSilent =>
    subst hc
    exact suspend_silent_cooking ha hk
  case cleanUnset =>
    subst hc
    have h := (suspend_fault_taken hw (.inr ha)).1 hmark
    rw [Entry.reducedDir_of_ne (by rw [ha]; nofun)] at h
    exact h
  case cleanSet =>
    subst hc
    have h := (suspend_fault_taken hw (.inr ha)).2 hmark
    rw [Entry.reducedDir_of_ne (by rw [ha]; nofun)] at h
    exact h
  case cleanSilent =>
    subst hc
    exact suspend_silent_cleaning ha hk
  case filling =>
    intro readOut isGrant unsent sending noCommit said
    have hread : readOut ↔ s.fillReadOut n = true := (fillReadOut_iff s n).symm
    have hunsent : unsent ↔ s.grantUnsent i p.stage := (grantUnsent_iff p.stage).symm
    have hsending : sending ↔ s.blockRunning n .fill i = true := (blockRunning_fill_iff i s n).symm
    rw [hread, hunsent, hsending]
    refine ⟨fun hquiet => ⟨fun hu => ?_, fun hu => ?_, (suspend_filling_command ha hp hf hquiet).1,
        (suspend_filling_command ha hp hf hquiet).2, isGrantTo_iff i, suspend_filling_waitingOn ha hp hf hquiet hw⟩,
      suspend_filling_units ha hp hf, suspend_filling_queued ha hp hf, fun f hst hfill hstream => ⟨?_, fun hout => ?_⟩,
      suspend_filling_streaming ha hp hf, fun hu l q hq hg => ?_⟩
    · rw [suspend_filling_ent ha hp hf hquiet, if_pos hu]
      rfl
    · rw [suspend_filling_ent ha hp hf hquiet, if_neg hu]
      rfl
    · exact suspend_filling_reading ha hp hf hst hfill
    · have hout : s.fillReadOut n = false := Bool.eq_false_iff.mpr hout
      obtain ⟨hnone, hreaders, hcommit⟩ := suspend_filling_reported (c := c) hp hst hfill ha hstream hout
      exact ⟨hnone, hreaders, hcommit, fun hno hfailed hpart =>
        ⟨suspend_filling_good hp hst hfill ha hstream hout hno hfailed hpart,
          suspend_filling_mismatch hp hst hfill ha hstream hout hno hfailed hpart⟩⟩
    · exact suspend_filling_no_grant ha hp hf hw hu l q hq ((isGrantTo_iff i q).mpr hg)
end

section
/-! PROOF. How a raise is taken, and what a FAULT notice does. -/

namespace Sys2Proof.Machine

/-! ## Raises (R131, R135-R137) -/

section
variable {src : Source} {cau : Cause} {sev : Severity} {details : List Word} {s : State}

theorem raiseCall_stopped (h : s.mode ≠ .running) : raiseCall src cau sev details s = s :=
  if_pos (by simp [State.running, h])

variable (hm : s.mode = .running)
include hm

theorem raiseCall_merges (h : s.service.calls.any (fun c => c.hasKey src cau) = true) :
    raiseCall src cau sev details s = { s with service := { s.service with
      calls := s.service.calls.map (fun c => if c.hasKey src cau then c.merge sev details s.report.clock else c) } } := by
  unfold raiseCall
  rw [if_neg (by simp [State.running, hm]), if_pos h]

variable (hnew : ∀ c ∈ s.service.calls, ¬(c.source = src ∧ c.cause = cau))
include hnew

/-- A raise of a key that no call has. -/
theorem raiseCall_new : raiseCall src cau sev details s =
    if s.service.calls.length < 32 then joinCall src cau sev details s.service.calls s
    else ((dropOldestAck s.service.calls).map (joinCall src cau sev details · s)).getD
      (markServiceOverrun (oweSite { s with service := { s.service with dropped := true } })) := by
  have hnone : s.service.calls.any (fun c => c.hasKey src cau) = false := by
    rw [List.any_eq_false]
    intro c hc
    simpa [Call.hasKey] using hnew c hc
  unfold raiseCall
  rw [if_neg (by simp [State.running, hm]), if_neg (by simp [hnone])]
  refine ite_congr rfl (fun _ => rfl) fun _ => ?_
  cases dropOldestAck s.service.calls <;> rfl

theorem raiseCall_creates (h : s.service.calls.length < 32) :
    raiseCall src cau sev details s = joinCall src cau sev details s.service.calls s := by
  rw [raiseCall_new hm hnew, if_pos h]

theorem raiseCall_replaces (h : 32 ≤ s.service.calls.length) {t : List Call} (ht : dropOldestAck s.service.calls = some t) :
    raiseCall src cau sev details s = joinCall src cau sev details t s := by
  rw [raiseCall_new hm hnew, if_neg h.not_gt, ht]
  rfl

theorem raiseCall_drops (h : 32 ≤ s.service.calls.length) (ht : dropOldestAck s.service.calls = none) :
    raiseCall src cau sev details s =
      markServiceOverrun (oweSite { s with service := { s.service with dropped := true } }) := by
  rw [raiseCall_new hm hnew, if_neg h.not_gt, ht]
  rfl

end

theorem dropOldestAck_split {c : Call} {before after : List Call} (hb : ∀ d ∈ before, d.state ≠ .acknowledged)
    (hc : c.state = .acknowledged) : dropOldestAck (before ++ c :: after) = some (before ++ after) := by
  induction before with
  | nil => exact if_pos hc
  | cons d t ih =>
    rw [List.cons_append, dropOldestAck, if_neg (hb d List.mem_cons_self), ih fun x hx => hb x (List.mem_cons_of_mem d hx)]
    rfl

theorem dropOldestAck_none {l : List Call} (h : ∀ d ∈ l, d.state ≠ .acknowledged) : dropOldestAck l = none := by
  induction l with
  | nil => rfl
  | cons d t ih =>
    rw [dropOldestAck, if_neg (h d List.mem_cons_self), ih fun x hx => h x (List.mem_cons_of_mem d hx)]
    rfl

/-- The merged call, with its escalation. -/
theorem Call.merge_eq (c : Call) (sev : Severity) (details : List Word) (now : Word) : c.merge sev details now =
    { c with
      repeats := min 255 (c.repeats + 1), details := details, lastRaised := now,
      severity := if decide (c.severity.rank < sev.rank) then sev else c.severity,
      escalated := c.escalated || decide (c.severity.rank < sev.rank),
      state := if decide (c.severity.rank < sev.rank) then .unposted else c.state } := by
  unfold Call.merge
  by_cases h : c.severity.rank < sev.rank <;> simp [h]

theorem Call.hasKey_iff (c : Call) (src : Source) (cau : Cause) : c.hasKey src cau = true ↔ c.source = src ∧ c.cause = cau := by
  simp [Call.hasKey]

/-- In a table whose keys are distinct, a change of one key's calls changes one call. -/
theorem map_key_split {c : Call} {before after : List Call} {src : Source} {cau : Cause} (f : Call → Call)
    (hd : (before ++ c :: after).Pairwise (fun a b => ¬(a.source = b.source ∧ a.cause = b.cause)))
    (hsrc : c.source = src) (hcau : c.cause = cau) :
    (before ++ c :: after).map (fun x => if x.hasKey src cau then f x else x) = before ++ f c :: after := by
  subst hsrc hcau
  obtain ⟨_, hafter, hbefore⟩ := List.pairwise_append.mp hd
  have hkeep (l : List Call) (h : ∀ x ∈ l, ¬x.hasKey c.source c.cause = true) :
      l.map (fun x => if x.hasKey c.source c.cause then f x else x) = l := by
    rw [List.map_congr_left fun x hx => if_neg (h x hx), List.map_id']
  rw [List.map_append, List.map_cons, if_pos ((c.hasKey_iff ..).mpr ⟨rfl, rfl⟩), hkeep before, hkeep after]
  · intro x hx hk
    obtain ⟨hsrc, hcau⟩ := (x.hasKey_iff ..).mp hk
    exact (List.pairwise_cons.mp hafter).1 x hx ⟨hsrc.symm, hcau.symm⟩
  · intro x hx hk
    exact hbefore x hx c List.mem_cons_self ((x.hasKey_iff ..).mp hk)

/-- A dropped raise (R137): what it leaves of the report. -/
theorem dropped_report {s : State} (hm : s.mode = .running) :
    (s.hrst = false → (markServiceOverrun (oweSite s)).report = { s.report with
      rewriteList := withSite s.report.rewriteList, overrunSet := s.report.overrunSet ||| eventBit .service,
      summaryRaised := true }) ∧
    (s.hrst = true → (markServiceOverrun (oweSite s)).report = { s.report with
      rewriteList := withSite s.report.rewriteList }) := by
  refine ⟨fun h => ?_, fun h => ?_⟩
  · unfold markServiceOverrun
    rw [if_pos (by simp [State.running, oweSite, hm, h])]
    rfl
  · unfold markServiceOverrun
    rw [if_neg (by simp [State.running, oweSite, hm, h])]
    rfl

theorem markServiceOverrun_eq (s : State) :
    markServiceOverrun s = { s with report := (markServiceOverrun s).report } := by
  unfold markServiceOverrun
  split <;> rfl

theorem withSite_eq (l : List RewriteItem) : withSite l = if .site ∈ l then l else l ++ [.site] := by
  simp [withSite]


/-! ## Suspension by a FAULT, of an oven whose offers may wait out of turn -/

theorem mem_waitingOn_queueUrgent (l : LineNo) (q : Queued) (s : State) : q ∈ (queueUrgent l q s).waitingOn l := by
  unfold State.waitingOn queueUrgent
  rw [State.ln_modLn, if_pos rfl]
  split <;> simp

theorem mem_waitingOn_sendTo (i : Slot) (o : Owner) (t : Telegram) (s : State) :
    s.telegramTo i o t ∈ (sendTo i o t s).waitingOn (s.ent i).line := mem_waitingOn_queueUrgent ..

section
variable {i : Slot} {c : StopCause} {s : State}

/-- The roster's ABORT leaves of the entry all but its abort mark. -/
theorem ent_queueRosterAbort (i : Slot) (s : State) :
    (queueRosterAbort i s).ent i =
      { s.ent i with abortMark := if (s.ent i).abortMark = .unset then .outstanding else (s.ent i).abortMark } := by
  by_cases h : (s.ent i).abortMark = .unset
  · rw [queueRosterAbort_unset h, ent_sendTo, State.ent_setEnt_self, if_pos h]
  · rw [queueRosterAbort_set h, if_neg h]

theorem suspendActivity_fault (h : (s.ent i).activity = .cooking ∨ (s.ent i).activity = .cleaning) :
    suspendActivity i .fault (s.suspending i .fault) = queueRosterAbort i (s.suspending i .fault) := by
  have hent := State.ent_suspending s i .fault
  rcases h with h | h
  · exact (suspendActivity_cooking (by rw [hent]; exact h)).trans (if_pos rfl)
  · exact (suspendActivity_cleaning (by rw [hent]; exact h)).trans (if_pos rfl)

/-- The entry of an oven that goes on under a FAULT. -/
theorem ent_suspend_fault (h : (s.ent i).activity = .cooking ∨ (s.ent i).activity = .cleaning) :
    (suspend i .fault s).ent i = { (s.ent i).out .fault with
      abortMark := if (s.ent i).abortMark = .unset then .outstanding else (s.ent i).abortMark, dir := (s.ent i).reducedDir } := by
  rw [ent_suspend, suspendActivity_fault h, ent_queueRosterAbort, State.ent_suspending]
  rfl

theorem suspend_fault_aborts (h : (s.ent i).activity = .cooking ∨ (s.ent i).activity = .cleaning)
    (hm : (s.ent i).abortMark = .unset) : s.telegramTo i .roster .abort ∈ (suspend i .fault s).waitingOn (s.ent i).line := by
  rw [suspend_waitingOn, suspendActivity_fault h, queueRosterAbort_unset (by rw [State.ent_suspending]; exact hm),
    State.suspending, State.setEnt_setEnt, State.ent_setEnt_self, sendTo_setEnt]
  exact mem_waitingOn_queueUrgent ..

theorem suspend_filling_idle (h : (s.ent i).activity = .filling) :
    ((suspend i c s).ent i).activity = .idle ∧ ((suspend i c s).ent i).start = none ∧ ((suspend i c s).ent i).dir = [] := by
  classical
  have hstart : ((abandonStart i (s.emptied i c)).ent i).activity = .idle ∧
      ((abandonStart i (s.emptied i c)).ent i).start = none := by
    cases hp : (s.ent i).start with
    | none =>
      rw [abandonStart_none (by rw [ent_emptied]; exact hp), toIdle_eq, State.ent_setEnt_self, ent_emptied]
      exact ⟨rfl, hp⟩
    | some p =>
      rw [ent_abandonStart emptied_dir (emptied_start hp)]
      split <;> exact ⟨rfl, rfl⟩
  obtain ⟨hidle, hnone⟩ := hstart
  obtain ⟨d, hd⟩ := (FillWork.reportAbandoned (s.ent i).line (abandonStart i (s.emptied i c))).ents i
  rw [ent_suspend, suspendActivity_filling_emptied h, hd]
  refine ⟨hidle, hnone, Entry.reducedDir_of_ne ?_⟩
  rw [show ({ (abandonStart i (s.emptied i c)).ent i with dir := d } : Entry).activity = .idle from hidle]
  nofun

theorem ent_suspend_updating (h : (s.ent i).activity = .updating) :
    (suspend i c s).ent i = { ((s.ent i).stopped c).failedUpdate .suspended with dir := [] } := by
  rw [ent_suspend, suspendActivity_updating (by rw [State.ent_suspending]; exact h), ent_failOven, if_pos rfl,
    State.ent_suspending, Entry.afterSuspension, Entry.reducedDir_of_ne (by exact (nofun : Activity.idle ≠ .cooking)),
    UpdRec.unqueued_of_ne (by exact (nofun : UpdState.failed ≠ .queued))]

theorem suspend_upd (ha : (s.ent i).activity ≠ .updating) : ((suspend i c s).ent i).upd = (s.ent i).upd.unqueued := by
  have hupd := (ActivityWork.suspendActivity c (i := i) (s := s.suspending i c) (by rw [State.ent_suspending]; exact ha)).upd
  rw [State.ent_suspending] at hupd
  rw [ent_suspend]
  exact congrArg UpdRec.unqueued hupd

end

/-! ## The FAULT notice (R133) -/

section
variable {i : Slot} {codes : List Half} {s : State}

/-- OVEN_FAULT is raised first. -/
def State.faulted (s : State) (i : Slot) (cls : Severity) (codes : List Half) : State :=
  raiseCall (.oven i) .ovenFault cls (codes.map (fun c => c.setWidth 32)) s

@[simp] theorem ent_faulted (cls : Severity) (k : Slot) : (s.faulted i cls codes).ent k = s.ent k := ent_raiseCall ..

theorem takeNotice_fault {cls : Severity} (h : cls ≠ .stop) : takeNotice i (.fault cls codes) s = s.faulted i cls codes :=
  if_neg h

/-- What a STOP fault does, by the state of the oven. -/
theorem takeNotice_stop_plain (h : (s.ent i).state ∈ [CState.vacant, .assigning, .identifying, .calFailed]) :
    takeNotice i (.fault .stop codes) s = s.faulted i .stop codes := by
  unfold takeNotice faultNotice
  simp only [if_true]
  cases hs : (s.ent i).state <;> simp [hs] at h ⊢ <;> rfl

theorem takeNotice_stop_inService (h : (s.ent i).state = .inService) :
    takeNotice i (.fault .stop codes) s = suspend i .fault (s.faulted i .stop codes) := by
  unfold takeNotice faultNotice
  simp only [if_true, h]
  rfl

theorem takeNotice_stop_suspended (h : (s.ent i).state = .suspended) :
    takeNotice i (.fault .stop codes) s = addFaultCause i (s.faulted i .stop codes) := by
  unfold takeNotice faultNotice
  simp only [if_true, h]
  rfl

theorem takeNotice_stop_calibrating (h : (s.ent i).state = .calibrating) :
    takeNotice i (.fault .stop codes) s = calFail i none .stopFault (s.faulted i .stop codes) := by
  unfold takeNotice faultNotice
  simp only [if_true, h]
  rfl

theorem takeNotice_stop_revalidating (h : (s.ent i).state = .revalidating) :
    takeNotice i (.fault .stop codes) s = voidIdent i (returnToSuspended i .fault (s.faulted i .stop codes)) := by
  unfold takeNotice faultNotice
  simp only [if_true, h]
  rfl

end

/-- A fault cause of a SUSPENDED oven. -/
def State.faultCaused (s : State) (i : Slot) : State := s.setEnt i { s.ent i with causes := (s.ent i).causes ||| 2 }

section
variable {i : Slot} {s : State}

theorem addFaultCause_plain (hc : (s.ent i).activity ≠ .cooking) (hc' : (s.ent i).activity ≠ .cleaning) :
    addFaultCause i s = s.faultCaused i := by
  unfold addFaultCause
  dsimp only
  rw [State.ent_modEnt_self]
  split
  next h => exact absurd h hc
  next h => exact absurd h hc'
  next => rfl

theorem addFaultCause_aborts (h : (s.ent i).activity = .cooking ∨ (s.ent i).activity = .cleaning) :
    addFaultCause i s = queueRosterAbort i (s.faultCaused i) := by
  unfold addFaultCause
  dsimp only
  rw [State.ent_modEnt_self]
  rcases h with h | h <;> simp only [h] <;> rfl

/-- R24: back to SUSPENDED, out of the cleaning queue, with the directory reduced. -/
theorem returnToSuspended_eq (c : StopCause) (h : (s.ent i).activity = .idle) : returnToSuspended i c s =
    leaveCleaning i (s.setEnt i { s.ent i with
      state := .suspended, causes := (s.ent i).causes ||| causeBit c, identResend := none, dir := [] }) := by
  unfold returnToSuspended State.modEnt
  rw [leaveCleaning_setEnt, reduceDirectory_of_ne (by rw [State.ent_setEnt_self]; exact (by rw [h]; nofun)),
    State.ent_setEnt_self, State.setEnt_setEnt]
  rfl

/-- The void mark on the IDENT_REQ that the roster has out to an oven (log 42). -/
def Queued.voided (q : Queued) (i : Slot) : Queued :=
  if q.tel = .identReq ∧ q.target = some i ∧ q.owner = .roster then { q with void := true } else q

theorem Queued.voided_void {q m : Queued} {i : Slot} (h : m = q.voided i) (ht : m.tel = .identReq) (hi : m.target = some i)
    (ho : m.owner = .roster) : m.void = true := by
  unfold Queued.voided at h
  split at h
  next => rw [h]
  next hc =>
    subst h
    exact absurd ⟨ht, hi, ho⟩ hc

theorem ln_voidIdent (n : LineNo) : (voidIdent i s).ln n = { s.ln n with
    urgent := (s.ln n).urgent.map (·.voided i), waiting := (s.ln n).waiting.map (·.voided i),
    trans := (s.ln n).trans.map (fun t => { t with q := t.q.voided i }) } := by
  simp [voidIdent, State.ln, Queued.voided]

theorem voidIdent_marks (n : LineNo) :
    (∀ m ∈ (voidIdent i s).waitingOn n, m.tel = .identReq → m.target = some i → m.owner = .roster → m.void = true) ∧
      (∀ tr, ((voidIdent i s).ln n).trans = some tr → tr.q.tel = .identReq → tr.q.target = some i → tr.q.owner = .roster →
        tr.q.void = true) := by
  refine ⟨fun m hm => ?_, fun tr htr => ?_⟩
  · unfold State.waitingOn at hm
    rw [ln_voidIdent, ← List.map_append] at hm
    obtain ⟨q, _, rfl⟩ := List.mem_map.mp hm
    exact Queued.voided_void rfl
  · rw [ln_voidIdent] at htr
    obtain ⟨t, _, rfl⟩ := Option.map_eq_some_iff.mp htr
    exact Queued.voided_void rfl

end

end Sys2Proof.Machine

namespace Sys2Proof.Machine

/-- The suspended oven after a STOP fault, by what it was doing. -/
theorem takeNotice_stop_suspends {i : Slot} {codes : List Half} {s : State} (h : (s.ent i).state = .inService) :
    let x := takeNotice i (.fault .stop codes) s
    (x.ent i).state = .suspended ∧ (x.ent i).causes = (s.ent i).causes ||| 2 ∧ (∀ w ∈ x.hygiene.queue, w.slot ≠ i) ∧
    ((s.ent i).upd.state = .queued → (x.ent i).upd.state = .skipped ∨ (s.ent i).activity = .updating) ∧
    ((s.ent i).activity = .idle → (x.ent i).activity = .idle ∧ (x.ent i).dir = []) ∧
    (∀ k, (s.ent i).activity = .cooking → (s.ent i).cook = some k →
      (x.ent i).activity = .cooking ∧ (x.ent i).cook = some k ∧
      (x.ent i).dir = (s.ent i).dir.filter (fun d => d.recipe == k.recipe)) ∧
    ((s.ent i).activity = .cleaning → (x.ent i).activity = .cleaning ∧ (x.ent i).cleaning = (s.ent i).cleaning) ∧
    ((s.ent i).activity = .cooking ∨ (s.ent i).activity = .cleaning → (s.ent i).abortMark = .unset →
      (x.ent i).abortMark = .outstanding ∧ s.telegramTo i .roster .abort ∈ x.waitingOn (s.ent i).line) ∧
    ((s.ent i).activity = .filling → (x.ent i).activity = .idle ∧ (x.ent i).start = none ∧ (x.ent i).dir = []) ∧
    ((s.ent i).activity = .updating →
      (x.ent i).activity = .idle ∧ (x.ent i).upd.state = .failed ∧ (x.ent i).upd.reason = some .suspended) := by
  intro x
  have hx : x = suspend i .fault (s.faulted i .stop codes) := takeNotice_stop_inService h
  have htelegram : (s.faulted i .stop codes).telegramTo i .roster .abort = s.telegramTo i .roster .abort := by
    unfold State.telegramTo
    rw [ent_faulted]
  rw [hx, ← htelegram, ← ent_faulted (s := s) (i := i) (codes := codes) .stop i]
  generalize s.faulted i .stop codes = y
  obtain ⟨hstate, hcauses, hhygiene⟩ := suspend_taken i .fault y
  refine ⟨hstate, hcauses, fun w hw => ?_, fun hq => ?_, fun ha => ?_, fun k ha hk => ?_, fun ha => ?_, fun ha hm => ?_,
    suspend_filling_idle, fun ha => ?_⟩
  · rw [hhygiene] at hw
    simpa using (List.mem_filter.mp hw).2
  · by_cases ha : (y.ent i).activity = .updating
    · exact .inr ha
    · left
      rw [suspend_upd ha, UpdRec.unqueued, if_pos hq]
  · rw [(suspend_idle_taken ha).1]
    exact ⟨ha, rfl⟩
  · rw [ent_suspend_fault (.inl ha), Entry.reducedDir_cooking ha hk]
    exact ⟨ha, hk, rfl⟩
  · rw [ent_suspend_fault (.inr ha)]
    exact ⟨ha, rfl⟩
  · refine ⟨?_, suspend_fault_aborts ha hm⟩
    rw [ent_suspend_fault ha]
    exact if_pos hm
  · rw [ent_suspend_updating ha]
    exact ⟨rfl, rfl, rfl⟩

end Sys2Proof.Machine

open Sys2Proof.Machine in
/-- Settles O43: the raise by the state of the table, then the FAULT notice by the state of the oven. -/
theorem faultsAndCallsTaken : Obligations.FaultsAndCallsTaken := by
  unfold Obligations.FaultsAndCallsTaken
  refine ⟨fun src cau sev details s => ⟨raiseCall_stopped, fun hm => ⟨?merge, fun hnew => ⟨?create, ?replace, ?drop⟩⟩⟩, ?notice,
    fun i s => ⟨queueRosterAbort_unset, queueRosterAbort_set⟩⟩
  case merge =>
    intro c before after hkeys hsplit hsrc hcau more
    have hany : s.service.calls.any (fun c => c.hasKey src cau) = true :=
      List.any_eq_true.mpr ⟨c, by rw [hsplit]; simp, (c.hasKey_iff ..).mpr ⟨hsrc, hcau⟩⟩
    unfold State.CallKeysDistinct at hkeys
    rw [hsplit] at hkeys
    have hmap := map_key_split (fun c => c.merge sev details s.report.clock) hkeys hsrc hcau
    rw [raiseCall_merges hm hany, hsplit, hmap, Call.merge_eq]
  case create => exact fun h => raiseCall_creates hm hnew h
  case replace =>
    intro c before after h32 hsplit hb hc
    exact raiseCall_replaces hm hnew h32 (by rw [hsplit]; exact dropOldestAck_split hb hc)
  case drop =>
    intro h32 hno
    obtain ⟨hheard, hunder⟩ := dropped_report (s := { s with service := { s.service with dropped := true } }) hm
    have hlist := withSite_eq s.report.rewriteList
    rw [raiseCall_drops hm hnew h32 (dropOldestAck_none hno), ← hlist]
    refine ⟨?_, ⟨hheard, hunder⟩, ?_, ?_⟩ <;> rw [markServiceOverrun_eq] <;> rfl
  case notice =>
    intro i cls codes s
    refine ⟨takeNotice_fault, ?_⟩
    rintro rfl
    refine ⟨takeNotice_stop_plain, fun hs => ?_, fun hs hidle => ?_, fun hs => ⟨fun hc hc' => ?_, fun ha => ?_⟩, fun hs => ?_⟩
    · rw [takeNotice_stop_calibrating hs, ← ent_faulted (s := s) (i := i) (codes := codes) .stop i]
      rfl
    · rw [takeNotice_stop_revalidating hs, returnToSuspended_eq .fault (by rw [ent_faulted]; exact hidle), ent_faulted]
      refine ⟨State.ent_setEnt_self .., rfl, fun w hw => ?_, fun n => voidIdent_marks n⟩
      simpa using (List.mem_filter.mp hw).2
    · rw [takeNotice_stop_suspended hs, addFaultCause_plain (by rw [ent_faulted]; exact hc) (by rw [ent_faulted]; exact hc'),
        State.faultCaused, ent_faulted]
      rfl
    · rw [takeNotice_stop_suspended hs, addFaultCause_aborts (by rw [ent_faulted]; exact ha), State.faultCaused, ent_faulted]
      rfl
    · exact ⟨takeNotice_stop_inService hs, takeNotice_stop_suspends hs⟩
end

section
/-! PROOF. Entering IN_SERVICE (R12) and adopting a cook (R108): the entry, and what stays. -/

namespace Sys2Proof.Machine

/-! ## Work on an oven's entry and its telegrams -/

/-- The commands, the journal, the cleaning queue, the site clock, the profile and the time are as they were. -/
structure EntryWork (s t : State) : Prop where
  command : t.command = s.command
  hygiene : t.hygiene = s.hygiene
  journal : t.report.journal = s.report.journal
  gap     : t.report.gapPending = s.report.gapPending
  clock   : t.report.clock = s.report.clock
  profile : t.profile = s.profile
  now     : t.now = s.now

namespace EntryWork
variable {s t u : State}

theorem refl (s : State) : EntryWork s s := ⟨rfl, rfl, rfl, rfl, rfl, rfl, rfl⟩

theorem trans (h : EntryWork s t) (k : EntryWork t u) : EntryWork s u :=
  ⟨k.command.trans h.command, k.hygiene.trans h.hygiene, k.journal.trans h.journal, k.gap.trans h.gap,
    k.clock.trans h.clock, k.profile.trans h.profile, k.now.trans h.now⟩

theorem modEnt (i : Slot) (f : Entry → Entry) (s : State) : EntryWork s (s.modEnt i f) := ⟨rfl, rfl, rfl, rfl, rfl, rfl, rfl⟩

theorem modRslot (r : RecipeNo) (f : RecipeSlot → RecipeSlot) (s : State) : EntryWork s (s.modRslot r f) :=
  ⟨rfl, rfl, rfl, rfl, rfl, rfl, rfl⟩

theorem sendTo (i : Slot) (o : Owner) (t : Telegram) (s : State) : EntryWork s (sendTo i o t s) :=
  ⟨rfl, rfl, rfl, rfl, rfl, rfl, rfl⟩

theorem raiseEvent (e : Event) (s : State) : EntryWork s (raiseEvent e s) := by
  constructor <;> simp

theorem setCount (i : Slot) (n : Nat) (s : State) : EntryWork s (setCount i n s) := by
  unfold Machine.setCount
  dsimp only
  split
  · exact (modEnt ..).trans (raiseEvent ..)
  · exact modEnt ..

theorem queueRosterAbort (i : Slot) (s : State) : EntryWork s (queueRosterAbort i s) := by
  unfold Machine.queueRosterAbort
  split
  · exact (modEnt ..).trans (sendTo ..)
  · exact refl s

theorem makeCook (i : Slot) (k : CookRec) (s : State) : EntryWork s (makeCook i k s) := (modEnt ..).trans (modRslot ..)

/-- What the work passes to the journal, it passes to the journal that stood before. -/
theorem passed (h : EntryWork s t) (b : JBody) : t.report.passed b = s.report.passed b :=
  ReportWriter.passed_congr h.journal h.gap rfl

end EntryWork

/-! ## The count (R114) -/

theorem ent_setCount (i : Slot) (n : Nat) (s : State) :
    (setCount i n s).ent i = { s.ent i with count := n, level := levelOf s.profile n } := by
  unfold setCount
  dsimp only
  split
  · rw [ent_raiseEvent, State.ent_modEnt_self]
  · rw [State.ent_modEnt_self]

theorem ln_setCount (i : Slot) (n : Nat) (s : State) (l : LineNo) : (setCount i n s).ln l = s.ln l := by
  unfold setCount
  dsimp only
  split
  · rw [ln_raiseEvent]; rfl
  · rfl

theorem setCount_recipe (i : Slot) (n : Nat) (s : State) : (setCount i n s).recipe = s.recipe := by
  unfold setCount
  dsimp only
  split
  · rw [raiseEvent_recipe]; rfl
  · rfl

/-! ## Automatic placement (R118) -/

theorem autoPlace_eq (i : Slot) (s : State) :
    autoPlace i s = { s with hygiene := { s.hygiene with queue := (autoPlace i s).hygiene.queue } } := by
  unfold autoPlace
  split <;> rfl

theorem autoPlace_queue {i : Slot} {s : State} (h : (s.ent i).state = .inService) :
    (autoPlace i s).hygiene.queue = s.autoQueued i (s.ent i).level := by
  have hqueued : s.cleanQueued i = false ↔ ∀ w ∈ s.hygiene.queue, w.slot ≠ i := by
    simp [State.cleanQueued]
  unfold autoPlace State.autoQueued
  simp only [h, ← hqueued, Bool.and_eq_true, beq_self_eq_true, and_true, beq_iff_eq, Bool.not_eq_true']
  by_cases hc : (s.profile.autoClean = true ∧ (s.ent i).level = .overdue) ∧ s.cleanQueued i = false
  · rw [if_pos hc, if_pos ⟨hc.1.1, hc.1.2, hc.2⟩]
    rfl
  · rw [if_neg hc, if_neg (by tauto)]

/-! ## Entering IN_SERVICE (R12) -/

/-- The entry of an oven that enters service. -/
def Entry.served (e : Entry) (p : Profile) (now : Nat) : Entry :=
  { e with late := false, failures := 0, silence := some now, dir := e.reducedDir, level := levelOf p e.count }

/-- The oven as it enters service, but for its automatic placement. -/
def State.serviceEntered (s : State) (i : Slot) : State :=
  setCount i (s.ent i).count (flushReduce i (s.modEnt i fun e => { e with late := false, failures := 0, silence := some s.now }))

section
variable (i : Slot) (s : State)

theorem enterInService_eq : enterInService i s = autoPlace i (s.serviceEntered i) := by
  unfold enterInService State.serviceEntered
  dsimp only
  rw [State.ent_modEnt_self]

theorem serviceEntered_work : EntryWork s (s.serviceEntered i) :=
  (EntryWork.modEnt ..).trans (((EntryWork.modEnt ..).trans (EntryWork.sendTo ..)).trans (EntryWork.setCount ..))

theorem ent_serviceEntered : (s.serviceEntered i).ent i = (s.ent i).served s.profile s.now := by
  unfold State.serviceEntered flushReduce
  rw [ent_setCount, ent_sendTo, reduceDirectory_eq, State.ent_setEnt_self, State.ent_modEnt_self]
  rfl

theorem serviceEntered_recipe : (s.serviceEntered i).recipe = s.recipe := by
  unfold State.serviceEntered
  rw [setCount_recipe]
  rfl

theorem serviceEntered_flushes : s.telegramTo i .cache .flush ∈ (s.serviceEntered i).waitingOn (s.ent i).line := by
  have hent : ((reduceDirectory i (s.modEnt i fun e => { e with late := false, failures := 0, silence := some s.now })).ent i) =
      { s.ent i with late := false, failures := 0, silence := some s.now, dir := (s.ent i).reducedDir } := by
    rw [reduceDirectory_eq, State.ent_setEnt_self, State.ent_modEnt_self]
    rfl
  unfold State.serviceEntered flushReduce State.waitingOn
  rw [ln_setCount]
  have hmem := mem_waitingOn_sendTo i .cache .flush
    (reduceDirectory i (s.modEnt i fun e => { e with late := false, failures := 0, silence := some s.now }))
  unfold State.telegramTo at hmem
  rw [hent] at hmem
  exact hmem

theorem ent_enterInService : (enterInService i s).ent i = (s.ent i).served s.profile s.now := by
  rw [enterInService_eq, autoPlace_eq]
  exact ent_serviceEntered i s

theorem enterInService_command : (enterInService i s).command = s.command := by
  rw [enterInService_eq, autoPlace_eq]
  exact (serviceEntered_work i s).command

theorem enterInService_journal : (enterInService i s).report.journal = s.report.journal := by
  rw [enterInService_eq, autoPlace_eq]
  exact (serviceEntered_work i s).journal

theorem enterInService_gapPending : (enterInService i s).report.gapPending = s.report.gapPending := by
  rw [enterInService_eq, autoPlace_eq]
  exact (serviceEntered_work i s).gap

theorem enterInService_recipe : (enterInService i s).recipe = s.recipe := by
  rw [enterInService_eq, autoPlace_eq]
  exact serviceEntered_recipe i s

theorem enterInService_flushes : s.telegramTo i .cache .flush ∈ (enterInService i s).waitingOn (s.ent i).line := by
  rw [enterInService_eq, autoPlace_eq]
  exact serviceEntered_flushes i s

variable {i s}

theorem enterInService_queue (h : (s.ent i).state = .inService) :
    (enterInService i s).hygiene.queue = s.autoQueued i (levelOf s.profile (s.ent i).count) := by
  have hw := serviceEntered_work i s
  rw [enterInService_eq, autoPlace_queue (by rw [ent_serviceEntered]; exact h), ent_serviceEntered]
  unfold State.autoQueued
  rw [hw.profile, hw.hygiene, hw.clock]
  rfl

end

/-! ## Adoption (R108) -/

/-- The last grant that an adopted cook was made under. -/
def State.grantOf (s : State) (i : Slot) (t : Byte) (r : RecipeNo) (v : Byte) : Option GrantRec :=
  (s.ent i).grant.filter (fun g => g.names t r v)

def State.staleFor (s : State) (r : RecipeNo) (v : Byte) : Bool :=
  !((s.rslot r).state == .published && (s.rslot r).version == v)

/-- The record of an adopted cook. -/
def State.adoptedCook (s : State) (i : Slot) (t : Byte) (r : RecipeNo) (v : Byte) : CookRec :=
  { recipe := r, version := v, origin := ((s.grantOf i t r v).map (fun g => g.origin)).getD .adopted, token := t,
    start := s.report.clock, step := 0, tag := (s.grantOf i t r v).bind (fun g => g.tag) }

/-- The entry of an oven whose cook was adopted. -/
def State.adopted (s : State) (i : Slot) (t : Byte) (r : RecipeNo) (v : Byte) : Entry :=
  { s.ent i with
    dir := (adoptDir (s.ent i).dir r v (s.staleFor r v)).1,
    grant := if (s.grantOf i t r v).isSome then (s.ent i).grant.map (fun g => { g with confirmed := true }) else (s.ent i).grant,
    activity := .cooking, cook := some (s.adoptedCook i t r v) }

/-- One entry of the adopted recipe stands in the directory (R108). -/
theorem adoptDir_recipe (d : List DirEntry) (r : RecipeNo) (v : Byte) (stale : Bool) :
    ∃ x, (adoptDir d r v stale).1.filter (fun y => y.recipe == r) = [x] ∧ x.recipe = r ∧ x.version = v ∧ x.stale = stale := by
  have hone (x : DirEntry) (rest : List DirEntry) (hx : x.recipe = r) (hrest : ∀ y ∈ rest, y.recipe ≠ r) :
      (x :: rest).filter (fun y => y.recipe == r) = [x] := by
    rw [List.filter_cons_of_pos (by simpa using hx), List.filter_eq_nil_iff.mpr (by simpa using hrest)]
  unfold adoptDir
  cases hf : d.find? (fun x => x.recipe == r) with
  | none =>
    have hno : ∀ y ∈ d, y.recipe ≠ r := by simpa using hf
    dsimp only
    split
    · exact ⟨_, hone _ d rfl hno, rfl, rfl, rfl⟩
    · exact ⟨_, hone _ d.dropLast rfl (fun y hy => hno y (List.dropLast_subset d hy)), rfl, rfl, rfl⟩
  | some x =>
    have hx : x.recipe = r := by simpa using List.find?_some hf
    have hno : ∀ y ∈ d.filter (fun y => y.recipe != r), y.recipe ≠ r := by simp
    dsimp only
    split
    next hv => exact ⟨_, hone { x with stale := stale, evictAtEnd := x.evictAtEnd || stale } _ hx hno, hx, hv, rfl⟩
    next => exact ⟨_, hone _ _ rfl hno, rfl, rfl, rfl⟩

section
variable {i : Slot} (t : Byte) (r : RecipeNo) (v : Byte) {s : State}

/-- The directory and the grant after an adoption, its cook not yet made. -/
def State.adopting (s : State) (i : Slot) (t : Byte) (r : RecipeNo) (v : Byte) : State :=
  s.modEnt i fun e =>
    { e with dir := (adoptDir (s.ent i).dir r v (s.staleFor r v)).1,
             grant := if (s.grantOf i t r v).isSome then e.grant.map (fun g => { g with confirmed := true }) else e.grant }

/-- The eviction of a tail entry that was pushed out. -/
def evictOut (i : Slot) (out : Option RecipeNo) (s : State) : State := out.elim s fun k => sendEvict i k s

theorem evictOut_work (out : Option RecipeNo) : EntryWork s (evictOut i out s) := by
  cases out with
  | none => exact EntryWork.refl s
  | some k => exact EntryWork.sendTo ..

theorem ent_evictOut (out : Option RecipeNo) (k : Slot) : (evictOut i out s).ent k = s.ent k := by cases out <;> rfl

theorem rslot_evictOut (out : Option RecipeNo) (k : RecipeNo) : (evictOut i out s).rslot k = s.rslot k := by cases out <;> rfl

variable (h : (s.ent i).state ≠ .suspended)
include h

theorem adopt_eq : adopt i t r v s = makeCook i (s.adoptedCook i t r v)
    (evictOut i (adoptDir (s.ent i).dir r v (s.staleFor r v)).2 (s.adopting i t r v)) := by
  unfold adopt State.adopting State.adoptedCook State.grantOf State.staleFor
  dsimp only
  rw [if_neg fun hc => h hc.1]
  congr 1
  · cases (s.ent i).grant.filter (fun g => g.names t r v) <;> rfl
  · cases (adoptDir (s.ent i).dir r v !((s.rslot r).state == .published && (s.rslot r).version == v)).2 <;> rfl

theorem adopt_work : EntryWork s (adopt i t r v s) := by
  rw [adopt_eq t r v h]
  exact ((EntryWork.modEnt ..).trans (evictOut_work _)).trans (EntryWork.makeCook ..)

theorem ent_adopt : (adopt i t r v s).ent i = s.adopted i t r v := by
  rw [adopt_eq t r v h, makeCook, State.ent_modRslot, State.ent_modEnt_self, ent_evictOut, State.adopting,
    State.ent_modEnt_self]
  rfl

theorem adopt_pins : ((adopt i t r v s).rslot r).pins = (s.rslot r).pins + 1 := by
  rw [adopt_eq t r v h, makeCook, State.rslot_modRslot, if_pos (by rfl), State.rslot_modEnt, rslot_evictOut, State.adopting,
    State.rslot_modEnt]
  rfl

end

/-- The directory of an oven that was adopted and enters service: the entry of its recipe. -/
theorem adopted_reducedDir (s : State) (i : Slot) (t : Byte) (r : RecipeNo) (v : Byte) : ∃ x, (s.adopted i t r v).reducedDir = [x] ∧
    x.recipe = r ∧ x.version = v ∧ x.stale = s.staleFor r v := by
  rw [Entry.reducedDir_cooking (k := s.adoptedCook i t r v) (by rfl) (by rfl)]
  exact adoptDir_recipe ..

end Sys2Proof.Machine
end

section
/-! PROOF. Calibration, revalidation and the roster's own ABORTs: what the roster makes of the outcomes. -/

namespace Sys2Proof.Machine

/-! ## A commissioning that ends well (R11, R16, R175) -/

/-- The journal record of a commissioning. -/
def State.commissionJournal (s : State) (i : Slot) (j : Job) (d : Identity) (c : Cal) (errors : Option (Int × Int)) : JBody :=
  .commission { slot := i, mark := j.kind, tag := j.tag, line := (s.ent i).line, drop := (s.ent i).drop, ident := d, cal := c,
                errors := errors, count := (s.ent i).count, time := s.report.clock }

theorem passCommission_eq {i : Slot} {s : State} {d : Identity} (h : (s.ent i).identity = some d) (j : Job) (c : Cal)
    (errors : Option (Int × Int)) : passCommission i j c errors s = passJournal (s.commissionJournal i j d c errors) s := by
  unfold passCommission
  dsimp only
  rw [h]
  rfl

/-- DONE: the record is passed, the command completes, the oven enters service. -/
def commissioned (i : Slot) (j : Job) (c : Cal) (errors : Option (Int × Int)) (d1 d2 : Word) (s : State) : State :=
  enterInService i (endLong (.oven i) .done d1 d2 0 (passCommission i j c errors s))

section
variable {i : Slot} {j : Job} {c : Cal} {errors : Option (Int × Int)} {d1 d2 : Word} {d : Identity} {s : State}
  (hd : (s.ent i).identity = some d)
include hd

theorem ent_commissioned : (commissioned i j c errors d1 d2 s).ent i = (s.ent i).served s.profile s.now := by
  unfold commissioned
  rw [ent_enterInService, passCommission_eq hd]
  simp only [ent_endLong, ent_passJournal, endLong_profile, passJournal_profile, endLong_now, passJournal_now]

theorem commissioned_command :
    (commissioned i j c errors d1 d2 s).command = (endLong (.oven i) .done d1 d2 0 s).command := by
  unfold commissioned
  rw [enterInService_command, passCommission_eq hd]
  exact endLong_command_congr (passJournal_command ..)

theorem commissioned_passed :
    ((commissioned i j c errors d1 d2 s).report.journal, (commissioned i j c errors d1 d2 s).report.gapPending) =
      s.report.passed (s.commissionJournal i j d c errors) := by
  unfold commissioned
  rw [enterInService_journal, enterInService_gapPending, endLong_report, passCommission_eq hd]
  exact passJournal_passed _ _

theorem commissioned_queue (h : (s.ent i).state = .inService) :
    (commissioned i j c errors d1 d2 s).hygiene.queue = s.autoQueued i (levelOf s.profile (s.ent i).count) := by
  unfold commissioned
  rw [passCommission_eq hd]
  rw [enterInService_queue (by rw [ent_endLong, ent_passJournal]; exact h)]
  unfold State.autoQueued
  simp only [ent_endLong, ent_passJournal, endLong_profile, passJournal_profile, endLong_hygiene, passJournal_hygiene,
    endLong_report, passJournal_clock]

theorem commissioned_flushes :
    s.telegramTo i .cache .flush ∈ (commissioned i j c errors d1 d2 s).waitingOn (s.ent i).line := by
  have hmem := enterInService_flushes i (endLong (.oven i) .done d1 d2 0 (passCommission i j c errors s))
  unfold commissioned
  rw [passCommission_eq hd] at hmem ⊢
  unfold State.telegramTo at hmem ⊢
  rwa [ent_endLong, ent_passJournal] at hmem

theorem commissioned_recipe : (commissioned i j c errors d1 d2 s).recipe = s.recipe := by
  unfold commissioned
  rw [enterInService_recipe, endLong_recipe, passCommission_eq hd, passJournal_recipe]

end

/-! ## Calibration (R10, R11) -/

/-- A failed calibration, with its details. -/
def State.calibrationFailed (s : State) (i : Slot) (e0 es why : Word) : State :=
  endLong (.oven i) .calFail e0 es 0 (raiseCall (.oven i) .calibration .urgent [e0, es, why]
    (leaveSchedule i (s.setEnt i { s.ent i with state := .calFailed, calLimit := none, job := none })))

theorem calFail_none (i : Slot) (why : CalEnd) (s : State) :
    calFail i none why s = s.calibrationFailed i 0x80000000 0x80000000 (why.code.setWidth 32) := rfl

theorem calFail_some (i : Slot) (e0 es : Int) (why : CalEnd) (s : State) :
    calFail i (some (e0, es)) why s =
      s.calibrationFailed i (BitVec.ofInt 32 e0) (BitVec.ofInt 32 es) (why.code.setWidth 32) := rfl

section
variable {l : LineNo} {i : Slot} {q : Queued} {s : State}

theorem deliverTo_probeCheck (ht : q.tel = .probeCheck) (o : Outcome) : deliverTo l q i o s = probeCheckOutcome i o s := by
  unfold deliverTo
  rw [ht]

/-- The outcome of PROBE_CHECK in CALIBRATING. -/
theorem probeCheck_calibrating (hs : (s.ent i).state = .calibrating) (ht : q.tel = .probeCheck) :
    deliverTo l q i (.valid .ack) s = s ∧
    (∀ n, deliverTo l q i (.valid (.nak n)) s = s.calibrationFailed i 0x80000000 0x80000000 2) ∧
    (∀ b, deliverTo l q i (.failed b) s = s.calibrationFailed i 0x80000000 0x80000000 3) := by
  simp only [deliverTo_probeCheck ht, probeCheckOutcome, if_pos hs]
  exact ⟨trivial, fun _ => calFail_none .., fun _ => calFail_none ..⟩

theorem takeNotice_calBusy (hs : (s.ent i).state = .calibrating) :
    takeNotice i .calBusy s = s.setEnt i { s.ent i with probe := true } := if_pos hs

theorem takeNotice_probe_other (hs : (s.ent i).state ≠ .calibrating) :
    takeNotice i .calBusy s = raiseCall (.oven i) .ovenFault .urgent [0x00010000, 8] s ∧
    (∀ a b, takeNotice i (.probeResult a b) s = raiseCall (.oven i) .ovenFault .urgent [0x00010000, 9] s) :=
  ⟨if_neg hs, fun _ _ => if_neg hs⟩

variable {rawLow rawHigh : Half} {j : Job} {e0 es : Int}

theorem calPasses_iff (p : Profile) (e0 es span : Int) :
    calPasses p e0 es span = true ↔ e0.natAbs ≤ p.tolZero ∧ es.natAbs ≤ p.tolSpan ∧ 100 ≤ span := by
  simp [calPasses, and_assoc]

variable (hs : (s.ent i).state = .calibrating) (hj : (s.ent i).job = some j)
  (h0 : e0 = rawLow.toInt - j.cal.refLow.toInt)
  (hspan : es = (rawHigh.toInt - rawLow.toInt) - (j.cal.refHigh.toInt - j.cal.refLow.toInt))
include hs hj h0 hspan

/-- The judgement of a probe result (R11). -/
theorem takeNotice_probeResult : takeNotice i (.probeResult rawLow rawHigh) s =
    if calPasses s.profile e0 es (rawHigh.toInt - rawLow.toInt)
    then calPass i j ⟨j.cal.refLow, j.cal.refHigh, rawLow, rawHigh⟩ e0 es s else calFail i (some (e0, es)) .judgement s := by
  subst h0 hspan
  have hjudge : takeNotice i (.probeResult rawLow rawHigh) s = judgeProbe i rawLow rawHigh s := if_pos hs
  rw [hjudge, judgeProbe, hj]
  rfl

theorem probeResult_fails
    (h : s.profile.tolZero < e0.natAbs ∨ s.profile.tolSpan < es.natAbs ∨ rawHigh.toInt - rawLow.toInt < 100) :
    takeNotice i (.probeResult rawLow rawHigh) s =
      s.calibrationFailed i (BitVec.ofInt 32 e0) (BitVec.ofInt 32 es) 1 := by
  rw [takeNotice_probeResult hs hj h0 hspan, if_neg (by rw [calPasses_iff]; omega)]
  exact calFail_some ..

theorem probeResult_passes (hzero : e0.natAbs ≤ s.profile.tolZero) (hes : es.natAbs ≤ s.profile.tolSpan)
    (h100 : 100 ≤ rawHigh.toInt - rawLow.toInt) : takeNotice i (.probeResult rawLow rawHigh) s =
      commissioned i j ⟨j.cal.refLow, j.cal.refHigh, rawLow, rawHigh⟩ (some (e0, es)) (BitVec.ofInt 32 e0) (BitVec.ofInt 32 es)
        (s.setEnt i { s.ent i with
          state := .inService, cal := some ⟨j.cal.refLow, j.cal.refHigh, rawLow, rawHigh⟩, calLimit := none, job := none }) := by
  rw [takeNotice_probeResult hs hj h0 hspan, if_pos ((calPasses_iff ..).mpr ⟨hzero, hes, h100⟩)]
  rfl

end

/-! ## Revalidation (R24) -/

section
variable {l : LineNo} {i : Slot} {q : Queued} {k : Identity} {s : State}

theorem deliverTo_ident (ht : q.tel = .identReq) (ho : q.owner = .roster) (o : Outcome) :
    deliverTo l q i o s = identOutcome i q.void o s := by
  unfold deliverTo
  rw [ht]
  exact if_neg (by rw [ho]; nofun)

theorem deliverTo_ident_void (ht : q.tel = .identReq) (ho : q.owner = .roster) (hv : q.void = true) (o : Outcome) :
    deliverTo l q i o s = s := by
  rw [deliverTo_ident ht ho, hv]
  rfl

theorem deliverTo_ident_revalidating (ht : q.tel = .identReq) (ho : q.owner = .roster) (hv : q.void = false)
    (hs : (s.ent i).state = .revalidating) (o : Outcome) : deliverTo l q i o s = revalidateOutcome i o s := by
  rw [deliverTo_ident ht ho, hv, identOutcome, hs]
  rfl

theorem revalidateOutcome_ident (hk : (s.ent i).identity = some k) (d : IdentReply) :
    revalidateOutcome i (.valid (.ident d)) s =
      if d.serial ≠ k.serial then raiseCall (.oven i) .identity .stop [d.serial, k.serial] (returnToSuspended i .identity s)
      else if d.activity = .cleaning then s.modEnt i fun e => { e with identResend := some s.now }
      else revalidated i d s := by
  unfold revalidateOutcome
  dsimp only
  rw [hk]

theorem silentDetails_revalidating (e : Entry) :
    silentDetails e .revalidating = [e.lastReply.getD 0x80000000, BitVec.ofNat 32 e.failures, 7] := by
  rw [← detail?_eq]
  rfl

theorem revalidateOutcome_other (o : Outcome) (h : ∀ d, o ≠ .valid (.ident d)) : revalidateOutcome i o s =
    raiseCall (.oven i) .silent .stop [(s.ent i).lastReply.getD 0x80000000, BitVec.ofNat 32 (s.ent i).failures, 7]
      (returnToSuspended i .silent s) := by
  rw [← silentDetails_revalidating]
  unfold revalidateOutcome
  split
  next d => exact absurd rfl (h d)
  next => rfl

/-- The released oven, back in service with the identity it reports. -/
def State.reidentified (s : State) (i : Slot) (d : IdentReply) : State :=
  s.setEnt i { s.ent i with state := .inService, identity := some d.identity }

theorem ent_reidentified (d : IdentReply) :
    (s.reidentified i d).ent i = { s.ent i with state := .inService, identity := some d.identity } := State.ent_setEnt_self ..

theorem reidentified_work (d : IdentReply) : EntryWork s (s.reidentified i d) := ⟨rfl, rfl, rfl, rfl, rfl, rfl, rfl⟩

theorem revalidated_idle {d : IdentReply} (h : d.activity ≠ .cooking) :
    revalidated i d s = enterInService i (s.reidentified i d) := by
  unfold revalidated
  dsimp only
  rw [if_neg h]
  rfl

theorem revalidated_cooking {d : IdentReply} (h : d.activity = .cooking) :
    revalidated i d s = enterInService i (adopt i d.token d.recipe d.version (s.reidentified i d)) := by
  unfold revalidated
  dsimp only
  rw [if_pos h]
  rfl

end

end Sys2Proof.Machine
end

section
/-! PROOF. Calibration and revalidation, as the obligation states them. -/

namespace Sys2Proof.Machine

section
variable {l : LineNo} {i : Slot} {q : Queued} {k : Identity} {s : State}

/-- A probe result that passes, taken. -/
theorem probeResult_taken {rawLow rawHigh : Half} {j : Job} {e0 es : Int} {d : Identity}
    (hs : (s.ent i).state = .calibrating) (hj : (s.ent i).job = some j) (h0 : e0 = rawLow.toInt - j.cal.refLow.toInt)
    (hspan : es = (rawHigh.toInt - rawLow.toInt) - (j.cal.refHigh.toInt - j.cal.refLow.toInt))
    (hzero : e0.natAbs ≤ s.profile.tolZero) (hes : es.natAbs ≤ s.profile.tolSpan)
    (h100 : 100 ≤ rawHigh.toInt - rawLow.toInt) (hd : (s.ent i).identity = some d) :
    let x := takeNotice i (.probeResult rawLow rawHigh) s
    (x.ent i).state = .inService ∧ (x.ent i).cal = some ⟨j.cal.refLow, j.cal.refHigh, rawLow, rawHigh⟩ ∧
    (x.ent i).calLimit = none ∧ (x.ent i).job = none ∧ (x.ent i).late = false ∧ (x.ent i).failures = 0 ∧
    (x.ent i).silence = some s.now ∧
    x.command = (endLong (.oven i) .done (BitVec.ofInt 32 e0) (BitVec.ofInt 32 es) 0 s).command ∧
    (x.report.journal, x.report.gapPending) = s.report.passed (.commission
      { slot := i, mark := j.kind, tag := j.tag, line := (s.ent i).line, drop := (s.ent i).drop, ident := d,
        cal := ⟨j.cal.refLow, j.cal.refHigh, rawLow, rawHigh⟩, errors := some (e0, es), count := (s.ent i).count,
        time := s.report.clock }) ∧
    (x.ent i).level = levelOf s.profile (s.ent i).count ∧
    x.hygiene.queue = s.autoQueued i (levelOf s.profile (s.ent i).count) ∧
    s.telegramTo i .cache .flush ∈ x.waitingOn (s.ent i).line := by
  intro x
  let served : Entry := { s.ent i with
    state := .inService, cal := some ⟨j.cal.refLow, j.cal.refHigh, rawLow, rawHigh⟩, calLimit := none, job := none }
  have hent : (s.setEnt i served).ent i = served := State.ent_setEnt_self ..
  have hid : ((s.setEnt i served).ent i).identity = some d := by rw [hent]; exact hd
  have hx : x = commissioned i j ⟨j.cal.refLow, j.cal.refHigh, rawLow, rawHigh⟩ (some (e0, es)) (BitVec.ofInt 32 e0)
      (BitVec.ofInt 32 es) (s.setEnt i served) := probeResult_passes hs hj h0 hspan hzero hes h100
  have hxe : x.ent i = served.served s.profile s.now := by rw [hx, ent_commissioned hid, hent]; rfl
  rw [hxe]
  refine ⟨rfl, rfl, rfl, rfl, rfl, rfl, rfl, ?command, ?journal, rfl, ?queue, ?flush⟩
  case command =>
    rw [hx, commissioned_command hid]
    exact endLong_command_congr rfl
  case journal =>
    rw [hx, commissioned_passed hid, State.commissionJournal, hent]
    rfl
  case queue =>
    rw [hx, commissioned_queue hid (by rw [hent]), hent]
    rfl
  case flush =>
    have hmem := commissioned_flushes (j := j) (c := ⟨j.cal.refLow, j.cal.refHigh, rawLow, rawHigh⟩) (errors := some (e0, es))
      (d1 := BitVec.ofInt 32 e0) (d2 := BitVec.ofInt 32 es) hid
    unfold State.telegramTo at hmem
    rw [hent, ← hx] at hmem
    exact hmem

section
variable {x y : State} (hx : x = enterInService i y)
include hx

/-- An oven that comes back into service, from a state that differs in its entry and its telegrams only. -/
theorem backInService (hw : EntryWork s y) (hstate : (y.ent i).state = .inService) (hplace : (y.ent i).place = (s.ent i).place)
    (hcount : (y.ent i).count = (s.ent i).count) :
    (x.ent i).late = false ∧ (x.ent i).failures = 0 ∧ (x.ent i).silence = some s.now ∧
    (x.ent i).count = (s.ent i).count ∧ (x.ent i).level = levelOf s.profile (s.ent i).count ∧
    x.hygiene.queue = s.autoQueued i (levelOf s.profile (s.ent i).count) ∧
    s.telegramTo i .cache .flush ∈ x.waitingOn (s.ent i).line := by
  subst hx
  rw [ent_enterInService, Entry.served, hw.now, hw.profile]
  refine ⟨rfl, rfl, rfl, hcount, congrArg (levelOf s.profile) hcount, ?_, ?_⟩
  · rw [enterInService_queue hstate, hcount]
    unfold State.autoQueued
    rw [hw.profile, hw.hygiene, hw.clock]
  · have hmem := enterInService_flushes i y
    unfold State.telegramTo Entry.line Entry.drop at hmem ⊢
    rwa [hplace] at hmem

end

/-- A released oven, taken back. -/
theorem revalidated_taken {d : IdentReply} (hidle : (s.ent i).activity = .idle) :
    let x := revalidated i d s
    (x.ent i).state = .inService ∧ (x.ent i).identity = some ⟨d.serial, d.model, d.level⟩ ∧
    (x.ent i).late = false ∧ (x.ent i).failures = 0 ∧ (x.ent i).silence = some s.now ∧
    (x.ent i).activity = (if d.activity = .cooking then .cooking else .idle) ∧
    (x.ent i).count = (s.ent i).count ∧ (x.ent i).level = levelOf s.profile (s.ent i).count ∧
    x.hygiene.queue = s.autoQueued i (levelOf s.profile (s.ent i).count) ∧
    s.telegramTo i .cache .flush ∈ x.waitingOn (s.ent i).line ∧
    (d.activity ≠ .cooking → (x.ent i).dir = [] ∧ (x.ent i).grant = (s.ent i).grant ∧ x.recipe = s.recipe) ∧
    (d.activity = .cooking →
      let m := (s.ent i).grant.filter (fun g => g.names d.token d.recipe d.version)
      let stale := !((s.rslot d.recipe).state == .published && (s.rslot d.recipe).version == d.version)
      (x.ent i).cook = some { recipe := d.recipe, version := d.version, origin := (m.map (fun g => g.origin)).getD .adopted,
                              token := d.token, start := s.report.clock, step := 0, tag := m.bind (fun g => g.tag) } ∧
      (x.ent i).grant =
        (if m.isSome then (s.ent i).grant.map (fun g => { g with confirmed := true }) else (s.ent i).grant) ∧
      (∃ e, (x.ent i).dir = [e] ∧ e.recipe = d.recipe ∧ e.version = d.version ∧ e.stale = stale) ∧
      (x.rslot d.recipe).pins = (s.rslot d.recipe).pins + 1) := by
  intro x
  have hent := ent_reidentified (i := i) (s := s) d
  by_cases hcook : d.activity = .cooking
  · have hns : ((s.reidentified i d).ent i).state ≠ .suspended := by rw [hent]; nofun
    have hadopt := ent_adopt d.token d.recipe d.version hns
    have hx : x = enterInService i (adopt i d.token d.recipe d.version (s.reidentified i d)) := revalidated_cooking hcook
    obtain ⟨hlate, hfail, hsil, hcount, hlevel, hqueue, hflush⟩ := backInService (s := s) hx
      ((reidentified_work d).trans (adopt_work _ _ _ hns)) (by rw [hadopt, State.adopted, hent])
      (by rw [hadopt, State.adopted, hent]) (by rw [hadopt, State.adopted, hent])
    have hxe : x.ent i = ((s.reidentified i d).adopted i d.token d.recipe d.version).served
        (adopt i d.token d.recipe d.version (s.reidentified i d)).profile
        (adopt i d.token d.recipe d.version (s.reidentified i d)).now := by rw [hx, ent_enterInService, hadopt]
    obtain ⟨e, he⟩ := adopted_reducedDir (s.reidentified i d) i d.token d.recipe d.version
    have hgrant : (s.reidentified i d).grantOf i d.token d.recipe d.version =
        (s.ent i).grant.filter (fun g => g.names d.token d.recipe d.version) := by rw [State.grantOf, hent]
    refine ⟨?_, ?_, hlate, hfail, hsil, ?_, hcount, hlevel, hqueue, hflush, fun h => absurd hcook h, fun _ => ⟨?_, ?_, ⟨e, ?_⟩, ?_⟩⟩
    · rw [hxe, Entry.served, State.adopted, hent]
    · rw [hxe, Entry.served, State.adopted, hent]
      rfl
    · rw [hxe, if_pos hcook]
      rfl
    · rw [hxe, ← hgrant]
      rfl
    · rw [hxe, ← hgrant, Entry.served, State.adopted, hent]
    · rw [hxe]
      exact he
    · have hpins := adopt_pins d.token d.recipe d.version hns
      unfold State.rslot at hpins
      rw [hx, State.rslot, enterInService_recipe]
      exact hpins
  · have hx : x = enterInService i (s.reidentified i d) := revalidated_idle hcook
    obtain ⟨hlate, hfail, hsil, hcount, hlevel, hqueue, hflush⟩ := backInService (s := s) hx (reidentified_work d)
      (by rw [hent]) (by rw [hent]) (by rw [hent])
    have hxe : x.ent i = (({ s.ent i with state := .inService, identity := some d.identity } : Entry).served s.profile s.now) := by
      rw [hx, ent_enterInService, hent]
      rfl
    refine ⟨by rw [hxe]; rfl, by rw [hxe]; rfl, hlate, hfail, hsil, by rw [hxe, if_neg hcook]; exact hidle, hcount, hlevel, hqueue,
      hflush, fun _ => ⟨?_, by rw [hxe]; rfl, by rw [hx, enterInService_recipe]; rfl⟩, fun h => absurd h hcook⟩
    rw [hxe]
    exact Entry.reducedDir_of_ne (by rw [show _ = _ from hidle]; nofun)

/-- The outcome of the roster's ABORT (R20). -/
theorem deliverTo_rosterAbort (ht : q.tel = .abort) (ho : q.owner = .roster) (o : Outcome) :
    deliverTo l q i o s = rosterAbortOutcome i o s := by
  unfold deliverTo
  rw [ht]
  exact if_neg (by rw [ho]; nofun)

theorem rosterAbort_taken (ht : q.tel = .abort) (ho : q.owner = .roster) :
    ((s.ent i).abortMark = .outstanding →
      deliverTo l q i (.valid .ack) s = s.setEnt i { s.ent i with abortMark := .acknowledged } ∧
      (∀ o, o ≠ .valid .ack → deliverTo l q i o s = s.setEnt i { s.ent i with abortMark := .unset })) ∧
    (∀ o, (s.ent i).abortMark ≠ .outstanding → deliverTo l q i o s = s) := by
  simp only [deliverTo_rosterAbort ht ho]
  refine ⟨fun h => ⟨if_pos h, fun o hne => ?_⟩, fun o h => if_neg h⟩
  have hack : o.isAck = false := by
    unfold Outcome.isAck
    split
    next => exact absurd rfl hne
    next => rfl
  rw [rosterAbortOutcome, if_pos h, hack]
  rfl

end

end Sys2Proof.Machine

open Sys2Proof.Machine in
/-- Settles O38: one part per telegram and notice of the roster. -/
theorem calibrationAndRevalidationOutcomes : Obligations.CalibrationAndRevalidationOutcomes := by
  unfold Obligations.CalibrationAndRevalidationOutcomes
  intro l i q s
  refine ⟨⟨fun hs ht => probeCheck_calibrating hs ht, takeNotice_calBusy, ?probe⟩, takeNotice_probe_other, ?ident,
    fun o ht ho hv => deliverTo_ident_void ht ho hv o, rosterAbort_taken⟩
  case probe =>
    intro rawLow rawHigh j e0 es hs hj h0 hspan
    exact ⟨probeResult_fails hs hj h0 hspan, fun hzero hes h100 d hd => probeResult_taken hs hj h0 hspan hzero hes h100 hd⟩
  case ident =>
    intro k ht ho hv hs hidle hk back
    have hdel := deliverTo_ident_revalidating (l := l) (i := i) ht ho hv hs
    have hback (c : StopCause) : returnToSuspended i c s = back c := returnToSuspended_eq c hidle
    refine ⟨fun d => ?_, fun o h => ?_⟩
    · rw [hdel, revalidateOutcome_ident hk, hback]
      refine ⟨fun h => if_pos h, fun h hc => ?_, fun h hc => ?_⟩
      · rw [if_neg (not_not_intro h), if_pos hc]
        rfl
      · rw [if_neg (not_not_intro h), if_neg hc]
        exact revalidated_taken hidle
    · rw [hdel, revalidateOutcome_other o h, hback]
end

section
/-! PROOF. An entry that returns to VACANT (R17, R37): its ABORT commands, its telegrams and its place in the poll schedule. -/

namespace Sys2Proof.Machine

/-! ## The ABORT commands of the entry (R111) -/

/-- The completions "already ended" of the recorded ABORT commands that still have an owner. -/
def endedAborts (l : List PendingAbort) : List Completion :=
  (l.filter (fun a => !a.orphaned)).map fun a => completionOf a.tag 0x31 .done (a.token.setWidth 32) 1 0

theorem completeAbort_eq (a : PendingAbort) (s : State) : completeAbort a .done 1 s =
    { s with command := { s.command with completions := s.command.completions ++ endedAborts [a] } } := by
  unfold completeAbort endedAborts
  cases h : a.orphaned with
  | true => simp [h]
  | false =>
    simp [h]
    rfl

theorem endedAborts_cons (a : PendingAbort) (l : List PendingAbort) : endedAborts (a :: l) = endedAborts [a] ++ endedAborts l := by
  simp [endedAborts, List.filter_cons]
  split <;> simp

theorem foldl_completeAbort (l : List PendingAbort) (s : State) : l.foldl (fun s a => completeAbort a .done 1 s) s =
    { s with command := { s.command with completions := s.command.completions ++ endedAborts l } } := by
  induction l generalizing s with
  | nil => simp [endedAborts]
  | cons a l ih => rw [List.foldl_cons, completeAbort_eq, ih, endedAborts_cons a l]; simp

/-- The recorded ABORT commands of an oven. -/
def State.abortsOf (s : State) (i : Slot) : List PendingAbort := s.cache.aborts.filter (fun a => a.slot == i)

/-- The recorded ABORT command of an oven whose transaction runs. -/
def State.keptAborts (s : State) (i : Slot) : List PendingAbort :=
  if s.transRunning (isAbortTo i) then (s.abortsOf i).take 1 else []

theorem removeAborts_eq (i : Slot) (s : State) : removeAborts i s = { s with
    cache := { s.cache with aborts := s.cache.aborts.filter (fun a => a.slot != i) ++ s.keptAborts i },
    command := { s.command with
      completions := s.command.completions ++ endedAborts ((s.abortsOf i).drop (s.keptAborts i).length) } } := by
  unfold removeAborts
  exact foldl_completeAbort _ _

theorem removeAborts_none {i : Slot} {s : State} (h : ∀ a ∈ s.cache.aborts, a.slot ≠ i) : removeAborts i s = s := by
  have hmine : s.abortsOf i = [] := List.filter_eq_nil_iff.mpr (by simpa using h)
  have hkeep : s.cache.aborts.filter (fun a => a.slot != i) = s.cache.aborts := List.filter_eq_self.mpr (by simpa using h)
  rw [removeAborts_eq, State.keptAborts, hmine, hkeep]
  simp [endedAborts]

theorem transRunning_iff (s : State) (p : Queued → Bool) :
    s.transRunning p = true ↔ ∃ (l : LineNo) (tr : Transaction), (s.ln l).trans = some tr ∧ p tr.q = true := by
  have hmem (l : LineNo) : l ∈ lineNos := by
    revert l
    decide
  unfold State.transRunning
  rw [List.any_eq_true]
  refine ⟨fun ⟨l, _, h⟩ => ?_, fun ⟨l, tr, htr, h⟩ => ⟨l, hmem l, by rw [htr]; exact h⟩⟩
  split at h
  next tr htr => exact ⟨l, tr, htr, h⟩
  next => exact absurd h Bool.false_ne_true

/-! ## The telegrams and the schedule -/

/-- What waits on a line but for the telegrams to an oven. -/
def State.waitingBut (s : State) (i : Slot) (n : LineNo) : List Queued := (s.waitingOn n).filter fun m => m.target != some i

section
variable (i : Slot) (u : UpdRec) (s : State)

theorem ln_vacate (n : LineNo) : (vacate i u s).ln n = { s.ln n with
    urgent := (s.waitingBut i n).take 16, waiting := (s.waitingBut i n).drop 16,
    schedule := (s.ln n).schedule.filter (fun p => p.slot != i),
    trans := (s.ln n).trans.map (fun t => if t.q.target = some i then { t with gone := true } else t) } := by
  unfold vacate
  rw [removeAborts_eq]
  simp [markGone, leaveSchedule, removeTelegrams, State.ln, State.setEnt, State.waitingBut, State.waitingOn, bne, Config.urgentMax]

theorem vacate_waitingOn (n : LineNo) : (vacate i u s).waitingOn n = s.waitingBut i n := by
  unfold State.waitingOn
  rw [ln_vacate, List.take_append_drop]

theorem vacate_offersWaitInTurn (n : LineNo) : (vacate i u s).OffersWaitInTurn n := by
  unfold State.OffersWaitInTurn
  rw [ln_vacate]
  intro h
  rw [List.length_take] at h
  exact List.drop_eq_nil_of_le (by omega)

theorem vacate_schedule (n : LineNo) : ∀ p ∈ ((vacate i u s).ln n).schedule, p.slot ≠ i := by
  rw [ln_vacate]
  simp

theorem vacate_ent_self : (vacate i u s).ent i = { Entry.reset with upd := u } := State.ent_setEnt_self ..

theorem vacate_ent_ne {k : Slot} (h : k ≠ i) : (vacate i u s).ent k = s.ent k := by
  unfold vacate
  rw [State.ent_setEnt, if_neg h, removeAborts_eq]
  simp only [State.ent, markGone, leaveSchedule, removeTelegrams]

/-- A vacated entry leaves the other parts as they were. -/
theorem vacate_parts : (vacate i u s).service = s.service ∧ (vacate i u s).hygiene = s.hygiene ∧
    (vacate i u s).update = s.update ∧ (vacate i u s).report = s.report ∧ (vacate i u s).recipe = s.recipe ∧
    (vacate i u s).path = s.path := by
  simp only [vacate, removeAborts_eq, State.setEnt, markGone, leaveSchedule, removeTelegrams, and_self]

theorem vacate_command : (vacate i u s).command = { s.command with
    completions := s.command.completions ++ endedAborts ((s.abortsOf i).drop (s.keptAborts i).length) } := by
  simp only [vacate, removeAborts_eq, State.setEnt, markGone, leaveSchedule, removeTelegrams]

variable {i u s}

theorem mem_waitingBut {n : LineNo} {q : Queued} : q ∈ s.waitingBut i n ↔ q ∈ s.waitingOn n ∧ q.target ≠ some i := by
  simp [State.waitingBut]

theorem vacate_completions_stopped (h : s.transRunning (isAbortTo i) = false) : (vacate i u s).command.completions =
    s.command.completions ++ endedAborts (s.abortsOf i) := by
  have hkept : s.keptAborts i = [] := if_neg (by rw [h]; exact Bool.false_ne_true)
  rw [vacate_command, hkept]
  rfl

theorem vacate_completions_running (h : s.transRunning (isAbortTo i) = true) : (vacate i u s).command.completions =
    s.command.completions ++ endedAborts ((s.abortsOf i).drop 1) := by
  have hkept : s.keptAborts i = (s.abortsOf i).take 1 := if_pos h
  rw [vacate_command, hkept]
  dsimp only
  cases s.abortsOf i <;> rfl

end

end Sys2Proof.Machine
end

section
/-! PROOF. Commissioning and restore: what the roster makes of the outcomes of ASSIGN, CONFIRM and IDENT_REQ. -/

namespace Sys2Proof.Machine

/-! ## A commissioning that fails (R7-R9, R37) -/

/-- The UNASSIGN of an entry's drop. -/
def State.unassignOf (s : State) (i : Slot) : Queued :=
  { tel := .unassign, owner := .roster, target := none, about := none, addr := (s.ent i).drop, replyAddr := (s.ent i).drop,
    void := false }

theorem sendUnassign_eq (i : Slot) (s : State) : sendUnassign i s = queueUrgent (s.ent i).line (s.unassignOf i) s := rfl

section
variable {i : Slot} {r : ResultCode} {d1 : Word} {un : Bool} {s : State}

/-- What a failure sends before the entry becomes VACANT. -/
theorem failCommission_sends (h : un = true ∧ ∃ j, (s.ent i).job = some j ∧ j.kind = .commission) :
    failCommission i r d1 un s = endLong (.oven i) r d1 0 0 (vacate i (s.ent i).upd (sendUnassign i s)) := by
  obtain ⟨hun, j, hj, hkind⟩ := h
  unfold failCommission
  dsimp only
  rw [hj, hun, if_pos (by simp [hkind])]

theorem failCommission_quiet (h : ¬(un = true ∧ ∃ j, (s.ent i).job = some j ∧ j.kind = .commission)) :
    failCommission i r d1 un s = endLong (.oven i) r d1 0 0 (vacate i (s.ent i).upd s) := by
  unfold failCommission
  dsimp only
  refine congrArg (fun y => endLong (.oven i) r d1 0 0 (vacate i (s.ent i).upd y)) (if_neg fun hc => h ?_)
  rw [Bool.and_eq_true] at hc
  obtain ⟨hun, hkind⟩ := hc
  cases hj : (s.ent i).job with
  | none => rw [hj] at hkind; exact absurd hkind Bool.false_ne_true
  | some j => rw [hj] at hkind; exact ⟨hun, j, rfl, by simpa using hkind⟩

/-- The entry, the schedule and what waits, once the telegrams of the failure are queued. -/
theorem failed_taken {x y : State} (hx : x = endLong (.oven i) r d1 0 0 (vacate i (s.ent i).upd y)) (hent : y.ent = s.ent)
    (hcmd : y.command = s.command) (habort : ∀ a ∈ y.cache.aborts, a.slot ≠ i) :
    x.ent i = { Entry.reset with upd := (s.ent i).upd } ∧ (∀ k, k ≠ i → x.ent k = s.ent k) ∧
    x.command = (endLong (.oven i) r d1 0 0 s).command ∧ (∀ (n : LineNo), ∀ p ∈ (x.ln n).schedule, p.slot ≠ i) ∧
    (∀ n, x.OffersWaitInTurn n ∧ x.waitingOn n = y.waitingBut i n) := by
  have hln (n : LineNo) : x.ln n = (vacate i (s.ent i).upd y).ln n := by rw [hx, ln_endLong]
  refine ⟨?_, fun k hk => ?_, ?_, fun n => ?_, fun n => ⟨?_, ?_⟩⟩
  · rw [hx, ent_endLong, vacate_ent_self]
  · rw [hx, ent_endLong, vacate_ent_ne _ _ _ hk, hent]
  · rw [hx]
    refine endLong_command_congr ?_
    unfold vacate
    rw [removeAborts_none habort]
    exact hcmd
  · rw [hln]
    exact vacate_schedule i _ y n
  · exact (OffersWaitInTurn_congr (by rw [hln]) (by rw [hln])).mpr (vacate_offersWaitInTurn i _ y n)
  · rw [waitingOn_congr (s := vacate i (s.ent i).upd y) (by rw [hln]) (by rw [hln]), vacate_waitingOn]

/-- UNASSIGN has no target: it stays among what waits. -/
theorem sendUnassign_waitingBut {n : LineNo} (h : s.OffersWaitInTurn n) : (sendUnassign i s).waitingBut i n =
    s.waitingBut i n ++ if n = (s.ent i).line then [s.unassignOf i] else [] := by
  have hwait : (sendUnassign i s).waitingOn n = s.waitingOn n ++ if n = (s.ent i).line then [s.unassignOf i] else [] := by
    by_cases hn : n = (s.ent i).line
    · subst hn
      exact waitingOn_queueUrgent_all _ _ s h _
    · rw [if_neg hn, List.append_nil]
      unfold State.waitingOn
      rw [sendUnassign_eq, ln_queueUrgent_ne _ _ hn]
  unfold State.waitingBut
  rw [hwait, List.filter_append]
  refine congrArg _ ?_
  split
  next => exact List.filter_cons_of_pos rfl
  next => rfl

theorem failCommission_taken (habort : ∀ a ∈ s.cache.aborts, a.slot ≠ i) :
    let x := failCommission i r d1 un s
    let sends := un = true ∧ ∃ j, (s.ent i).job = some j ∧ j.kind = .commission
    x.ent i = { Entry.reset with upd := (s.ent i).upd } ∧ (∀ k, k ≠ i → x.ent k = s.ent k) ∧
    x.command = (endLong (.oven i) r d1 0 0 s).command ∧
    (∀ (n : LineNo), ∀ p ∈ (x.ln n).schedule, p.slot ≠ i) ∧
    (∀ n : LineNo, s.OffersWaitInTurn n →
      let left := (s.waitingOn n).filter (fun m => m.target != some i)
      x.OffersWaitInTurn n ∧
      (sends → n = (s.ent i).line → x.waitingOn n = left ++
        [{ tel := .unassign, owner := .roster, target := none, about := none, addr := (s.ent i).drop,
           replyAddr := (s.ent i).drop, void := false }]) ∧
      (¬sends ∨ n ≠ (s.ent i).line → x.waitingOn n = left)) := by
  intro x sends
  by_cases h : sends
  · obtain ⟨hself, hne, hcmd, hsched, hwait⟩ := failed_taken (y := sendUnassign i s) (failCommission_sends h) rfl rfl habort
    refine ⟨hself, hne, hcmd, hsched, fun n hn => ⟨(hwait n).1, fun _ hl => ?_, fun hl => ?_⟩⟩
    · rw [(hwait n).2, sendUnassign_waitingBut hn, if_pos hl]
      rfl
    · rw [(hwait n).2, sendUnassign_waitingBut hn, if_neg (hl.resolve_left (not_not_intro h)), List.append_nil]
      rfl
  · obtain ⟨hself, hne, hcmd, hsched, hwait⟩ := failed_taken (y := s) (failCommission_quiet h) rfl rfl habort
    exact ⟨hself, hne, hcmd, hsched, fun n _ => ⟨(hwait n).1, fun hs => absurd hs h, fun _ => (hwait n).2⟩⟩

end

/-! ## ASSIGN and CONFIRM (R7, R8) -/

section
variable {i : Slot} {j : Job} {q : Queued} {x : Word} {d : Byte} {s : State}

theorem serialTaken_iff (i : Slot) (serial : Word) (s : State) : s.serialTaken i serial = true ↔
    ∃ (k : Slot) (e : Identity), k ≠ i ∧ (s.ent k).state ≠ .vacant ∧ (s.ent k).identity = some e ∧ e.serial = serial := by
  unfold State.serialTaken
  rw [List.any_eq_true]
  constructor
  · rintro ⟨k, _, h⟩
    simp only [Bool.and_eq_true, bne_iff_ne] at h
    obtain ⟨⟨hk, hv⟩, hid⟩ := h
    split at hid
    next e he => exact ⟨k, e, hk, hv, he, by simpa using hid⟩
    next => exact absurd hid Bool.false_ne_true
  · rintro ⟨k, e, hk, hv, he, hserial⟩
    refine ⟨k, mem_slots k, ?_⟩
    rw [he]
    simp [hk, hv, hserial]

theorem deliverUntargeted_assign (ht : q.tel = .assign x d) (ha : q.about = some i) (o : Outcome) :
    deliverUntargeted q o s = pairOutcome i o s := by
  unfold deliverUntargeted
  rw [ht, ha]

theorem deliverUntargeted_confirm (ht : q.tel = .confirm x d) (ha : q.about = some i) (o : Outcome) :
    deliverUntargeted q o s = confirmOutcome i o s := by
  unfold deliverUntargeted
  rw [ht, ha]

variable (hs : (s.ent i).state = .assigning)
include hs

theorem confirmOutcome_taken :
    confirmOutcome i (.valid .ack) s = sendTo i .roster .identReq (s.setEnt i { s.ent i with
        late := false, failures := 0, lastReply := some s.report.clock, silence := some s.now }) ∧
      (∀ o, o ≠ .valid .ack → confirmOutcome i o s = failCommission i .noOven 0 true s) := by
  unfold confirmOutcome
  rw [hs]
  refine ⟨rfl, fun o ho => ?_⟩
  split
  next hack => exact absurd rfl ho
  next => rfl
  next hno _ => exact absurd rfl hno

variable (hj : (s.ent i).job = some j)
include hj

/-- The PAIR of ASSIGN: a serial that another entry has fails the commissioning, another is confirmed. -/
theorem pairOutcome_paired (serial : Word) :
    let y := s.setEnt i { s.ent i with pairing := false, job := some { j with kept := serial } }
    let taken := ∃ (k : Slot) (e : Identity), k ≠ i ∧ (s.ent k).state ≠ .vacant ∧ (s.ent k).identity = some e ∧
      e.serial = serial
    (taken → pairOutcome i (.valid (.pair serial)) s = failCommission i .identity 0 false y) ∧
    (¬taken →
      pairOutcome i (.valid (.pair serial)) s = joinSchedule i (queueUrgent (s.ent i).line
        { tel := .confirm serial (s.ent i).drop, owner := .roster, target := none, about := some i, addr := 0,
          replyAddr := (s.ent i).drop, void := false } y)) := by
  intro y taken
  have hpair : pairOutcome i (.valid (.pair serial)) s =
      if s.serialTaken i serial then failCommission i .identity 0 false y else joinSchedule i (sendConfirm i serial y) := by
    unfold pairOutcome
    rw [hs, hj]
    rfl
  have hent : y.ent i = { s.ent i with pairing := false, job := some { j with kept := serial } } := State.ent_setEnt_self ..
  rw [hpair]
  refine ⟨fun h => if_pos ((serialTaken_iff ..).mpr h), fun h => ?_⟩
  rw [if_neg fun hc => h ((serialTaken_iff ..).mp hc)]
  unfold sendConfirm
  dsimp only
  rw [hent]
  rfl

theorem pairOutcome_failed (b : Bool) :
    pairOutcome i (.failed b) s = failCommission i (if b then .collision else .noOven) 0 false s := by
  unfold pairOutcome
  rw [hs, hj]
  cases b <;> rfl

end

/-! ## IDENT_REQ (R9, R16) -/

section
variable {i : Slot} {j : Job} {l : LineNo} {q : Queued} {s : State}

theorem deliverTo_ident_identifying (ht : q.tel = .identReq) (ho : q.owner = .roster) (hv : q.void = false)
    (hs : (s.ent i).state = .identifying) (hj : (s.ent i).job = some j) :
    (∀ d, deliverTo l q i (.valid (.ident d)) s = judgeIdent i j d s) ∧
    (∀ o, (∀ d, o ≠ .valid (.ident d)) → deliverTo l q i o s = failCommission i .noOven 0 true s) := by
  simp only [deliverTo_ident ht ho, hv, identOutcome, hs, hj]
  refine ⟨fun d => rfl, fun o h => ?_⟩
  rw [if_neg Bool.false_ne_true]
  split
  next d => exact absurd rfl (h d)
  next => rfl

variable {d : IdentReply}

theorem judgeIdent_serial (h : d.serial ≠ j.kept) : judgeIdent i j d s = failCommission i .identity 0 true s := if_pos h

variable (hserial : d.serial = j.kept)
include hserial

theorem judgeIdent_model (h : s.profile.classes.getLsbD d.model.toNat = false) :
    judgeIdent i j d s = failCommission i .model 0 true s := by
  unfold judgeIdent
  rw [if_neg (not_not_intro hserial), if_pos (by rw [h]; rfl)]

variable (hmodel : s.profile.classes.getLsbD d.model.toNat = true)
include hmodel

theorem judgeIdent_eq : judgeIdent i j d s =
    if j.kind = .restore then
      if d.activity = .cleaning then s.modEnt i fun e => { e with identResend := some s.now } else restored i j d s
    else if d.activity ≠ .idle then failCommission i .state (d.activity.code.setWidth 32) true s
    else enterCalibrating i (s.modEnt i fun e => { e with identity := some d.identity }) := by
  unfold judgeIdent
  rw [if_neg (not_not_intro hserial), if_neg (by rw [hmodel]; exact Bool.false_ne_true)]

theorem judgeIdent_busy (hk : j.kind ≠ .restore) (ha : d.activity ≠ .idle) :
    judgeIdent i j d s = failCommission i .state (d.activity.code.setWidth 32) true s := by
  rw [judgeIdent_eq hserial hmodel, if_neg hk, if_pos ha]

theorem judgeIdent_calibrates (hk : j.kind ≠ .restore) (ha : d.activity = .idle) :
    judgeIdent i j d s = sendTo i .roster .probeCheck (joinSchedule i (s.setEnt i { s.ent i with
      identity := some ⟨d.serial, d.model, d.level⟩, state := .calibrating, probe := false, calLimit := some s.now })) := by
  rw [judgeIdent_eq hserial hmodel, if_neg hk, if_neg (not_not_intro ha)]
  exact enterCalibrating_setEnt i _ s

theorem judgeIdent_again (hk : j.kind = .restore) (ha : d.activity = .cleaning) :
    judgeIdent i j d s = s.setEnt i { s.ent i with identResend := some s.now } := by
  rw [judgeIdent_eq hserial hmodel, if_pos hk, if_pos ha]
  rfl

theorem judgeIdent_restores (hk : j.kind = .restore) (ha : d.activity ≠ .cleaning) : judgeIdent i j d s = restored i j d s := by
  rw [judgeIdent_eq hserial hmodel, if_pos hk, if_neg ha]

end

end Sys2Proof.Machine
end

section
/-! PROOF. A RESTORE that ends well (R16, R108), and the obligation on commissioning. -/

namespace Sys2Proof.Machine

section
variable {i : Slot} {j : Job} {d : IdentReply} {s : State}

/-- The entry of a restored oven, its level not yet told. -/
def Entry.restored (e : Entry) (j : Job) (d : IdentReply) (p : Profile) : Entry :=
  { e with state := .inService, identity := some d.identity, cal := some j.cal, job := none,
           token := if d.activity = .cooking then d.token else e.token,
           count := j.minutes.toNat, level := levelOf p j.minutes.toNat }

/-- The restored oven, its cook not yet adopted. -/
def State.restoring (s : State) (i : Slot) (j : Job) (d : IdentReply) : State :=
  setCount i j.minutes.toNat (s.modEnt i fun e =>
    { e with state := .inService, identity := some d.identity, cal := some j.cal, job := none,
             token := if d.activity = .cooking then d.token else e.token })

theorem ent_restoring : (s.restoring i j d).ent i = (s.ent i).restored j d s.profile := by
  unfold State.restoring
  rw [ent_setCount, State.ent_modEnt_self]
  rfl

theorem restoring_work : EntryWork s (s.restoring i j d) := (EntryWork.modEnt ..).trans (EntryWork.setCount ..)

theorem rslot_restoring (r : RecipeNo) : (s.restoring i j d).rslot r = s.rslot r := by
  unfold State.rslot State.restoring
  rw [setCount_recipe]
  rfl

theorem restored_idle (h : d.activity ≠ .cooking) :
    restored i j d s = commissioned i j j.cal none 0 0 (s.restoring i j d) := by
  unfold restored
  dsimp only
  rw [if_neg h]
  rfl

theorem restored_cooking (h : d.activity = .cooking) : restored i j d s =
    commissioned i j j.cal none 0 0 (adopt i d.token d.recipe d.version (s.restoring i j d)) := by
  unfold restored
  dsimp only
  rw [if_pos h]
  rfl

/-- An oven that a RESTORE brings into service, from a state that differs in its entry and its telegrams only. -/
theorem restored_from {x y : State} {d1 d2 : Word} {d : Identity} (hx : x = commissioned i j j.cal none d1 d2 y)
    (hw : EntryWork s y) (hstate : (y.ent i).state = .inService) (hplace : (y.ent i).place = (s.ent i).place)
    (hid : (y.ent i).identity = some d) (hcount : (y.ent i).count = j.minutes.toNat) :
    (x.ent i).count = j.minutes.toNat ∧ (x.ent i).late = false ∧ (x.ent i).failures = 0 ∧ (x.ent i).silence = some s.now ∧
    x.command = (endLong (.oven i) .done d1 d2 0 s).command ∧
    (x.report.journal, x.report.gapPending) = s.report.passed (.commission
      { slot := i, mark := j.kind, tag := j.tag, line := (s.ent i).line, drop := (s.ent i).drop,
        ident := d, cal := j.cal, errors := none, count := j.minutes.toNat, time := s.report.clock }) ∧
    s.telegramTo i .cache .flush ∈ x.waitingOn (s.ent i).line ∧
    (x.ent i).level = levelOf s.profile j.minutes.toNat ∧
    x.hygiene.queue = s.autoQueued i (levelOf s.profile j.minutes.toNat) := by
  subst hx
  have hline : (y.ent i).line = (s.ent i).line := by unfold Entry.line; rw [hplace]
  have hdrop : (y.ent i).drop = (s.ent i).drop := by unfold Entry.drop; rw [hplace]
  rw [ent_commissioned hid, Entry.served, hw.now, hw.profile]
  refine ⟨hcount, rfl, rfl, rfl, ?_, ?_, ?_, congrArg (levelOf s.profile) hcount, ?_⟩
  · rw [commissioned_command hid]
    exact endLong_command_congr hw.command
  · rw [commissioned_passed hid, State.commissionJournal, hline, hdrop, hcount, hw.clock]
    exact hw.passed _
  · have hmem := commissioned_flushes (j := j) (c := j.cal) (errors := none) (d1 := d1) (d2 := d2) hid
    unfold State.telegramTo at hmem ⊢
    rwa [hline, hdrop] at hmem
  · rw [commissioned_queue hid hstate, hcount]
    unfold State.autoQueued
    rw [hw.profile, hw.hygiene, hw.clock]

/-- A restored oven, taken. -/
theorem restored_taken (hk : j.kind = .restore) (hidle : (s.ent i).activity = .idle)
    (hgrant : (s.ent i).grant = none) :
    let x := restored i j d s
    (x.ent i).state = .inService ∧ (x.ent i).identity = some ⟨d.serial, d.model, d.level⟩ ∧
    (x.ent i).cal = some j.cal ∧ (x.ent i).job = none ∧ (x.ent i).count = j.minutes.toNat ∧
    (x.ent i).late = false ∧ (x.ent i).failures = 0 ∧ (x.ent i).silence = some s.now ∧
    x.command = (endLong (.oven i) .done 0 0 0 s).command ∧
    (x.report.journal, x.report.gapPending) = s.report.passed (.commission
      { slot := i, mark := .restore, tag := j.tag, line := (s.ent i).line, drop := (s.ent i).drop,
        ident := ⟨d.serial, d.model, d.level⟩, cal := j.cal, errors := none, count := j.minutes.toNat,
        time := s.report.clock }) ∧
    s.telegramTo i .cache .flush ∈ x.waitingOn (s.ent i).line ∧
    (x.ent i).level = levelOf s.profile j.minutes.toNat ∧
    x.hygiene.queue = s.autoQueued i (levelOf s.profile j.minutes.toNat) ∧
    (d.activity ≠ .cooking → (x.ent i).activity = .idle ∧ (x.ent i).dir = [] ∧ (x.ent i).token = (s.ent i).token) ∧
    (d.activity = .cooking →
      (x.ent i).activity = .cooking ∧ (x.ent i).token = d.token ∧
      (x.ent i).cook = some { recipe := d.recipe, version := d.version, origin := .adopted, token := d.token,
                              start := s.report.clock, step := 0, tag := none } ∧
      (∃ e, (x.ent i).dir = [e] ∧ e.recipe = d.recipe ∧ e.version = d.version ∧
        e.stale = !((s.rslot d.recipe).state == .published && (s.rslot d.recipe).version == d.version)) ∧
      (x.rslot d.recipe).pins = (s.rslot d.recipe).pins + 1) := by
  intro x
  rw [← hk]
  have hent := ent_restoring (i := i) (j := j) (d := d) (s := s)
  by_cases hcook : d.activity = .cooking
  · have hns : ((s.restoring i j d).ent i).state ≠ .suspended := by rw [hent]; nofun
    have hadopt := ent_adopt d.token d.recipe d.version hns
    have hx : x = commissioned i j j.cal none 0 0 (adopt i d.token d.recipe d.version (s.restoring i j d)) :=
      restored_cooking hcook
    have hid : ((adopt i d.token d.recipe d.version (s.restoring i j d)).ent i).identity = some d.identity := by
      rw [hadopt, State.adopted, hent, Entry.restored]
    obtain ⟨hcount, hlate, hfail, hsil, hcmd, hjournal, hflush, hlevel, hqueue⟩ := restored_from (s := s) hx
      (restoring_work.trans (adopt_work _ _ _ hns)) (by rw [hadopt, State.adopted, hent, Entry.restored])
      (by rw [hadopt, State.adopted, hent, Entry.restored]) hid (by rw [hadopt, State.adopted, hent, Entry.restored])
    have hxe : x.ent i = ((s.restoring i j d).adopted i d.token d.recipe d.version).served
        (adopt i d.token d.recipe d.version (s.restoring i j d)).profile
        (adopt i d.token d.recipe d.version (s.restoring i j d)).now := by rw [hx, ent_commissioned hid, hadopt]
    have hnone : (s.restoring i j d).grantOf i d.token d.recipe d.version = none := by
      rw [State.grantOf, hent, Entry.restored, hgrant]
      rfl
    obtain ⟨e, hdir, hrecipe, hversion, hstale⟩ := adopted_reducedDir (s.restoring i j d) i d.token d.recipe d.version
    refine ⟨?_, ?_, ?_, ?_, hcount, hlate, hfail, hsil, hcmd, hjournal, hflush, hlevel, hqueue, fun h => absurd hcook h,
      fun _ => ⟨?_, ?_, ?_, ⟨e, ?_, hrecipe, hversion, ?_⟩, ?_⟩⟩
    · rw [hxe, Entry.served, State.adopted, hent, Entry.restored]
    · rw [hxe, Entry.served, State.adopted, hent]
      rfl
    · rw [hxe, Entry.served, State.adopted, hent, Entry.restored]
    · rw [hxe, Entry.served, State.adopted, hent, Entry.restored]
    · rw [hxe, Entry.served, State.adopted]
    · rw [hxe, Entry.served, State.adopted, hent, Entry.restored]
      exact if_pos hcook
    · rw [hxe, Entry.served, State.adopted, State.adoptedCook, hnone, restoring_work.clock]
      rfl
    · rw [hxe]
      exact hdir
    · rw [hstale, State.staleFor, rslot_restoring]
    · have hpins := adopt_pins d.token d.recipe d.version hns
      rw [rslot_restoring] at hpins
      rw [hx, State.rslot, commissioned_recipe hid]
      exact hpins
  · have hx : x = commissioned i j j.cal none 0 0 (s.restoring i j d) := restored_idle hcook
    have hid : ((s.restoring i j d).ent i).identity = some d.identity := by rw [hent]; rfl
    obtain ⟨hcount, hlate, hfail, hsil, hcmd, hjournal, hflush, hlevel, hqueue⟩ := restored_from (s := s) hx
      restoring_work (by rw [hent]; rfl) (by rw [hent]; rfl) hid (by rw [hent]; rfl)
    have hxe : x.ent i = ((s.ent i).restored j d s.profile).served (s.restoring i j d).profile (s.restoring i j d).now := by
      rw [hx, ent_commissioned hid, hent]
    have hact : ((s.ent i).restored j d s.profile).activity = .idle := hidle
    refine ⟨by rw [hxe]; rfl, by rw [hxe]; rfl, by rw [hxe]; rfl, by rw [hxe]; rfl, hcount, hlate, hfail, hsil, hcmd, hjournal,
      hflush, hlevel, hqueue, fun _ => ⟨by rw [hxe]; exact hact, ?_, ?_⟩, fun h => absurd h hcook⟩
    · rw [hxe]
      exact Entry.reducedDir_of_ne (by rw [hact]; nofun)
    · rw [hxe]
      exact if_neg hcook

end

/-! ## Telegrams (R40) -/

section
variable (l : LineNo) (q : Queued) (s : State)

theorem setLn_of_modLn (f : Line → Line) (x : Line) (h : f (s.ln l) = x) : s.modLn l f = s.setLn l x := by
  rw [← h]
  rfl

theorem queueUrgent_free (h : (s.ln l).urgent.length < 16) :
    queueUrgent l q s = s.setLn l { s.ln l with urgent := (s.ln l).urgent ++ [q] } :=
  setLn_of_modLn l s _ _ (if_pos h)

theorem queueUrgent_full (h : 16 ≤ (s.ln l).urgent.length) :
    queueUrgent l q s = s.setLn l { s.ln l with waiting := (s.ln l).waiting ++ [q] } :=
  setLn_of_modLn l s _ _ (if_neg h.not_gt)

theorem queueUrgent_offersWaitInTurn (h : s.OffersWaitInTurn l) : (queueUrgent l q s).OffersWaitInTurn l := by
  by_cases hl : (s.ln l).urgent.length < 16
  · rw [queueUrgent_free l q s hl]
    unfold State.OffersWaitInTurn
    rw [State.ln_setLn_self]
    exact fun _ => h hl
  · rw [queueUrgent_full l q s (Nat.le_of_not_lt hl)]
    unfold State.OffersWaitInTurn
    rw [State.ln_setLn_self]
    exact fun hlt => absurd hlt hl

theorem ln_removeTelegrams (p : Queued → Bool) : (removeTelegrams p s).ln l =
    { s.ln l with urgent := ((s.waitingOn l).filter (fun m => !p m)).take 16,
                  waiting := ((s.waitingOn l).filter (fun m => !p m)).drop 16 } := by
  simp [removeTelegrams, State.ln, State.waitingOn, Config.urgentMax]

end

end Sys2Proof.Machine

open Sys2Proof.Machine in
/-- Settles O37: one part per telegram of a commissioning, the failure, and the FIFO of the urgent telegrams. -/
theorem commissioningOutcomes : Obligations.CommissioningOutcomes := by
  unfold Obligations.CommissioningOutcomes
  intro l i j q s
  refine ⟨?assign, ?confirm, ?ident, fun r d1 un => failCommission_taken, fun o tel => rfl,
    ⟨queueUrgent_free l q s, queueUrgent_full l q s, fun h => ⟨waitingOn_queueUrgent l q s h, queueUrgent_offersWaitInTurn l q s h⟩⟩,
    ln_removeTelegrams l s⟩
  case assign =>
    intro x d ht ha hs hj
    simp only [deliverUntargeted_assign ht ha]
    exact ⟨pairOutcome_paired hs hj, pairOutcome_failed hs hj true, pairOutcome_failed hs hj false⟩
  case confirm =>
    intro x d ht ha hs
    simp only [deliverUntargeted_confirm ht ha]
    exact confirmOutcome_taken hs
  case ident =>
    intro ht ho hv hs hj
    obtain ⟨hjudge, hno⟩ := deliverTo_ident_identifying (l := l) ht ho hv hs hj
    simp only [hjudge]
    exact ⟨hno, fun d => ⟨judgeIdent_serial, judgeIdent_model, fun hserial hmodel =>
      ⟨judgeIdent_busy hserial hmodel, judgeIdent_calibrates hserial hmodel, judgeIdent_again hserial hmodel,
        fun hk ha hidle _ hgrant => by
          rw [judgeIdent_restores hserial hmodel hk ha]
          exact restored_taken hk hidle hgrant⟩⟩⟩
end

section
/-! PROOF. RETIRE (R17): its checks, and the entry that leaves the roster. -/

namespace Sys2Proof.Machine

section
variable (tag : Half) {i : Slot} {s : State}

theorem retire_range {b : Byte} (h : 16 ≤ b.toNat) : retire tag b s = complete tag 0x04 .range 0 0 0 s := by
  unfold retire
  rw [slotOf_none h]
  rfl

/-- An oven that retires, once UNASSIGN is queued and the oven has left the cleaning queue and a rollout's. -/
def State.leaving (s : State) (i : Slot) : State :=
  skipQueued i (leaveCleaning i (if (s.ent i).late then s else sendUnassign i s))

/-- The state that RETIRE completes on. -/
def State.retired (s : State) (i : Slot) : State := vacate i UpdRec.reset (removeCallsOf i (s.leaving i))

theorem retire_eq : retire tag (slotByte i) s =
    if s.held (.oven i) then complete tag 0x04 .busy 0 0 0 s
    else if (s.ent i).state = .vacant ∨ (s.ent i).state = .revalidating then complete tag 0x04 .state 0 0 0 s
    else if (s.ent i).activity ≠ .idle ∨ (s.ent i).offerOut then complete tag 0x04 .busy 0 0 0 s
    else complete tag 0x04 .done (BitVec.ofNat 32 ((s.leaving i).callsOf i)) 0 0 (s.retired i) := by
  unfold retire
  rw [slotOf_slotByte]
  rfl

theorem retire_held (h : s.held (.oven i) = true) : retire tag (slotByte i) s = complete tag 0x04 .busy 0 0 0 s := by
  rw [retire_eq, if_pos h]

variable (h : s.held (.oven i) = false)
include h

theorem retire_state (hs : (s.ent i).state = .vacant ∨ (s.ent i).state = .revalidating) :
    retire tag (slotByte i) s = complete tag 0x04 .state 0 0 0 s := by
  rw [retire_eq, if_neg (by simp [h]), if_pos hs]

variable (hv : (s.ent i).state ≠ .vacant) (hr : (s.ent i).state ≠ .revalidating)
include hv hr

theorem retire_busy (hb : (s.ent i).activity ≠ .idle ∨ (s.ent i).offerOut = true) :
    retire tag (slotByte i) s = complete tag 0x04 .busy 0 0 0 s := by
  rw [retire_eq, if_neg (by simp [h]), if_neg (by simp [hv, hr]), if_pos hb]

theorem retire_done (hidle : (s.ent i).activity = .idle) (ho : (s.ent i).offerOut = false) : retire tag (slotByte i) s =
    complete tag 0x04 .done (BitVec.ofNat 32 ((s.leaving i).callsOf i)) 0 0 (s.retired i) := by
  rw [retire_eq, if_neg (by simp [h]), if_neg (by simp [hv, hr]), if_neg (by simp [hidle, ho])]

end

/-! ## The entry that leaves -/

section
variable {i : Slot} {s : State}

/-- The telegram of the leave, if the oven hears. -/
def State.unassigned (s : State) (i : Slot) : State := if (s.ent i).late then s else sendUnassign i s

theorem leaving_eq : s.leaving i = skipQueued i (leaveCleaning i (s.unassigned i)) := rfl

theorem unassigned_of_late (h : (s.ent i).late = true) : s.unassigned i = s := if_pos h

theorem unassigned_of_hears (h : (s.ent i).late = false) : s.unassigned i = sendUnassign i s :=
  if_neg (by rw [h]; exact Bool.false_ne_true)

/-- UNASSIGN changes the FIFO of one line. -/
theorem unassigned_eq : s.unassigned i = { s with lines := (s.unassigned i).lines } := by
  unfold State.unassigned
  split <;> rfl

theorem ent_leaveRollout {k : Slot} (h : k ≠ i) : (skipQueued i s).ent k = s.ent k := by
  by_cases hq : (s.ent i).upd.state = .queued
  · rw [skipQueued_of_queued hq, ent_raiseEvent]
    exact (State.ent_setEnt ..).trans (if_neg h)
  · rw [skipQueued_of_ne hq]

theorem ent_leaving {k : Slot} (h : k ≠ i) : (s.leaving i).ent k = s.ent k := by
  rw [leaving_eq, ent_leaveRollout h, unassigned_eq]
  rfl

theorem leaving_service : (s.leaving i).service = s.service := by
  rw [leaving_eq, skipQueued_service, unassigned_eq]
  rfl

theorem leaving_queue : (s.leaving i).hygiene.queue = s.hygiene.queue.filter (fun w => w.slot != i) := by
  rw [leaving_eq, skipQueued_hygiene, unassigned_eq]
  rfl

theorem leaving_command : (s.leaving i).command = s.command := by
  rw [leaving_eq, skipQueued_command, unassigned_eq]
  rfl

theorem leaving_cache : (s.leaving i).cache = s.cache := by
  rw [leaving_eq, skipQueued_cache, unassigned_eq]
  rfl

theorem leaving_recipe : (s.leaving i).recipe = s.recipe := by
  rw [leaving_eq, skipQueued_recipe, unassigned_eq]
  rfl

theorem leaving_path : (s.leaving i).path = s.path := by
  rw [leaving_eq, skipQueued_path, unassigned_eq]
  rfl

theorem ln_leaving (n : LineNo) : (s.leaving i).ln n = (s.unassigned i).ln n := by
  rw [leaving_eq, ln_skipQueued, ln_leaveCleaning]

/-- The removal of an oven's calls touches the service unit alone. -/
theorem ln_removeCallsOf (n : LineNo) : (removeCallsOf i s).ln n = s.ln n := rfl

theorem removeCallsOf_command : (removeCallsOf i s).command = s.command := rfl

theorem removeCallsOf_cache : (removeCallsOf i s).cache = s.cache := rfl

theorem ent_removeCallsOf (k : Slot) : (removeCallsOf i s).ent k = s.ent k := rfl

theorem trans_unassigned (n : LineNo) : ((s.unassigned i).ln n).trans = (s.ln n).trans := by
  unfold State.unassigned
  split
  next => rfl
  next =>
    obtain ⟨u, w, hln⟩ := ln_queueUrgent (s.ent i).line (s.unassignOf i) s n
    rw [sendUnassign_eq, hln]

theorem unassigned_upd : ((leaveCleaning i (s.unassigned i)).ent i).upd = (s.ent i).upd := by
  rw [unassigned_eq]
  rfl

theorem leaving_unqueued (h : (s.ent i).upd.state ≠ .queued) :
    (s.leaving i).update = s.update ∧ (s.leaving i).report = s.report := by
  rw [leaving_eq, skipQueued_of_ne (by rw [unassigned_upd]; exact h), unassigned_eq]
  exact ⟨rfl, rfl⟩

theorem leaving_queued (h : (s.ent i).upd.state = .queued) (hs : s.hears = true) :
    (s.leaving i).update = { s.update with
      rollout := { s.update.rollout with skipped := s.update.rollout.skipped ||| (1 <<< i.val) } } ∧
    (s.leaving i).report.pendingSet = raisedPending s.report.pendingSet .rollout := by
  have hq : ((leaveCleaning i (s.unassigned i)).ent i).upd.state = .queued := by rw [unassigned_upd]; exact h
  rw [leaving_eq, skipQueued_update hq, skipQueued_pendingSet hq (by rw [unassigned_eq]; exact hs), unassigned_eq]
  exact ⟨rfl, rfl⟩

/-! ## The retired oven -/

theorem retired_waitingOn (n : LineNo) : (s.retired i).waitingOn n = (s.unassigned i).waitingBut i n := by
  unfold State.retired State.waitingBut State.waitingOn
  rw [← ln_leaving]
  exact vacate_waitingOn i _ _ n

theorem unassign_waits (h : (s.ent i).late = false) :
    s.unassignOf i ∈ (s.retired i).waitingOn (s.ent i).line := by
  rw [retired_waitingOn, unassigned_of_hears h, mem_waitingBut]
  exact ⟨mem_waitingOn_queueUrgent .., nofun⟩

/-- The transaction of an ABORT command to the oven runs. -/
theorem leaving_abortRuns : (removeCallsOf i (s.leaving i)).transRunning (isAbortTo i) = true ↔
    ∃ (l : LineNo) (tr : Transaction), (s.ln l).trans = some tr ∧ tr.q.tel = .abort ∧ tr.q.owner = .cache ∧
      tr.q.target = some i := by
  have htrans (l : LineNo) : ((removeCallsOf i (s.leaving i)).ln l).trans = (s.ln l).trans := by
    rw [ln_removeCallsOf, ln_leaving, trans_unassigned]
  rw [transRunning_iff]
  refine exists_congr fun l => exists_congr fun tr => ?_
  rw [htrans, isAbortTo]
  simp only [Bool.and_eq_true, beq_iff_eq]
  tauto

theorem retired_ent_ne {k : Slot} (h : k ≠ i) : (s.retired i).ent k = s.ent k :=
  (vacate_ent_ne _ _ _ h).trans ((ent_removeCallsOf k).trans (ent_leaving h))

theorem callsOf_leaving : (s.leaving i).callsOf i = s.callsOf i := by
  unfold State.callsOf
  rw [leaving_service]

/-- RETIRE accepted, but for its own completion. -/
theorem retired_taken (hs : s.hears = true) :
    let x := s.retired i
    x.ent i = Entry.reset ∧ (∀ k : Slot, k ≠ i → x.ent k = s.ent k) ∧
    x.service.calls = s.service.calls.filter (fun c => c.source != .oven i) ∧
    x.hygiene.queue = s.hygiene.queue.filter (fun w => w.slot != i) ∧
    (∀ l : LineNo, ∀ q ∈ x.waitingOn l, q.target ≠ some i) ∧
    ((s.ent i).late = false → ∃ q ∈ x.waitingOn (s.ent i).line, q.tel = .unassign ∧ q.addr = (s.ent i).drop) ∧
    ((s.ent i).late = true → ∀ l : LineNo, ∀ q ∈ x.waitingOn l, q ∈ s.waitingOn l) ∧
    ((s.ent i).upd.state = .queued →
      x.update = { s.update with
        rollout := { s.update.rollout with skipped := s.update.rollout.skipped ||| (1 <<< i.val) } } ∧
      x.report.pendingSet = raisedPending s.report.pendingSet .rollout) ∧
    ((s.ent i).upd.state ≠ .queued → x.update = s.update ∧ x.report = s.report) ∧
    x.recipe = s.recipe ∧ x.path = s.path ∧ x.command.longs = s.command.longs := by
  intro x
  obtain ⟨hservice, hhygiene, hupdate, hreport, hrecipe, hpath⟩ := vacate_parts i UpdRec.reset (removeCallsOf i (s.leaving i))
  have hupdate' : x.update = (s.leaving i).update := hupdate
  have hreport' : x.report = (s.leaving i).report := hreport
  refine ⟨vacate_ent_self .., fun k => retired_ent_ne, ?_, ?_, fun l q hq => ?_, fun h => ⟨_, unassign_waits h, rfl, rfl⟩,
    fun h l q hq => ?_, fun h => ?_, fun h => ?_, hrecipe.trans leaving_recipe, hpath.trans leaving_path, ?_⟩
  · rw [show x.service = _ from hservice, removeCallsOf, leaving_service]
  · rw [show x.hygiene = _ from hhygiene]
    exact leaving_queue
  · rw [retired_waitingOn] at hq
    exact (mem_waitingBut.mp hq).2
  · rw [retired_waitingOn, unassigned_of_late h] at hq
    exact (mem_waitingBut.mp hq).1
  · rw [hupdate', hreport']
    exact leaving_queued h hs
  · rw [hupdate', hreport']
    exact leaving_unqueued h
  · have hcmd := congrArg CommandUnit.longs (vacate_command i UpdRec.reset (removeCallsOf i (s.leaving i)))
    rwa [removeCallsOf_command, leaving_command] at hcmd

/-- The completions of the ABORT commands whose telegrams go. -/
theorem retired_completions :
    let running := ∃ (l : LineNo) (tr : Transaction), (s.ln l).trans = some tr ∧ tr.q.tel = .abort ∧ tr.q.owner = .cache ∧
      tr.q.target = some i
    (¬running → (s.retired i).command.completions = s.command.completions ++ endedAborts (s.abortsOf i)) ∧
    (running → (s.retired i).command.completions = s.command.completions ++ endedAborts ((s.abortsOf i).drop 1)) := by
  have hcmd : (removeCallsOf i (s.leaving i)).command = s.command := by rw [removeCallsOf_command, leaving_command]
  have hmine : (removeCallsOf i (s.leaving i)).abortsOf i = s.abortsOf i := by
    unfold State.abortsOf
    rw [removeCallsOf_cache, leaving_cache]
  refine ⟨fun h => ?_, fun h => ?_⟩
  · rw [State.retired, ← hcmd, ← hmine]
    exact vacate_completions_stopped (Bool.eq_false_iff.mpr fun hc => h (leaving_abortRuns.mp hc))
  · rw [State.retired, ← hcmd, ← hmine]
    exact vacate_completions_running (leaving_abortRuns.mpr h)

end

end Sys2Proof.Machine

open Sys2Proof.Machine in
/-- Settles O22: the checks in their order, then the parts of the state that the retired oven leaves. -/
theorem retireTaken : Obligations.RetireTaken := by
  unfold Obligations.RetireTaken
  intro tag s hs
  refine ⟨fun b h => row_endsAs (exec_retire _ _ hs) (congrArg settle (retire_range tag h)),
    fun i h => row_endsAs (exec_retire _ _ hs) (congrArg settle (retire_held tag h)),
    fun i h hst => row_endsAs (exec_retire _ _ hs) (congrArg settle (retire_state tag h hst)),
    fun i h hv hr => ⟨fun hb => row_endsAs (exec_retire _ _ hs) (congrArg settle (retire_busy tag h hv hr hb)),
      fun hidle ho => ?_⟩⟩
  have hdone := retire_done (s := s.taken) tag h hv hr hidle ho
  rw [callsOf_leaving] at hdone
  obtain ⟨hself, hne, hcalls, hqueue, htarget, hunassign, hlate, hqueued, hunqueued, hrecipe, hpath, hlongs⟩ :=
    retired_taken (s := s.taken) (i := i) hs
  obtain ⟨hstopped, hruns⟩ := retired_completions (s := s.taken) (i := i)
  have hends := finish_ends s (settle (retire tag (slotByte i) s.taken))
  rw [hdone] at hends
  refine ⟨_, _, exec_retire _ _ hs, by rw [hdone]; exact hends, ?_⟩
  generalize s.taken.retired i = x at hself hne hcalls hqueue htarget hunassign hlate hqueued hunqueued hrecipe hpath hlongs hstopped hruns
  exact ⟨hself, hne, hcalls, hqueue,
    ⟨fun hr => congrArg (· ++ [_]) (hstopped hr), fun hr => congrArg (· ++ [_]) (hruns hr)⟩,
    htarget, hunassign, hlate, hqueued, hunqueued, hrecipe, hpath, hlongs⟩
end

section
/-! PROOF. The fields of the oven record (11 §11.4, R1, R176, R193), part by part. -/

namespace Sys2Proof.Machine

/-! ## Fields of a record -/

/-- A byte of one part of a record that is made of parts. -/
theorem byteAt_flatten (parts : List (List Byte)) (j : Nat) {n k : Nat} (hn : (parts.take j).flatten.length = n)
    (hk : k < (parts.getD j []).length) : byteAt parts.flatten (n + k) = byteAt (parts.getD j []) k := by
  have hj : j < parts.length := by
    by_contra hc
    rw [List.getD_eq_default _ _ (Nat.le_of_not_lt hc)] at hk
    exact absurd hk (Nat.not_lt_zero k)
  rw [List.getD_eq_getElem _ _ hj] at hk ⊢
  have hsplit : parts.flatten = (parts.take j).flatten ++ (parts[j] ++ (parts.drop (j + 1)).flatten) := by
    rw [← List.flatten_cons, ← List.flatten_append, ← List.drop_eq_getElem_cons hj, List.take_append_drop]
  unfold byteAt
  rw [hsplit, List.getD_append_right _ _ _ _ (by omega), hn, Nat.add_sub_cancel_left, List.getD_append _ _ _ _ hk]

theorem halfAt_le16 (h : Half) : halfAt (le16 h) 0 = h := by
  have hlo : h.setWidth 8 = h.extractLsb' 0 8 := BitVec.setWidth_eq_extractLsb' (by decide)
  have hhi : (h >>> 8).setWidth 8 = h.extractLsb' 8 8 := BitVec.setWidth_ushiftRight_eq_extractLsb
  refine Eq.trans ?_ (halfOf_extract h)
  rw [← hlo, ← hhi]
  rfl

theorem wordAt_le32 (w : Word) : wordAt (le32 w) 0 = w := by
  have h0 : w.setWidth 8 = w.extractLsb' 0 8 := BitVec.setWidth_eq_extractLsb' (by decide)
  have h1 : (w >>> 8).setWidth 8 = w.extractLsb' 8 8 := BitVec.setWidth_ushiftRight_eq_extractLsb
  have h2 : (w >>> 16).setWidth 8 = w.extractLsb' 16 8 := BitVec.setWidth_ushiftRight_eq_extractLsb
  have h3 : (w >>> 24).setWidth 8 = w.extractLsb' 24 8 := BitVec.setWidth_ushiftRight_eq_extractLsb
  refine Eq.trans ?_ (wordOf_extract w)
  rw [← h0, ← h1, ← h2, ← h3]
  rfl

theorem marks_getLsbD (l : List Bool) (k : Nat) : (marks l).getLsbD k = (decide (k < 8) && l.getD k false) := by
  induction l generalizing k with
  | nil => simp [marks]
  | cons b l ih =>
    have hcons : marks (b :: l) = (marks l <<< 1) ||| bit b := rfl
    have hbit : (bit b).getLsbD k = (decide (k = 0) && b) := by
      cases b
      · simp [bit]
      · simp [bit, BitVec.getLsbD_one]
    rw [hcons, BitVec.getLsbD_or, BitVec.getLsbD_shiftLeft, ih, hbit]
    cases k with
    | zero => simp
    | succ k =>
      by_cases hk : k + 1 < 8
      · simp [hk, show k < 8 by omega]
      · simp [hk]

theorem sat16_toInt (x : Int) : (sat16 x).toInt = max (-32768) (min 32767 x) := by
  unfold sat16
  rw [BitVec.toInt_ofInt]
  exact Int.bmod_eq_of_le (by omega) (by omega)

/-- The slots of a list, and 0xFF for the places without one. -/
theorem getD_padded {α : Type} (f : α → Byte) (l : List α) {n k : Nat} (h : k < n) :
    ((l.map f ++ List.replicate n 0xFF).take n).getD k 0 = ((l[k]?).map f).getD 0xFF := by
  rw [List.getD_eq_getElem?_getD, List.getElem?_take_of_lt h]
  by_cases hk : k < l.length
  · rw [List.getElem?_append_left (by simpa using hk)]
    simp [hk]
  · rw [List.getElem?_append_right (by simpa using hk)]
    simp [hk, show k - l.length < n by omega]

/-! ## The parts of the oven record -/

namespace Entry
variable (e : Entry)

def identityBytes : List Byte :=
  e.identity.elim (zeros 5 ++ [e.level.code] ++ zeros 2) fun d => le32 d.serial ++ [d.model, e.level.code] ++ le16 d.level

def tempBytes : List Byte := e.correctedTemps.elim (zeros 4) fun p => le16 (sat16 p.1) ++ le16 (sat16 p.2)

def cookBytes : List Byte :=
  e.cook.elim (recipeByte? none :: zeros 4) fun k => [recipeByte k.recipe, k.version, k.origin.code, k.token, k.step]

def cookTimeBytes : List Byte := e.cook.elim (zeros 6) fun k => le32 k.start ++ le16 (k.tag.getD 0)

def calBytes : List Byte := e.cal.elim (zeros 8) Cal.bytes

def markBits : List Bool :=
  [e.identity.isSome, e.cal.isSome, e.correctedTemps.isSome, e.cook.isSome, e.probe, e.offerOut,
    e.cook.elim false fun k => k.tag.isSome, e.lastReply.isSome]

@[simp] theorem length_identityBytes : e.identityBytes.length = 8 := by
  unfold identityBytes
  cases e.identity <;> rfl

@[simp] theorem length_tempBytes : e.tempBytes.length = 4 := by
  unfold tempBytes
  cases e.correctedTemps <;> rfl

@[simp] theorem length_cookBytes : e.cookBytes.length = 5 := by
  unfold cookBytes
  cases e.cook <;> rfl

@[simp] theorem length_cookTimeBytes : e.cookTimeBytes.length = 6 := by
  unfold cookTimeBytes
  cases e.cook <;> rfl

@[simp] theorem length_calBytes : e.calBytes.length = 8 := by
  unfold calBytes
  cases e.cal <;> rfl

end Entry

/-- The oven record behind its change count. -/
def State.ovenRecord (s : State) (i : Slot) : List Byte := [0, 0, 0, 0] ++ s.ovenBytes i

/-- The parts of the oven record. -/
def State.ovenParts (s : State) (i : Slot) : List (List Byte) :=
  [zeros 4,
    [(s.ent i).state.code, (s.ent i).activity.code, bit (s.ent i).late ||| (BitVec.ofNat 8 (s.ent i).failures <<< 4),
      (s.ent i).causes.setWidth 8, BitVec.ofNat 8 (s.ent i).line.val, (s.ent i).drop, marks (s.ent i).markBits,
      (s.ent i).readings.elim 0 fun r => r.reported.code],
    (s.ent i).identityBytes, (s.ent i).tempBytes, le32 ((s.ent i).lastReply.getD 0), (s.ent i).cookBytes,
    [(s.ent i).upd.state.code, BitVec.ofNat 8 (s.queuePos i), BitVec.ofNat 8 (s.ent i).dir.length],
    (s.ent i).cookTimeBytes, le16 (natHalf (s.ent i).count), dirBytes (s.ent i).dir, (s.ent i).calBytes, zeros 4]

theorem ovenRecord_eq (s : State) (i : Slot) : s.ovenRecord i = (s.ovenParts i).flatten := by
  unfold State.ovenRecord State.ovenBytes State.ovenParts
  simp only [List.append_assoc, List.flatten_cons, List.flatten_nil, List.append_nil]
  refine congrArg₂ (· ++ ·) rfl ?_
  refine congrArg₂ (· ++ ·) ?_ (congrArg₂ (· ++ ·) ?_ (congrArg₂ (· ++ ·) ?_ (congrArg₂ (· ++ ·) rfl (congrArg₂ (· ++ ·) ?_
    (congrArg₂ (· ++ ·) rfl (congrArg₂ (· ++ ·) ?_ (congrArg₂ (· ++ ·) rfl (congrArg₂ (· ++ ·) rfl (congrArg₂ (· ++ ·) ?_ rfl)))))))))
  · unfold Entry.markBits
    cases (s.ent i).cook <;> cases (s.ent i).readings <;> rfl
  · unfold Entry.identityBytes
    cases (s.ent i).identity <;> rfl
  · unfold Entry.tempBytes
    cases (s.ent i).correctedTemps <;> rfl
  · unfold Entry.cookBytes
    cases (s.ent i).cook <;> rfl
  · unfold Entry.cookTimeBytes
    cases (s.ent i).cook <;> rfl
  · unfold Entry.calBytes
    cases (s.ent i).cal <;> rfl

theorem length_ovenRecord (s : State) (i : Slot) : (s.ovenRecord i).length = 64 := by
  rw [State.ovenRecord, List.length_append, ovenBytes_length]
  rfl

/-! ## Where the parts lie -/

section
variable (s : State) (i : Slot)

/-- One part, by its place among the parts. -/
theorem ovenRecord_part (j : Nat) {n k : Nat} (hn : ((s.ovenParts i).take j).flatten.length = n)
    (hk : k < ((s.ovenParts i).getD j []).length) :
    byteAt (s.ovenRecord i) (n + k) = byteAt ((s.ovenParts i).getD j []) k := by
  rw [ovenRecord_eq]
  exact byteAt_flatten _ j hn hk

variable {k : Nat}

theorem ovenRecord_fixed (h : k < 8) : byteAt (s.ovenRecord i) (4 + k) =
    byteAt [(s.ent i).state.code, (s.ent i).activity.code, bit (s.ent i).late ||| (BitVec.ofNat 8 (s.ent i).failures <<< 4),
      (s.ent i).causes.setWidth 8, BitVec.ofNat 8 (s.ent i).line.val, (s.ent i).drop, marks (s.ent i).markBits,
      (s.ent i).readings.elim 0 fun r => r.reported.code] k :=
  ovenRecord_part s i 1 (by simp [State.ovenParts]) (by simpa [State.ovenParts] using h)

theorem ovenRecord_identity (h : k < 8) : byteAt (s.ovenRecord i) (12 + k) = byteAt (s.ent i).identityBytes k :=
  ovenRecord_part s i 2 (by simp [State.ovenParts]) (by simpa [State.ovenParts] using h)

theorem ovenRecord_temps (h : k < 4) : byteAt (s.ovenRecord i) (20 + k) = byteAt (s.ent i).tempBytes k :=
  ovenRecord_part s i 3 (by simp [State.ovenParts]) (by simpa [State.ovenParts] using h)

theorem ovenRecord_reply (h : k < 4) : byteAt (s.ovenRecord i) (24 + k) =
    byteAt (le32 ((s.ent i).lastReply.getD 0)) k :=
  ovenRecord_part s i 4 (by simp [State.ovenParts]) (by simpa [State.ovenParts] using h)

theorem ovenRecord_cook (h : k < 5) : byteAt (s.ovenRecord i) (28 + k) = byteAt (s.ent i).cookBytes k :=
  ovenRecord_part s i 5 (by simp [State.ovenParts]) (by simpa [State.ovenParts] using h)

theorem ovenRecord_counts (h : k < 3) : byteAt (s.ovenRecord i) (33 + k) =
    byteAt [(s.ent i).upd.state.code, BitVec.ofNat 8 (s.queuePos i), BitVec.ofNat 8 (s.ent i).dir.length] k :=
  ovenRecord_part s i 6 (by simp [State.ovenParts]) (by simpa [State.ovenParts] using h)

theorem ovenRecord_cookTime (h : k < 6) : byteAt (s.ovenRecord i) (36 + k) =
    byteAt (s.ent i).cookTimeBytes k :=
  ovenRecord_part s i 7 (by simp [State.ovenParts]) (by simpa [State.ovenParts] using h)

theorem ovenRecord_minutes (h : k < 2) : byteAt (s.ovenRecord i) (42 + k) =
    byteAt (le16 (natHalf (s.ent i).count)) k :=
  ovenRecord_part s i 8 (by simp [State.ovenParts]) (by simpa [State.ovenParts] using h)

theorem ovenRecord_dir (h : k < 8) : byteAt (s.ovenRecord i) (44 + k) = byteAt (dirBytes (s.ent i).dir) k :=
  ovenRecord_part s i 9 (by simp [State.ovenParts]) (by simpa [State.ovenParts] using h)

theorem ovenRecord_cal (h : k < 8) : byteAt (s.ovenRecord i) (52 + k) = byteAt (s.ent i).calBytes k :=
  ovenRecord_part s i 10 (by simp [State.ovenParts]) (by simpa [State.ovenParts] using h)

theorem ovenRecord_rest (h : k < 4) : byteAt (s.ovenRecord i) (60 + k) = byteAt (zeros 4) k :=
  ovenRecord_part s i 11 (by simp [State.ovenParts]) (by simpa [State.ovenParts] using h)

end

end Sys2Proof.Machine
end

section
/-! PROOF. What the parts of the oven record hold (R1, R13, R117, R176, R193). -/

namespace Sys2Proof.Machine

/-! ## Fields from bytes -/

theorem halfAt_of_bytes {a b : List Byte} {n m : Nat} (h : ∀ k < 2, byteAt a (n + k) = byteAt b (m + k)) :
    halfAt a n = halfAt b m := by
  have h0 := h 0 (by decide)
  have h1 := h 1 (by decide)
  rw [halfAt, halfAt, h1, ← Nat.add_zero n, h0]
  rfl

theorem wordAt_of_bytes {a b : List Byte} {n m : Nat} (h : ∀ k < 4, byteAt a (n + k) = byteAt b (m + k)) :
    wordAt a n = wordAt b m := by
  have h0 := h 0 (by decide)
  have h1 := h 1 (by decide)
  have h2 := h 2 (by decide)
  have h3 := h 3 (by decide)
  rw [wordAt, wordAt, h1, h2, h3, ← Nat.add_zero n, h0]
  rfl

theorem byteAt_zeros (n k : Nat) : byteAt (zeros n) k = 0 := by
  unfold byteAt zeros
  rw [List.getD_eq_getElem?_getD, List.getElem?_replicate]
  split <;> rfl

theorem byteAt_past {b : List Byte} {k : Nat} (h : b.length ≤ k) : byteAt b k = 0 := List.getD_eq_default _ _ h

theorem halfAt_zeros (n k : Nat) : halfAt (zeros n) k = 0 := by
  rw [halfAt, byteAt_zeros, byteAt_zeros]
  rfl

theorem wordAt_zeros (n k : Nat) : wordAt (zeros n) k = 0 := by
  rw [wordAt, byteAt_zeros, byteAt_zeros, byteAt_zeros, byteAt_zeros]
  rfl

/-! ## The entry's marks and its corrected temperatures -/

theorem lateByte (late : Bool) {n : Nat} (h : n ≤ 3) :
    (bit late ||| (BitVec.ofNat 8 n <<< 4)).getLsbD 0 = late ∧
    ((bit late ||| (BitVec.ofNat 8 n <<< 4)).extractLsb' 4 2).toNat = n ∧
    (∀ k ∈ [1, 2, 3, 6, 7], (bit late ||| (BitVec.ofNat 8 n <<< 4)).getLsbD k = false) := by
  interval_cases n <;> cases late <;> decide

namespace Entry
variable {e : Entry}

theorem correctedTemps_some {r : Readings} {c : Cal} (hr : e.readings = some r) (hc : e.cal = some c) :
    e.correctedTemps = some (c.corrected r.cabinet.toInt, c.corrected r.core.toInt) := by
  unfold correctedTemps
  rw [hr, hc]

theorem correctedTemps_none (h : e.readings = none ∨ e.cal = none) : e.correctedTemps = none := by
  unfold correctedTemps
  split
  next hr hc => rcases h with h | h <;> simp_all
  next => rfl

theorem correctedTemps_isSome : e.correctedTemps.isSome = (e.readings.isSome && e.cal.isSome) := by
  cases hr : e.readings with
  | none => rw [correctedTemps_none (.inl hr)]; rfl
  | some r =>
    cases hc : e.cal with
    | none => rw [correctedTemps_none (.inr hc)]; rfl
    | some c => rw [correctedTemps_some hr hc]; rfl

theorem markBits_getLsbD (k : Nat) (h : k < 8) : (marks e.markBits).getLsbD k = e.markBits.getD k false := by
  rw [marks_getLsbD, decide_eq_true h, Bool.true_and]

theorem identityBytes_some {d : Identity} (h : e.identity = some d) :
    wordAt e.identityBytes 0 = d.serial ∧ byteAt e.identityBytes 4 = d.model ∧ halfAt e.identityBytes 6 = d.level := by
  have hbytes : e.identityBytes = le32 d.serial ++ [d.model, e.level.code] ++ le16 d.level := by rw [identityBytes, h]; rfl
  rw [hbytes]
  exact ⟨wordAt_le32 _, rfl, halfAt_le16 _⟩

theorem identityBytes_none (h : e.identity = none) :
    wordAt e.identityBytes 0 = 0 ∧ byteAt e.identityBytes 4 = 0 ∧ halfAt e.identityBytes 6 = 0 := by
  have hbytes : e.identityBytes = zeros 5 ++ [e.level.code] ++ zeros 2 := by rw [identityBytes, h]; rfl
  rw [hbytes]
  exact ⟨wordAt_zeros 5 0, rfl, halfAt_zeros 2 0⟩

theorem identityBytes_level : byteAt e.identityBytes 5 = e.level.code := by
  unfold identityBytes
  cases e.identity <;> rfl

theorem tempBytes_some {r : Readings} {c : Cal} (hr : e.readings = some r) (hc : e.cal = some c) :
    (halfAt e.tempBytes 0).toInt = max (-32768) (min 32767 (c.corrected r.cabinet.toInt)) ∧
    (halfAt e.tempBytes 2).toInt = max (-32768) (min 32767 (c.corrected r.core.toInt)) := by
  have hbytes : e.tempBytes = le16 (sat16 (c.corrected r.cabinet.toInt)) ++ le16 (sat16 (c.corrected r.core.toInt)) := by
    rw [tempBytes, correctedTemps_some hr hc]
    rfl
  rw [hbytes, ← sat16_toInt, ← sat16_toInt]
  exact ⟨congrArg BitVec.toInt (halfAt_le16 _), congrArg BitVec.toInt (halfAt_le16 _)⟩

theorem tempBytes_none (h : e.readings = none ∨ e.cal = none) : e.tempBytes = zeros 4 := by
  rw [tempBytes, correctedTemps_none h]
  rfl

theorem cookBytes_some {k : CookRec} (h : e.cook = some k) :
    e.cookBytes = [recipeByte k.recipe, k.version, k.origin.code, k.token, k.step] ∧
    wordAt e.cookTimeBytes 0 = k.start ∧ halfAt e.cookTimeBytes 4 = k.tag.getD 0 := by
  have htime : e.cookTimeBytes = le32 k.start ++ le16 (k.tag.getD 0) := by rw [cookTimeBytes, h]; rfl
  rw [htime, cookBytes, h]
  exact ⟨rfl, wordAt_le32 _, halfAt_le16 _⟩

theorem cookBytes_none (h : e.cook = none) :
    e.cookBytes = [0xFF, 0, 0, 0, 0] ∧ wordAt e.cookTimeBytes 0 = 0 ∧ halfAt e.cookTimeBytes 4 = 0 := by
  have htime : e.cookTimeBytes = zeros 6 := by rw [cookTimeBytes, h]; rfl
  rw [htime, cookBytes, h]
  exact ⟨rfl, wordAt_zeros .., halfAt_zeros ..⟩

theorem calBytes_some {c : Cal} (h : e.cal = some c) : halfAt e.calBytes 0 = c.refLow ∧ halfAt e.calBytes 2 = c.refHigh ∧
    halfAt e.calBytes 4 = c.rawLow ∧ halfAt e.calBytes 6 = c.rawHigh := by
  have hbytes : e.calBytes = c.bytes := by rw [calBytes, h]; rfl
  rw [hbytes]
  exact ⟨halfAt_le16 _, halfAt_le16 _, halfAt_le16 _, halfAt_le16 _⟩

theorem calBytes_none (h : e.cal = none) : e.calBytes = zeros 8 := by
  rw [calBytes, h]
  rfl

end Entry

/-! ## The place in the offer order (R117) -/

section
variable {s : State} {i : Slot}

theorem queuePos_first {k : Nat} {w : CleanWait} (hw : s.offerOrder[k]? = some w) (hi : w.slot = i)
    (hfirst : ∀ j, j < k → ∀ v, s.offerOrder[j]? = some v → v.slot ≠ i) : s.queuePos i = k + 1 := by
  obtain ⟨hk, hget⟩ := List.getElem?_eq_some_iff.mp hw
  have hfind : (s.offerOrder.map (fun w => w.slot)).findIdx? (fun j => j == i) = some k := by
    rw [List.findIdx?_eq_some_iff_getElem]
    refine ⟨by simpa using hk, by simp [hget, hi], fun j hj => ?_⟩
    have := hfirst j hj _ (List.getElem?_eq_getElem (hj.trans hk))
    simpa using this
  unfold State.queuePos
  rw [hfind]

theorem queuePos_absent (h : ∀ w ∈ s.hygiene.queue, w.slot ≠ i) : s.queuePos i = 0 := by
  have hfind : (s.offerOrder.map (fun w => w.slot)).findIdx? (fun j => j == i) = none := by
    rw [List.findIdx?_eq_none_iff]
    intro j hj
    obtain ⟨w, hw, rfl⟩ := List.mem_map.mp hj
    have hq : w ∈ s.hygiene.queue := by
      rcases List.mem_append.mp hw with hw | hw <;> exact (List.mem_filter.mp hw).1
    simpa using h w hq
  unfold State.queuePos
  rw [hfind]

end

/-! ## The record -/

section
variable (s : State) (i : Slot)

/-- The state, the marks and the place of the oven. -/
theorem ovenRecord_head :
    byteAt (s.ovenRecord i) 4 = (s.ent i).state.code ∧ byteAt (s.ovenRecord i) 5 = (s.ent i).activity.code ∧
    byteAt (s.ovenRecord i) 6 = bit (s.ent i).late ||| (BitVec.ofNat 8 (s.ent i).failures <<< 4) ∧
    byteAt (s.ovenRecord i) 7 = (s.ent i).causes.setWidth 8 ∧ byteAt (s.ovenRecord i) 8 = BitVec.ofNat 8 (s.ent i).line.val ∧
    byteAt (s.ovenRecord i) 9 = (s.ent i).drop ∧ byteAt (s.ovenRecord i) 10 = marks (s.ent i).markBits ∧
    byteAt (s.ovenRecord i) 11 = (s.ent i).readings.elim 0 fun r => r.reported.code :=
  ⟨ovenRecord_fixed s i (k := 0) (by decide), ovenRecord_fixed s i (k := 1) (by decide),
    ovenRecord_fixed s i (k := 2) (by decide), ovenRecord_fixed s i (k := 3) (by decide),
    ovenRecord_fixed s i (k := 4) (by decide), ovenRecord_fixed s i (k := 5) (by decide),
    ovenRecord_fixed s i (k := 6) (by decide), ovenRecord_fixed s i (k := 7) (by decide)⟩

theorem ovenRecord_serial : wordAt (s.ovenRecord i) 12 = wordAt (s.ent i).identityBytes 0 :=
  wordAt_of_bytes fun k hk => (ovenRecord_identity s i (by omega)).trans (by rw [Nat.zero_add])

theorem ovenRecord_level : halfAt (s.ovenRecord i) 18 = halfAt (s.ent i).identityBytes 6 :=
  halfAt_of_bytes fun k hk => by
    rw [show 18 + k = 12 + (6 + k) by omega]
    exact ovenRecord_identity s i (by omega)

theorem ovenRecord_cabinet : halfAt (s.ovenRecord i) 20 = halfAt (s.ent i).tempBytes 0 :=
  halfAt_of_bytes fun k hk => (ovenRecord_temps s i (by omega)).trans (by rw [Nat.zero_add])

theorem ovenRecord_core : halfAt (s.ovenRecord i) 22 = halfAt (s.ent i).tempBytes 2 :=
  halfAt_of_bytes fun k hk => by
    rw [show 22 + k = 20 + (2 + k) by omega]
    exact ovenRecord_temps s i (by omega)

theorem ovenRecord_lastReply : wordAt (s.ovenRecord i) 24 = (s.ent i).lastReply.getD 0 :=
  (wordAt_of_bytes (m := 0) fun k hk => (ovenRecord_reply s i (by omega)).trans (by rw [Nat.zero_add])).trans (wordAt_le32 _)

theorem ovenRecord_cookStart : wordAt (s.ovenRecord i) 36 = wordAt (s.ent i).cookTimeBytes 0 :=
  wordAt_of_bytes fun k hk => (ovenRecord_cookTime s i (by omega)).trans (by rw [Nat.zero_add])

theorem ovenRecord_cookTag : halfAt (s.ovenRecord i) 40 = halfAt (s.ent i).cookTimeBytes 4 :=
  halfAt_of_bytes fun k hk => by
    rw [show 40 + k = 36 + (4 + k) by omega]
    exact ovenRecord_cookTime s i (by omega)

theorem ovenRecord_count : halfAt (s.ovenRecord i) 42 = natHalf (s.ent i).count :=
  (halfAt_of_bytes (m := 0) fun k hk => (ovenRecord_minutes s i (by omega)).trans (by rw [Nat.zero_add])).trans (halfAt_le16 _)

theorem ovenRecord_calHalf (j : Nat) (h : j + 2 ≤ 8) : halfAt (s.ovenRecord i) (52 + j) = halfAt (s.ent i).calBytes j :=
  halfAt_of_bytes fun k hk => by
    rw [Nat.add_assoc]
    exact ovenRecord_cal s i (by omega)

theorem ovenRecord_uncalibrated (h : (s.ent i).cal = none) (k : Nat) (hk : 52 ≤ k) : byteAt (s.ovenRecord i) k = 0 := by
  obtain ⟨j, rfl⟩ := Nat.exists_eq_add_of_le hk
  by_cases h8 : j < 8
  · rw [ovenRecord_cal s i h8, Entry.calBytes_none h, byteAt_zeros]
  · by_cases h12 : j < 12
    · have hrest := ovenRecord_rest s i (k := j - 8) (by omega)
      rwa [show 60 + (j - 8) = 52 + j by omega, byteAt_zeros] at hrest
    · exact byteAt_past (by rw [length_ovenRecord]; omega)

theorem ovenRecord_tail : wordAt (s.ovenRecord i) 60 = 0 :=
  (wordAt_of_bytes (m := 0) fun k hk => (ovenRecord_rest s i (by omega)).trans (by rw [Nat.zero_add])).trans (wordAt_zeros 4 0)

theorem ovenRecord_recipes (k : Nat) (h : k < 8) : byteAt (s.ovenRecord i) (44 + k) =
    (((s.ent i).dir[k]?).map fun d => BitVec.ofNat 8 d.recipe.val).getD 0xFF := by
  rw [ovenRecord_dir s i h]
  exact getD_padded (fun d : DirEntry => recipeByte d.recipe) _ h

end

end Sys2Proof.Machine
end

section
/-! PROOF. The fields of the site record and the bits of the event summary word (11 §11.4, R177, R193), and the obligation on both
standing reports. -/

namespace Sys2Proof.Machine

/-! ## The parts of the site record -/

def ImageRec.headBytes (u : ImageRec) : List Byte := u.head.elim (zeros 3) fun h => le16 h.level ++ [h.cls]

@[simp] theorem ImageRec.length_headBytes (u : ImageRec) : u.headBytes.length = 3 := by
  unfold headBytes
  cases u.head <;> rfl

@[simp] theorem Capture.length_bytes (c : Capture) : c.bytes.length = 8 := rfl

/-- The ovens of the cleaning queue as shown, places without an oven 0xFF. -/
def State.queueBytes (s : State) : List Byte :=
  (s.offerOrder.map (fun w : CleanWait => slotByte w.slot) ++ List.replicate 16 0xFF).take 16

@[simp] theorem length_queueBytes (s : State) : s.queueBytes.length = 16 := by simp [State.queueBytes]

/-- The site record behind its change count. -/
def State.siteRecord (s : State) : List Byte := [0, 0, 0, 0] ++ s.siteBytes

def State.siteParts (s : State) : List (List Byte) :=
  [zeros 4, [s.mode.code, marks [s.path.profileOpen, s.service.dropped], s.faultCode, BitVec.ofNat 8 s.path.posted.length],
    le32 s.report.clock, le16 s.faultOffset, [s.update.image.state.code, s.update.image.reason.code],
    le32 (natWord s.update.image.expected), s.update.image.headBytes,
    [s.update.rollout.state.code, marks [s.update.rollout.downgrade, s.update.rollout.orphaned], s.update.rollout.cls],
    le16 s.update.rollout.level, le16 s.update.rollout.target, le16 s.update.rollout.done, le16 s.update.rollout.failed,
    le16 s.update.rollout.skipped,
    [BitVec.ofNat 8 s.cleaningCount, BitVec.ofNat 8 s.offerCount, BitVec.ofNat 8 s.offerOrder.length, 0], s.queueBytes,
    s.path.capFetch.bytes, s.path.capReport.bytes, s.path.capRecipe.bytes, s.path.capImage.bytes, s.path.capGuard.bytes, zeros 32]

theorem siteRecord_eq (s : State) : s.siteRecord = s.siteParts.flatten := by
  unfold State.siteRecord State.siteBytes State.siteBytesWith State.siteParts ImageRec.headBytes
  simp only [List.append_assoc, List.flatten_cons, List.flatten_nil, List.append_nil]
  cases s.update.image.head <;> rfl

theorem length_siteRecord (s : State) : s.siteRecord.length = 128 := by
  rw [siteRecord_eq]
  simp [State.siteParts]

/-! ## Where they lie and what they hold -/

section
variable (s : State)

/-- One part, by its place among the parts. -/
theorem siteRecord_part (j : Nat) {n k : Nat} (hn : (s.siteParts.take j).flatten.length = n)
    (hk : k < (s.siteParts.getD j []).length) : byteAt s.siteRecord (n + k) = byteAt (s.siteParts.getD j []) k := by
  rw [siteRecord_eq]
  exact byteAt_flatten _ j hn hk

/-- A part that is one half. -/
theorem siteRecord_half (j n : Nat) (h : Half) (hpart : s.siteParts.getD j [] = le16 h)
    (hn : (s.siteParts.take j).flatten.length = n) : halfAt s.siteRecord n = h :=
  (halfAt_of_bytes (m := 0) fun k hk => by
    rw [siteRecord_part s j hn (by rw [hpart]; exact hk), hpart, Nat.zero_add]).trans (halfAt_le16 h)

/-- A part that is one word. -/
theorem siteRecord_word (j n : Nat) (w : Word) (hpart : s.siteParts.getD j [] = le32 w)
    (hn : (s.siteParts.take j).flatten.length = n) : wordAt s.siteRecord n = w :=
  (wordAt_of_bytes (m := 0) fun k hk => by
    rw [siteRecord_part s j hn (by rw [hpart]; exact hk), hpart, Nat.zero_add]).trans (wordAt_le32 w)

theorem siteRecord_head {k : Nat} (h : k < 4) : byteAt s.siteRecord (4 + k) =
    byteAt [s.mode.code, marks [s.path.profileOpen, s.service.dropped], s.faultCode, BitVec.ofNat 8 s.path.posted.length] k :=
  siteRecord_part s 1 (by simp [State.siteParts]) (by simpa [State.siteParts] using h)

theorem siteRecord_clock : wordAt s.siteRecord 8 = s.report.clock :=
  siteRecord_word s 2 8 _ rfl (by simp [State.siteParts])

theorem siteRecord_faultOffset : halfAt s.siteRecord 12 = s.faultOffset :=
  siteRecord_half s 3 12 _ rfl (by simp [State.siteParts])

theorem siteRecord_image {k : Nat} (h : k < 2) : byteAt s.siteRecord (14 + k) =
    byteAt [s.update.image.state.code, s.update.image.reason.code] k :=
  siteRecord_part s 4 (by simp [State.siteParts]) (by simpa [State.siteParts] using h)

theorem siteRecord_expected : wordAt s.siteRecord 16 = natWord s.update.image.expected :=
  siteRecord_word s 5 16 _ rfl (by simp [State.siteParts])

theorem siteRecord_imageHead {k : Nat} (h : k < 3) :
    byteAt s.siteRecord (20 + k) = byteAt s.update.image.headBytes k :=
  siteRecord_part s 6 (by simp [State.siteParts]) (by simpa [State.siteParts] using h)

theorem siteRecord_rollout {k : Nat} (h : k < 3) : byteAt s.siteRecord (23 + k) =
    byteAt [s.update.rollout.state.code, marks [s.update.rollout.downgrade, s.update.rollout.orphaned], s.update.rollout.cls] k :=
  siteRecord_part s 7 (by simp [State.siteParts]) (by simpa [State.siteParts] using h)

theorem siteRecord_masks :
    halfAt s.siteRecord 26 = s.update.rollout.level ∧ halfAt s.siteRecord 28 = s.update.rollout.target ∧
    halfAt s.siteRecord 30 = s.update.rollout.done ∧ halfAt s.siteRecord 32 = s.update.rollout.failed ∧
    halfAt s.siteRecord 34 = s.update.rollout.skipped :=
  ⟨siteRecord_half s 8 26 _ rfl (by simp [State.siteParts]), siteRecord_half s 9 28 _ rfl (by simp [State.siteParts]),
    siteRecord_half s 10 30 _ rfl (by simp [State.siteParts]), siteRecord_half s 11 32 _ rfl (by simp [State.siteParts]),
    siteRecord_half s 12 34 _ rfl (by simp [State.siteParts])⟩

theorem siteRecord_counts {k : Nat} (h : k < 4) : byteAt s.siteRecord (36 + k) =
    byteAt [BitVec.ofNat 8 s.cleaningCount, BitVec.ofNat 8 s.offerCount, BitVec.ofNat 8 s.offerOrder.length, 0] k :=
  siteRecord_part s 13 (by simp [State.siteParts]) (by simpa [State.siteParts] using h)

theorem siteRecord_queue {k : Nat} (h : k < 16) : byteAt s.siteRecord (40 + k) =
    ((s.offerOrder[k]?).map fun w => BitVec.ofNat 8 w.slot.val).getD 0xFF :=
  (siteRecord_part s 14 (by simp [State.siteParts]) (by simpa [State.siteParts] using h)).trans
    (getD_padded (fun w : CleanWait => slotByte w.slot) _ h)

theorem siteRecord_rest {k : Nat} (h : 96 ≤ k) : byteAt s.siteRecord k = 0 := by
  by_cases hk : k < 128
  · obtain ⟨j, rfl⟩ := Nat.exists_eq_add_of_le h
    rw [siteRecord_part s 20 (n := 96) (by simp [State.siteParts]) (by simpa [State.siteParts] using by omega)]
    exact byteAt_zeros ..
  · exact byteAt_past (by rw [length_siteRecord]; omega)

/-- Where a capture record lies. -/
theorem siteRecord_capture (j n : Nat) (c : Capture) (hpart : s.siteParts.getD j [] = c.bytes)
    (hn : (s.siteParts.take j).flatten.length = n) :
    wordAt s.siteRecord n = c.addr ∧ (byteAt s.siteRecord (n + 4)).getLsbD 0 = c.latched ∧
      (byteAt s.siteRecord (n + 4)).getLsbD 1 = c.overrun ∧ (∀ j, 2 ≤ j → (byteAt s.siteRecord (n + 4)).getLsbD j = false) ∧
      byteAt s.siteRecord (n + 5) = 0 ∧ halfAt s.siteRecord (n + 6) = 0 := by
  have hbyte (k : Nat) (hk : k < 8) : byteAt s.siteRecord (n + k) = byteAt c.bytes k := by
    rw [siteRecord_part s j hn (by rw [hpart]; exact hk), hpart]
  have haddr : wordAt s.siteRecord n = c.addr :=
    (wordAt_of_bytes (m := 0) fun k hk => by
      rw [hbyte k (by omega)]
      interval_cases k <;> rfl).trans (wordAt_le32 c.addr)
  have hrest : halfAt s.siteRecord (n + 6) = 0 :=
    (halfAt_of_bytes fun k hk => by
      rw [Nat.add_assoc, hbyte (6 + k) (by omega)]
      interval_cases k <;> rfl).trans (halfAt_zeros 3 1)
  have hmarks (k : Nat) (h : k < 8) : (byteAt s.siteRecord (n + 4)).getLsbD k = [c.latched, c.overrun].getD k false := by
    rw [hbyte 4 (by decide), show byteAt c.bytes 4 = marks [c.latched, c.overrun] from rfl, marks_getLsbD, decide_eq_true h,
      Bool.true_and]
  refine ⟨haddr, hmarks 0 (by decide), hmarks 1 (by decide), fun k hk => ?_, hbyte 5 (by decide), hrest⟩
  by_cases h8 : k < 8
  · rw [hmarks k h8]
    exact List.getD_eq_default _ _ hk
  · exact BitVec.getLsbD_of_ge _ _ (Nat.le_of_not_lt h8)

end

/-! ## What the fields hold -/

section
variable (s : State)

theorem marks_pair (a b : Bool) : (marks [a, b]).getLsbD 0 = a ∧ (marks [a, b]).getLsbD 1 = b ∧
    (∀ k, 2 ≤ k → (marks [a, b]).getLsbD k = false) := by
  refine ⟨marks_getLsbD .., marks_getLsbD .., fun k hk => ?_⟩
  rw [marks_getLsbD, List.getD_eq_default _ _ hk, Bool.and_false]

theorem siteRecord_imageHead_some {h : ImageHead} (hh : s.update.image.head = some h) :
    halfAt s.siteRecord 20 = h.level ∧ byteAt s.siteRecord 22 = h.cls := by
  have hbytes : s.update.image.headBytes = le16 h.level ++ [h.cls] := by rw [ImageRec.headBytes, hh]; rfl
  have hpart {k : Nat} (hk : k < 3) := siteRecord_imageHead s hk
  rw [hbytes] at hpart
  refine ⟨(halfAt_of_bytes (m := 0) fun k hk => ?_).trans (halfAt_le16 h.level), hpart (k := 2) (by decide)⟩
  rw [hpart (by omega)]
  interval_cases k <;> rfl

theorem siteRecord_imageHead_none (hh : s.update.image.head = none) :
    halfAt s.siteRecord 20 = 0 ∧ byteAt s.siteRecord 22 = 0 := by
  have hbytes : s.update.image.headBytes = zeros 3 := by rw [ImageRec.headBytes, hh]; rfl
  have hpart {k : Nat} (hk : k < 3) := siteRecord_imageHead s hk
  rw [hbytes] at hpart
  refine ⟨(halfAt_of_bytes (m := 0) fun k hk => ?_).trans (halfAt_zeros 3 0), hpart (k := 2) (by decide)⟩
  rw [hpart (by omega), Nat.zero_add]

/-- A count of ovens fits its byte. -/
theorem toNat_countByte (p : Slot → Bool) : (BitVec.ofNat 8 (slots.countP p)).toNat = slots.countP p := by
  have hle : slots.countP p ≤ 16 := List.countP_le_length
  rw [BitVec.toNat_ofNat]
  exact Nat.mod_eq_of_lt (by omega)

theorem length_offerOrder : s.offerOrder.length = s.hygiene.queue.length := by
  unfold State.offerOrder
  rw [List.length_append]
  exact (List.length_eq_length_filter_add _).symm

end

/-- R179: the pending set lies in the low half of the summary word and the overrun set in the high half. -/
theorem summaryWord_getLsbD (pending overrun : BitVec 11) (k : Nat) (h : k < 32) : (summaryWord pending overrun).getLsbD k =
    ((decide (k < 11) && pending.getLsbD k) || (decide (16 ≤ k) && overrun.getLsbD (k - 16))) := by
  have hlow : (decide (k < 11) && pending.getLsbD k) = pending.getLsbD k := by
    by_cases h11 : k < 11
    · rw [decide_eq_true h11, Bool.true_and]
    · rw [BitVec.getLsbD_of_ge _ _ (Nat.le_of_not_lt h11), Bool.and_false]
  rw [hlow, summaryWord, BitVec.getLsbD_or, BitVec.getLsbD_setWidth, BitVec.getLsbD_shiftLeft, BitVec.getLsbD_setWidth]
  by_cases h16 : 16 ≤ k
  · simp [h, h16, Nat.not_lt.mpr h16, show k - 16 < 32 by omega]
  · simp [h, h16, Nat.lt_of_not_le h16]

end Sys2Proof.Machine

open Sys2Proof.Machine in
/-- Settles O59: the fields of the oven record, those of the site record, and the summary word. -/
theorem mirrorLaidOut : Obligations.MirrorLaidOut := by
  unfold Obligations.MirrorLaidOut
  refine ⟨fun i s hf => ?oven, fun s => ?site, summaryWord_getLsbD⟩
  case oven =>
    intro e b marked
    obtain ⟨hstate, hact, hlate, hcauses, hline, hdrop, hmarks, hreported⟩ := ovenRecord_head s i
    obtain ⟨hlate0, hlate4, hlate1⟩ := lateByte e.late hf
    rw [← hlate] at hlate0 hlate4 hlate1
    have hbit (k : Nat) (hk : k < 8) : marked.getLsbD k = e.markBits.getD k false :=
      (congrArg (BitVec.getLsbD · k) hmarks).trans (Entry.markBits_getLsbD k hk)
    have hcook (k : Nat) (hk : k < 5) := ovenRecord_cook s i hk
    refine ⟨length_ovenRecord s i, rfl, hstate, hact, hlate0, hlate4, hlate1, hcauses, ?line, hdrop, hbit 0 (by decide),
      hbit 1 (by decide), (hbit 2 (by decide)).trans Entry.correctedTemps_isSome, hbit 3 (by decide), hbit 4 (by decide),
      hbit 5 (by decide), ?tagged, hbit 7 (by decide), fun r hr => hreported.trans ?read, fun hr => hreported.trans ?unread,
      fun d hd => ?identity, fun hd => ?vacant, (ovenRecord_identity s i (k := 5) (by decide)).trans Entry.identityBytes_level,
      fun r c hr hc => ?temps, fun h => ?noTemps, ovenRecord_lastReply s i, fun k hk => ?cook, fun hk => ?noCook,
      ovenRecord_counts s i (k := 0) (by decide), ovenRecord_counts s i (k := 2) (by decide), ovenRecord_count s i,
      ovenRecord_recipes s i, fun c hc => ?cal, ovenRecord_uncalibrated s i, ovenRecord_tail s i, fun k w hw hi hfirst => ?place,
      fun h => ?unqueued⟩
    case line =>
      refine (congrArg BitVec.toNat hline).trans ?_
      rw [BitVec.toNat_ofNat]
      exact Nat.mod_eq_of_lt (e.line.isLt.trans (by decide))
    case tagged =>
      rw [hbit 6 (by decide)]
      show (e.cook.elim false fun k => k.tag.isSome) = true ↔ _
      cases hk : e.cook with
      | none => simp
      | some k => simp [Option.isSome_iff_exists]
    case read => rw [hr]; rfl
    case unread => rw [hr]; rfl
    case identity =>
      obtain ⟨hserial, hmodel, hlevel⟩ := Entry.identityBytes_some hd
      exact ⟨(ovenRecord_serial s i).trans hserial, (ovenRecord_identity s i (k := 4) (by decide)).trans hmodel,
        (ovenRecord_level s i).trans hlevel⟩
    case vacant =>
      obtain ⟨hserial, hmodel, hlevel⟩ := Entry.identityBytes_none hd
      exact ⟨(ovenRecord_serial s i).trans hserial, (ovenRecord_identity s i (k := 4) (by decide)).trans hmodel,
        (ovenRecord_level s i).trans hlevel⟩
    case temps =>
      obtain ⟨hcabinet, hcore⟩ := Entry.tempBytes_some hr hc
      exact ⟨(congrArg BitVec.toInt (ovenRecord_cabinet s i)).trans hcabinet,
        (congrArg BitVec.toInt (ovenRecord_core s i)).trans hcore⟩
    case noTemps =>
      have hcabinet := ovenRecord_cabinet s i
      have hcore := ovenRecord_core s i
      rw [Entry.tempBytes_none h, halfAt_zeros] at hcabinet hcore
      exact ⟨hcabinet, hcore⟩
    case cook =>
      obtain ⟨hbytes, hstart, htag⟩ := Entry.cookBytes_some hk
      rw [hbytes] at hcook
      refine ⟨(congrArg BitVec.toNat (hcook 0 (by decide))).trans ?_, hcook 1 (by decide), hcook 2 (by decide),
        hcook 3 (by decide), hcook 4 (by decide), (ovenRecord_cookStart s i).trans hstart, (ovenRecord_cookTag s i).trans htag⟩
      show (BitVec.ofNat 8 k.recipe.val).toNat = k.recipe.val
      rw [BitVec.toNat_ofNat]
      exact Nat.mod_eq_of_lt (k.recipe.isLt.trans (by decide))
    case noCook =>
      obtain ⟨hbytes, hstart, htag⟩ := Entry.cookBytes_none hk
      rw [hbytes] at hcook
      exact ⟨hcook 0 (by decide), hcook 1 (by decide), hcook 2 (by decide), hcook 3 (by decide), hcook 4 (by decide),
        (ovenRecord_cookStart s i).trans hstart, (ovenRecord_cookTag s i).trans htag⟩
    case cal =>
      obtain ⟨hrefLow, hrefHigh, hrawLow, hrawHigh⟩ := Entry.calBytes_some hc
      exact ⟨(ovenRecord_calHalf s i 0 (by decide)).trans hrefLow, (ovenRecord_calHalf s i 2 (by decide)).trans hrefHigh,
        (ovenRecord_calHalf s i 4 (by decide)).trans hrawLow, (ovenRecord_calHalf s i 6 (by decide)).trans hrawHigh⟩
    case place =>
      have hpos := ovenRecord_counts s i (k := 1) (by decide)
      rw [queuePos_first hw hi hfirst] at hpos
      exact hpos
    case unqueued =>
      have hpos := ovenRecord_counts s i (k := 1) (by decide)
      rw [queuePos_absent h] at hpos
      exact hpos
  case site =>
    intro b r image capture
    obtain ⟨hopen, hdropped, hrest⟩ := marks_pair s.path.profileOpen s.service.dropped
    obtain ⟨hdown, horphan, hrest'⟩ := marks_pair r.downgrade r.orphaned
    have hshown := siteRecord_head s (k := 1) (by decide)
    have hrolled := siteRecord_rollout s (k := 1) (by decide)
    obtain ⟨hlevel, htarget, hdone, hfailed, hskipped⟩ := siteRecord_masks s
    have hmode := siteRecord_head s (k := 0) (by decide)
    refine ⟨length_siteRecord s, rfl, rfl, fun h => hmode.trans ?running, fun h => hmode.trans ?passOnly,
      (congrArg (BitVec.getLsbD · 0) hshown).trans hopen, (congrArg (BitVec.getLsbD · 1) hshown).trans hdropped,
      fun k hk => (congrArg (BitVec.getLsbD · k) hshown).trans (hrest k hk),
      siteRecord_head s (k := 2) (by decide), siteRecord_head s (k := 3) (by decide), siteRecord_clock s, siteRecord_faultOffset s,
      siteRecord_image s (k := 0) (by decide), siteRecord_image s (k := 1) (by decide), siteRecord_expected s,
      fun h hh => siteRecord_imageHead_some s hh, siteRecord_imageHead_none s, siteRecord_rollout s (k := 0) (by decide),
      (congrArg (BitVec.getLsbD · 0) hrolled).trans hdown, (congrArg (BitVec.getLsbD · 1) hrolled).trans horphan,
      fun k hk => (congrArg (BitVec.getLsbD · k) hrolled).trans (hrest' k hk), siteRecord_rollout s (k := 2) (by decide),
      hlevel, htarget, hdone, hfailed, hskipped,
      (congrArg BitVec.toNat (siteRecord_counts s (k := 0) (by decide))).trans (toNat_countByte _),
      (congrArg BitVec.toNat (siteRecord_counts s (k := 1) (by decide))).trans (toNat_countByte _), ?queued,
      siteRecord_counts s (k := 3) (by decide), fun k hk => siteRecord_queue s hk,
      siteRecord_capture s 15 56 _ rfl (by simp [State.siteParts]), siteRecord_capture s 16 64 _ rfl (by simp [State.siteParts]),
      siteRecord_capture s 17 72 _ rfl (by simp [State.siteParts]), siteRecord_capture s 18 80 _ rfl (by simp [State.siteParts]),
      siteRecord_capture s 19 88 _ rfl (by simp [State.siteParts]), fun k hk => siteRecord_rest s hk⟩
    case running => rw [h]; rfl
    case passOnly => rw [h]; rfl
    case queued =>
      have hlen := siteRecord_counts s (k := 2) (by decide)
      rw [length_offerOrder] at hlen
      exact hlen
end

section
/-! PROOF. Notices and replies (R9, R31-R34, R194, 11 §11.5): which bytes are one, and what each carries. -/

namespace Sys2Proof.Machine

/-! ## Fields -/

theorem halfOf_iff (a b : Byte) (h : Half) : halfOf a b = h ↔ a = h.extractLsb' 0 8 ∧ b = h.extractLsb' 8 8 := by
  constructor
  · rintro rfl
    constructor
    · apply BitVec.eq_of_getLsbD_eq
      intro i hi
      simp only [halfOf, BitVec.getLsbD_extractLsb', BitVec.getLsbD_append]
      simp [hi]
    · apply BitVec.eq_of_getLsbD_eq
      intro i hi
      simp only [halfOf, BitVec.getLsbD_extractLsb', BitVec.getLsbD_append]
      simp [hi]
  · rintro ⟨rfl, rfl⟩
    exact halfOf_extract h

theorem wordOf_iff (a b c d : Byte) (w : Word) : wordOf a b c d = w ↔
    a = w.extractLsb' 0 8 ∧ b = w.extractLsb' 8 8 ∧ c = w.extractLsb' 16 8 ∧ d = w.extractLsb' 24 8 := by
  constructor
  · rintro rfl
    refine ⟨?_, ?_, ?_, ?_⟩
    all_goals
      apply BitVec.eq_of_getLsbD_eq
      intro i hi
      simp only [wordOf, BitVec.getLsbD_extractLsb', BitVec.getLsbD_append]
      interval_cases i <;> simp
  · rintro ⟨rfl, rfl, rfl, rfl⟩
    exact wordOf_extract w

theorem recipeOf_iff (b : Byte) (r : RecipeNo) : recipeOf b = some r ↔ b = recipeByte r := by
  constructor
  · intro h
    obtain ⟨_, hr⟩ := Option.dite_none_right_eq_some.mp h
    obtain rfl := Option.some.inj hr
    exact (BitVec.ofNat_toNat 8 b).symm
  · rintro rfl
    exact recipeOf_recipeByte r

theorem reportedOf_iff (b : Byte) (a : Activity) : reportedOf b = some a ↔
    (b = 0 ∧ a = .idle) ∨ (b = 2 ∧ a = .cooking) ∨ (b = 3 ∧ a = .cleaning) := by
  constructor
  · intro h
    unfold reportedOf at h
    split at h
    next hb => exact .inl ⟨BitVec.eq_of_toNat_eq hb, (Option.some.inj h).symm⟩
    next hb => exact .inr (.inl ⟨BitVec.eq_of_toNat_eq hb, (Option.some.inj h).symm⟩)
    next hb => exact .inr (.inr ⟨BitVec.eq_of_toNat_eq hb, (Option.some.inj h).symm⟩)
    next => exact nomatch h
  · rintro (⟨rfl, rfl⟩ | ⟨rfl, rfl⟩ | ⟨rfl, rfl⟩) <;> rfl

theorem severityOf_iff (b : Byte) (c : Severity) : severityOf b = some c ↔ b = c.code := by
  constructor
  · intro h
    unfold severityOf at h
    split at h
    case h_4 => exact nomatch h
    all_goals
      rename_i hb
      obtain rfl := Option.some.inj h
      exact BitVec.eq_of_toNat_eq hb
  · rintro rfl
    cases c <;> rfl

theorem nakOf_iff (b : Byte) (why : NakReason) : nakOf b = some why ↔ b = why.code := by
  constructor
  · intro h
    unfold nakOf at h
    split at h
    case h_5 => exact nomatch h
    all_goals
      rename_i hb
      obtain rfl := Option.some.inj h
      exact BitVec.eq_of_toNat_eq hb
  · rintro rfl
    cases why <;> rfl

theorem phaseOf_iff (b : Byte) (p : Phase) : phaseOf b = some p ↔ b = BitVec.ofNat 8 p.code := by
  constructor
  · intro h
    unfold phaseOf at h
    split at h
    case h_6 => exact nomatch h
    all_goals
      rename_i hb
      obtain rfl := Option.some.inj h
      exact BitVec.eq_of_toNat_eq hb
  · rintro rfl
    cases p <;> rfl

theorem cookOutcomeOf_iff (b : Byte) (o : CookOutcome) : cookOutcomeOf b = some o ↔ o ≠ .unknown ∧ b = o.code := by
  constructor
  · intro h
    unfold cookOutcomeOf at h
    split at h
    case h_4 => exact nomatch h
    all_goals
      rename_i hb
      obtain rfl := Option.some.inj h
      exact ⟨nofun, BitVec.eq_of_toNat_eq hb⟩
  · rintro ⟨ho, rfl⟩
    cases o
    case unknown => exact absurd rfl ho
    all_goals rfl

theorem cleanEndOf_iff (b : Byte) (o : CleanEnd) : cleanEndOf b = some o ↔
    (b = 1 ∧ o = .complete) ∨ (b = 2 ∧ o = .aborted) ∨ (b = 3 ∧ o = .fault) := by
  constructor
  · intro h
    unfold cleanEndOf at h
    split at h
    next hb => exact .inl ⟨BitVec.eq_of_toNat_eq hb, (Option.some.inj h).symm⟩
    next hb => exact .inr (.inl ⟨BitVec.eq_of_toNat_eq hb, (Option.some.inj h).symm⟩)
    next hb => exact .inr (.inr ⟨BitVec.eq_of_toNat_eq hb, (Option.some.inj h).symm⟩)
    next => exact nomatch h
  · rintro (⟨rfl, rfl⟩ | ⟨rfl, rfl⟩ | ⟨rfl, rfl⟩) <;> rfl

/-- The bytes of a list of halves. -/
def halvesBytes (l : List Half) : List Byte := l.flatMap fun c => [c.extractLsb' 0 8, c.extractLsb' 8 8]

theorem length_halvesBytes (l : List Half) : (halvesBytes l).length = 2 * l.length := by
  unfold halvesBytes
  induction l with
  | nil => rfl
  | cons c l ih => rw [List.flatMap_cons, List.length_append, ih, List.length_cons, List.length_cons, List.length_cons,
      List.length_nil]; omega

theorem halvesOf_halvesBytes (l : List Half) : halvesOf (halvesBytes l) = l := by
  induction l with
  | nil => rfl
  | cons c l ih =>
    have hcons : halvesOf (halvesBytes (c :: l)) =
        halfOf (c.extractLsb' 0 8) (c.extractLsb' 8 8) :: halvesOf (halvesBytes l) := rfl
    rw [hcons, ih, halfOf_extract]

/-- An even number of bytes is the bytes of its halves. -/
theorem halvesBytes_halvesOf : ∀ (n : Nat) (b : List Byte), b.length = 2 * n →
    halvesBytes (halvesOf b) = b ∧ (halvesOf b).length = n
  | 0, b, h => by
    obtain rfl := List.length_eq_zero_iff.mp h
    exact ⟨rfl, rfl⟩
  | n + 1, [], h => absurd h (by simp)
  | n + 1, [_], h => absurd h (by simp; omega)
  | n + 1, b0 :: b1 :: t, h => by
    obtain ⟨hbytes, hlen⟩ := halvesBytes_halvesOf n t (by simp only [List.length_cons] at h; omega)
    obtain ⟨h0, h1⟩ := (halfOf_iff b0 b1 _).mp rfl
    have hcons : halvesBytes (halvesOf (b0 :: b1 :: t)) =
        (halfOf b0 b1).extractLsb' 0 8 :: (halfOf b0 b1).extractLsb' 8 8 :: halvesBytes (halvesOf t) := rfl
    rw [hcons, ← h0, ← h1, hbytes]
    exact ⟨rfl, congrArg (· + 1) hlen⟩

/-! ## Notices (R34) -/

theorem stepOf_iff (f : List Byte) (x : Notice) : stepOf f = some x ↔
    ∃ token r v, ∃ k : Byte, k.toNat ≤ 29 ∧ x = .step token r v k ∧ f = [token, recipeByte r, v, k] := by
  constructor
  · intro h
    unfold stepOf at h
    split at h
    next t r v k =>
      split at h
      next hk =>
        obtain ⟨n, hn, rfl⟩ := Option.map_eq_some_iff.mp h
        exact ⟨t, n, v, k, hk, rfl, by rw [(recipeOf_iff r n).mp hn]⟩
      next => exact nomatch h
    next => exact nomatch h
  · rintro ⟨t, r, v, k, hk, rfl, rfl⟩
    unfold stepOf
    dsimp only
    rw [if_pos hk, recipeOf_recipeByte]
    rfl

theorem cookEndOf_iff (f : List Byte) (x : Notice) : cookEndOf f = some x ↔
    ∃ token r v o k, o ≠ .unknown ∧ x = .cookEnd token r v o k ∧ f = [token, recipeByte r, v, o.code, k] := by
  constructor
  · intro h
    unfold cookEndOf at h
    split at h
    next t r v o k =>
      split at h
      next n c hn hc =>
        obtain ⟨hc', hcode⟩ := (cookOutcomeOf_iff o c).mp hc
        exact ⟨t, n, v, c, k, hc', (Option.some.inj h).symm, by rw [(recipeOf_iff r n).mp hn, hcode]⟩
      next => exact nomatch h
    next => exact nomatch h
  · rintro ⟨t, r, v, o, k, ho, rfl, rfl⟩
    unfold cookEndOf
    dsimp only
    rw [recipeOf_recipeByte, (cookOutcomeOf_iff o.code o).mpr ⟨ho, rfl⟩]

theorem cleanPhaseOf_iff (f : List Byte) (x : Notice) : cleanPhaseOf f = some x ↔
    ∃ ph m q, x = .cleanPhase ph m q ∧ f = [BitVec.ofNat 8 ph.code, m.extractLsb' 0 8, m.extractLsb' 8 8, q.extractLsb' 0 8,
      q.extractLsb' 8 8] := by
  constructor
  · intro h
    unfold cleanPhaseOf at h
    split at h
    next p m0 m1 q0 q1 =>
      obtain ⟨ph, hph, rfl⟩ := Option.map_eq_some_iff.mp h
      obtain ⟨hm0, hm1⟩ := (halfOf_iff m0 m1 _).mp rfl
      obtain ⟨hq0, hq1⟩ := (halfOf_iff q0 q1 _).mp rfl
      exact ⟨ph, _, _, rfl, by rw [← hm0, ← hm1, ← hq0, ← hq1, (phaseOf_iff p ph).mp hph]⟩
    next => exact nomatch h
  · rintro ⟨ph, m, q, rfl, rfl⟩
    unfold cleanPhaseOf
    dsimp only
    rw [(phaseOf_iff _ ph).mpr rfl, halfOf_extract, halfOf_extract]
    rfl

theorem faultOf_iff (f : List Byte) (x : Notice) : faultOf f = some x ↔
    ∃ cls codes, 1 ≤ codes.length ∧ codes.length ≤ 4 ∧ x = .fault cls codes ∧
      f = [cls.code, BitVec.ofNat 8 codes.length] ++ halvesBytes codes := by
  constructor
  · intro h
    unfold faultOf at h
    split at h
    next c n rest =>
      split at h
      next hn =>
        obtain ⟨h1, h4, hlen⟩ := hn
        obtain ⟨cls, hcls, rfl⟩ := Option.map_eq_some_iff.mp h
        obtain ⟨hbytes, hcount⟩ := halvesBytes_halvesOf n.toNat rest hlen
        refine ⟨cls, halvesOf rest, by omega, by omega, rfl, ?_⟩
        rw [hbytes, hcount, BitVec.ofNat_toNat, BitVec.setWidth_eq, (severityOf_iff c cls).mp hcls]
        rfl
      next => exact nomatch h
    next => exact nomatch h
  · rintro ⟨cls, codes, h1, h4, rfl, rfl⟩
    have hn : (BitVec.ofNat 8 codes.length).toNat = codes.length := by
      rw [BitVec.toNat_ofNat]
      exact Nat.mod_eq_of_lt (by omega)
    have hlen := length_halvesBytes codes
    unfold faultOf
    simp only [List.cons_append, List.nil_append]
    rw [if_pos ⟨by omega, by omega, by omega⟩, (severityOf_iff _ cls).mpr rfl, halvesOf_halvesBytes]
    rfl

/-- R34, R194: the bytes of each notice. -/
theorem noticeOf_iff (b : List Byte) (x : Notice) : noticeOf b = some x ↔
    (∃ r, x = .startRequest r ∧ b = [1, recipeByte r]) ∨
    (∃ program : Byte, 1 ≤ program.toNat ∧ program.toNat ≤ 4 ∧ x = .cleanRequest program ∧ b = [2, program]) ∨
    (∃ token r v, ∃ step : Byte, step.toNat ≤ 29 ∧ x = .step token r v step ∧ b = [3, token, recipeByte r, v, step]) ∨
    (∃ token r v o steps, o ≠ .unknown ∧ x = .cookEnd token r v o steps ∧ b = [4, token, recipeByte r, v, o.code, steps]) ∨
    (∃ ph m q, x = .cleanPhase ph m q ∧ b = [5, BitVec.ofNat 8 ph.code, m.extractLsb' 0 8, m.extractLsb' 8 8,
      q.extractLsb' 0 8, q.extractLsb' 8 8]) ∨
    (x = .cleanEnd .complete ∧ b = [6, 1]) ∨ (x = .cleanEnd .aborted ∧ b = [6, 2]) ∨ (x = .cleanEnd .fault ∧ b = [6, 3]) ∨
    (∃ cls codes, 1 ≤ codes.length ∧ codes.length ≤ 4 ∧ x = .fault cls codes ∧
      b = [7, cls.code, BitVec.ofNat 8 codes.length] ++ halvesBytes codes) ∨
    (x = .calBusy ∧ b = [8]) ∨
    (∃ low high, x = .probeResult low high ∧ b = [9, low.extractLsb' 0 8, low.extractLsb' 8 8, high.extractLsb' 0 8,
      high.extractLsb' 8 8]) := by
  constructor
  · intro h
    cases b with
    | nil => exact nomatch h
    | cons kind f =>
      unfold noticeOf at h
      dsimp only at h
      split at h
      next hkind =>
        obtain rfl : kind = 1 := BitVec.eq_of_toNat_eq hkind
        split at h
        next r =>
          obtain ⟨n, hn, rfl⟩ := Option.map_eq_some_iff.mp h
          exact .inl ⟨n, rfl, by rw [(recipeOf_iff r n).mp hn]⟩
        next => exact nomatch h
      next hkind =>
        obtain rfl : kind = 2 := BitVec.eq_of_toNat_eq hkind
        split at h
        next p =>
          split at h
          next hp => exact .inr (.inl ⟨p, hp.1, hp.2, (Option.some.inj h).symm, rfl⟩)
          next => exact nomatch h
        next => exact nomatch h
      next hkind =>
        obtain rfl : kind = 3 := BitVec.eq_of_toNat_eq hkind
        obtain ⟨t, r, v, k, hk, hx, rfl⟩ := (stepOf_iff f x).mp h
        exact .inr (.inr (.inl ⟨t, r, v, k, hk, hx, rfl⟩))
      next hkind =>
        obtain rfl : kind = 4 := BitVec.eq_of_toNat_eq hkind
        obtain ⟨t, r, v, o, k, ho, hx, rfl⟩ := (cookEndOf_iff f x).mp h
        exact .inr (.inr (.inr (.inl ⟨t, r, v, o, k, ho, hx, rfl⟩)))
      next hkind =>
        obtain rfl : kind = 5 := BitVec.eq_of_toNat_eq hkind
        obtain ⟨ph, m, q, hx, rfl⟩ := (cleanPhaseOf_iff f x).mp h
        exact .inr (.inr (.inr (.inr (.inl ⟨ph, m, q, hx, rfl⟩))))
      next hkind =>
        obtain rfl : kind = 6 := BitVec.eq_of_toNat_eq hkind
        split at h
        next o =>
          obtain ⟨c, hc, rfl⟩ := Option.map_eq_some_iff.mp h
          obtain ⟨rfl, rfl⟩ | ⟨rfl, rfl⟩ | ⟨rfl, rfl⟩ := (cleanEndOf_iff o c).mp hc
          · exact .inr (.inr (.inr (.inr (.inr (.inl ⟨rfl, rfl⟩)))))
          · exact .inr (.inr (.inr (.inr (.inr (.inr (.inl ⟨rfl, rfl⟩))))))
          · exact .inr (.inr (.inr (.inr (.inr (.inr (.inr (.inl ⟨rfl, rfl⟩)))))))
        next => exact nomatch h
      next hkind =>
        obtain rfl : kind = 7 := BitVec.eq_of_toNat_eq hkind
        obtain ⟨cls, codes, h1, h4, hx, rfl⟩ := (faultOf_iff f x).mp h
        exact .inr (.inr (.inr (.inr (.inr (.inr (.inr (.inr (.inl ⟨cls, codes, h1, h4, hx, rfl⟩))))))))
      next hkind =>
        obtain rfl : kind = 8 := BitVec.eq_of_toNat_eq hkind
        split at h
        next hf =>
          obtain rfl := List.isEmpty_iff.mp hf
          exact .inr (.inr (.inr (.inr (.inr (.inr (.inr (.inr (.inr (.inl ⟨(Option.some.inj h).symm, rfl⟩)))))))))
        next => exact nomatch h
      next hkind =>
        obtain rfl : kind = 9 := BitVec.eq_of_toNat_eq hkind
        split at h
        next a0 a1 b0 b1 =>
          obtain ⟨ha0, ha1⟩ := (halfOf_iff a0 a1 _).mp rfl
          obtain ⟨hb0, hb1⟩ := (halfOf_iff b0 b1 _).mp rfl
          refine .inr (.inr (.inr (.inr (.inr (.inr (.inr (.inr (.inr (.inr ⟨_, _, (Option.some.inj h).symm, ?_⟩)))))))))
          rw [← ha0, ← ha1, ← hb0, ← hb1]
        next => exact nomatch h
      next => exact nomatch h
  · rintro (⟨r, rfl, rfl⟩ | ⟨p, h1, h4, rfl, rfl⟩ | ⟨t, r, v, k, hk, rfl, rfl⟩ | ⟨t, r, v, o, k, ho, rfl, rfl⟩ |
      ⟨ph, m, q, rfl, rfl⟩ | ⟨rfl, rfl⟩ | ⟨rfl, rfl⟩ | ⟨rfl, rfl⟩ | ⟨cls, codes, h1, h4, rfl, rfl⟩ | ⟨rfl, rfl⟩ |
      ⟨low, high, rfl, rfl⟩)
    · exact congrArg (Option.map Notice.startRequest) (recipeOf_recipeByte r)
    · exact if_pos ⟨h1, h4⟩
    · exact (stepOf_iff _ _).mpr ⟨t, r, v, k, hk, rfl, rfl⟩
    · exact (cookEndOf_iff _ _).mpr ⟨t, r, v, o, k, ho, rfl, rfl⟩
    · exact (cleanPhaseOf_iff _ _).mpr ⟨ph, m, q, rfl, rfl⟩
    · rfl
    · rfl
    · rfl
    · exact (faultOf_iff _ _).mpr ⟨cls, codes, h1, h4, rfl, rfl⟩
    · rfl
    · exact congrArg₂ (fun a b => some (Notice.probeResult a b)) (halfOf_extract low) (halfOf_extract high)

/-! ## STATUS and IDENT (R9, R33) -/

theorem statusOf_iff (p : List Byte) (r : Reply) : statusOf p = some r ↔
    ∃ st : StatusReply, r = .status st ∧
      ∃ a f rest, p = [a, st.cabinet.extractLsb' 0 8, st.cabinet.extractLsb' 8 8, st.core.extractLsb' 0 8,
          st.core.extractLsb' 8 8, f] ++ rest ∧
        ((a = 0 ∧ st.activity = .idle) ∨ (a = 2 ∧ st.activity = .cooking) ∨ (a = 3 ∧ st.activity = .cleaning)) ∧
        ((st.notice = none ∧ rest = [] ∧ (f = 0 ∨ f = 1)) ∨
          (∃ n, noticeOf rest = some n ∧
            ((f = 2 ∧ st.notice = some (false, n)) ∨ (f = 3 ∧ st.notice = some (true, n))))) := by
  constructor
  · intro h
    unfold statusOf at h
    split at h
    next a c0 c1 k0 k1 f rest =>
      obtain ⟨hc0, hc1⟩ := (halfOf_iff c0 c1 _).mp rfl
      obtain ⟨hk0, hk1⟩ := (halfOf_iff k0 k1 _).mp rfl
      split at h
      next => exact nomatch h
      next act hact =>
        have ha := (reportedOf_iff a act).mp hact
        split at h
        next hf =>
          split at h
          next hrest =>
            obtain rfl := Option.some.inj h
            obtain rfl := List.isEmpty_iff.mp hrest
            exact ⟨_, rfl, a, f, [], by rw [← hc0, ← hc1, ← hk0, ← hk1]; rfl, ha,
              .inl ⟨rfl, rfl, hf.imp BitVec.eq_of_toNat_eq BitVec.eq_of_toNat_eq⟩⟩
          next => exact nomatch h
        next =>
          split at h
          next hf =>
            obtain ⟨n, hn, rfl⟩ := Option.map_eq_some_iff.mp h
            refine ⟨_, rfl, a, f, rest, by rw [← hc0, ← hc1, ← hk0, ← hk1]; rfl, ha, .inr ⟨n, hn, ?_⟩⟩
            rcases hf with hf | hf
            · obtain rfl : f = 2 := BitVec.eq_of_toNat_eq hf
              exact .inl ⟨rfl, rfl⟩
            · obtain rfl : f = 3 := BitVec.eq_of_toNat_eq hf
              exact .inr ⟨rfl, rfl⟩
          next => exact nomatch h
    next => exact nomatch h
  · rintro ⟨⟨act, cab, core, notice⟩, rfl, a, f, rest, rfl, ha, hn⟩
    have hact : reportedOf a = some act := (reportedOf_iff a act).mpr ha
    unfold statusOf
    simp only [List.cons_append, List.nil_append, hact, halfOf_extract]
    rcases hn with ⟨hnone, rfl, hf⟩ | ⟨n, hn, ⟨rfl, hs⟩ | ⟨rfl, hs⟩⟩
    · have hbits : f.toNat = 0 ∨ f.toNat = 1 := hf.imp (congrArg BitVec.toNat) (congrArg BitVec.toNat)
      rw [if_pos hbits, show notice = none from hnone]
      rfl
    · rw [if_neg (by decide), if_pos (by decide), hn, show notice = some (false, n) from hs]
      rfl
    · rw [if_neg (by decide), if_pos (by decide), hn, show notice = some (true, n) from hs]
      rfl

/-- The four bytes of a word. -/
def wordBytes (w : Word) : List Byte := [w.extractLsb' 0 8, w.extractLsb' 8 8, w.extractLsb' 16 8, w.extractLsb' 24 8]

/-- The bytes of an IDENT but for those of a cook. -/
def IdentReply.head (d : IdentReply) (a : Byte) : List Byte :=
  wordBytes d.serial ++ [d.model, d.level.extractLsb' 0 8, d.level.extractLsb' 8 8, a]

/-- The bytes of an IDENT, read back. -/
theorem identBytes_split : ∀ b : List Byte, 8 ≤ b.length → b = wordBytes (wordAt b 0) ++
    [byteAt b 4, (halfAt b 5).extractLsb' 0 8, (halfAt b 5).extractLsb' 8 8, byteAt b 7] ++ b.drop 8
  | b0 :: b1 :: b2 :: b3 :: b4 :: b5 :: b6 :: b7 :: rest, _ => by
    obtain ⟨h0, h1, h2, h3⟩ := (wordOf_iff b0 b1 b2 b3 _).mp rfl
    obtain ⟨h5, h6⟩ := (halfOf_iff b5 b6 _).mp rfl
    show _ = [(wordOf b0 b1 b2 b3).extractLsb' 0 8, (wordOf b0 b1 b2 b3).extractLsb' 8 8, (wordOf b0 b1 b2 b3).extractLsb' 16 8,
      (wordOf b0 b1 b2 b3).extractLsb' 24 8, b4, (halfOf b5 b6).extractLsb' 0 8, (halfOf b5 b6).extractLsb' 8 8, b7] ++ rest
    rw [← h0, ← h1, ← h2, ← h3, ← h5, ← h6]
    rfl

theorem drop8_of_length : ∀ b : List Byte, b.length = 11 → b.drop 8 = [byteAt b 8, byteAt b 9, byteAt b 10]
  | [_, _, _, _, _, _, _, _, _, _, _], _ => rfl

/-- An IDENT whose identity is whole: the rest goes by its activity. -/
theorem identOf_whole {b : List Byte} {d : IdentReply} (hlen : 8 ≤ b.length) (hserial : wordAt b 0 = d.serial)
    (hmodel : byteAt b 4 = d.model) (hlevel : halfAt b 5 = d.level) (hs : d.serial ≠ 0) (hm : d.model ≠ 0) (hl : d.level ≠ 0) :
    (reportedOf (byteAt b 7) = some .cooking → b.length = 11 → recipeOf (byteAt b 9) = some d.recipe →
      identOf b = some (.ident ⟨d.serial, d.model, d.level, .cooking, byteAt b 8, d.recipe, byteAt b 10⟩)) ∧
    (∀ act, reportedOf (byteAt b 7) = some act → act ≠ .cooking → b.length = 8 →
      identOf b = some (.ident ⟨d.serial, d.model, d.level, act, 0, 0, 0⟩)) := by
  have hwhole : ¬(b.length < 8 ∨ wordAt b 0 = 0 ∨ byteAt b 4 = 0 ∨ halfAt b 5 = 0) := by
    rw [hserial, hmodel, hlevel]
    rintro (h | h | h | h)
    · omega
    · exact hs h
    · exact hm h
    · exact hl h
  unfold identOf
  dsimp only
  rw [if_neg hwhole, hserial, hmodel, hlevel]
  refine ⟨fun hact h11 hr => ?_, fun act hact hne h8 => ?_⟩
  · rw [hact, hr]
    exact if_pos h11
  · rw [hact]
    cases act
    case cooking => exact absurd rfl hne
    all_goals exact if_pos h8

theorem identOf_iff (p : List Byte) (r : Reply) : identOf p = some r ↔
    ∃ d : IdentReply, r = .ident d ∧ d.serial ≠ 0 ∧ d.model ≠ 0 ∧ d.level ≠ 0 ∧
      ((d.activity = .cooking ∧ p = d.head 2 ++ [d.token, recipeByte d.recipe, d.version]) ∨
        (d.token = 0 ∧ d.recipe = 0 ∧ d.version = 0 ∧
          ((d.activity = .idle ∧ p = d.head 0) ∨ (d.activity = .cleaning ∧ p = d.head 3)))) := by
  constructor
  · intro h
    unfold identOf at h
    dsimp only at h
    split at h
    next => exact nomatch h
    next hwhole =>
      push Not at hwhole
      obtain ⟨hlen, hs, hm, hl⟩ := hwhole
      have hsplit := identBytes_split p hlen
      split at h
      next => exact nomatch h
      next hact =>
        split at h
        next h11 =>
          obtain ⟨n, hn, rfl⟩ := Option.map_eq_some_iff.mp h
          have h7 : byteAt p 7 = 2 := by simpa using (reportedOf_iff _ _).mp hact
          rw [h7, drop8_of_length p h11, (recipeOf_iff _ n).mp hn] at hsplit
          exact ⟨_, rfl, hs, hm, hl, .inl ⟨rfl, hsplit⟩⟩
        next => exact nomatch h
      next act hne hact =>
        split at h
        next h8 =>
          obtain rfl := Option.some.inj h
          rw [List.drop_eq_nil_of_le h8.le, List.append_nil] at hsplit
          refine ⟨_, rfl, hs, hm, hl, .inr ⟨rfl, rfl, rfl, ?_⟩⟩
          rcases (reportedOf_iff _ _).mp hact with ⟨h7, rfl⟩ | ⟨_, rfl⟩ | ⟨h7, rfl⟩
          · exact .inl ⟨rfl, h7 ▸ hsplit⟩
          · exact absurd rfl hne
          · exact .inr ⟨rfl, h7 ▸ hsplit⟩
        next => exact nomatch h
  · rintro ⟨d, rfl, hs, hm, hl, hrest⟩
    have hwhole (a : Byte) (rest : List Byte) := identOf_whole (b := d.head a ++ rest) (d := d)
      (by rw [List.length_append]; exact Nat.le_add_right 8 _) (wordOf_extract d.serial) rfl (halfOf_extract d.level) hs hm hl
    obtain ⟨serial, model, level, act, token, recipe, version⟩ := d
    rcases hrest with ⟨hact, rfl⟩ | ⟨ht, hr, hv, ⟨hact, rfl⟩ | ⟨hact, rfl⟩⟩
    · obtain rfl : act = .cooking := hact
      exact (hwhole 2 [token, recipeByte recipe, version]).1 rfl rfl (recipeOf_recipeByte recipe)
    · obtain ⟨rfl, rfl, rfl, rfl⟩ : act = .idle ∧ token = 0 ∧ recipe = 0 ∧ version = 0 := ⟨hact, ht, hr, hv⟩
      exact (hwhole 0 []).2 .idle rfl nofun rfl
    · obtain ⟨rfl, rfl, rfl, rfl⟩ : act = .cleaning ∧ token = 0 ∧ recipe = 0 ∧ version = 0 := ⟨hact, ht, hr, hv⟩
      exact (hwhole 3 []).2 .cleaning rfl nofun rfl

/-! ## Replies (R31, R32) -/

theorem wordBytes_of_length : ∀ b : List Byte, b.length = 4 → b = wordBytes (wordAt b 0)
  | [b0, b1, b2, b3], _ => by
    obtain ⟨h0, h1, h2, h3⟩ := (wordOf_iff b0 b1 b2 b3 _).mp rfl
    show [b0, b1, b2, b3] = wordBytes (wordOf b0 b1 b2 b3)
    unfold wordBytes
    rw [← h0, ← h1, ← h2, ← h3]

theorem parseReply_iff (kind : Byte) (p : List Byte) (r : Reply) : parseReply kind p = some r ↔
    (kind = 0x81 ∧ p = [] ∧ r = .ack) ∨ (∃ why : NakReason, kind = 0x82 ∧ p = [why.code] ∧ r = .nak why) ∨
    (∃ n : Word, kind = 0x83 ∧ p = wordBytes n ∧ r = .pair n) ∨ (kind = 0x84 ∧ identOf p = some r) ∨
    (kind = 0x85 ∧ statusOf p = some r) := by
  constructor
  · intro h
    unfold parseReply at h
    split at h
    next hk =>
      split at h
      next hp => exact .inl ⟨hk, List.isEmpty_iff.mp hp, (Option.some.inj h).symm⟩
      next => exact nomatch h
    next =>
      split at h
      next hk =>
        split at h
        next b =>
          obtain ⟨why, hwhy, rfl⟩ := Option.map_eq_some_iff.mp h
          exact .inr (.inl ⟨why, hk, by rw [(nakOf_iff b why).mp hwhy], rfl⟩)
        next => exact nomatch h
      next =>
        split at h
        next hk =>
          split at h
          next hp => exact .inr (.inr (.inl ⟨wordAt p 0, hk, wordBytes_of_length p hp, (Option.some.inj h).symm⟩))
          next => exact nomatch h
        next =>
          split at h
          next hk => exact .inr (.inr (.inr (.inl ⟨hk, h⟩)))
          next =>
            split at h
            next hk => exact .inr (.inr (.inr (.inr ⟨hk, h⟩)))
            next => exact nomatch h
  · rintro (⟨rfl, rfl, rfl⟩ | ⟨why, rfl, rfl, rfl⟩ | ⟨n, rfl, rfl, rfl⟩ | ⟨rfl, h⟩ | ⟨rfl, h⟩)
    · rfl
    · exact congrArg (Option.map Reply.nak) ((nakOf_iff _ why).mpr rfl)
    · exact congrArg (fun w => some (Reply.pair w)) (wordOf_extract n)
    · exact h
    · exact h

theorem replyTo_iff (t : Telegram) (kind : Byte) (p : List Byte) (r : Reply) :
    replyTo t kind p = some r ↔ parseReply kind p = some r ∧ allowsReply t r = true := by
  unfold replyTo
  cases hp : parseReply kind p with
  | none => simp
  | some x =>
    by_cases ha : allowsReply t x = true
    · simp [ha]
      rintro rfl
      exact ha
    · simp [ha]
      rintro rfl
      simpa using ha

theorem allowsReply_ack (t : Telegram) : allowsReply t .ack = true ↔ t.code ∉ [(0x01 : Byte), 0x02, 0x05] := by
  rw [show allowsReply t .ack = t.takesAck from rfl, Telegram.takesAck_eq, decide_eq_true_iff]

theorem allowsReply_nak (t : Telegram) (why : NakReason) :
    allowsReply t (.nak why) = true ↔ t.code ∉ [(0x01 : Byte), 0x02, 0x04, 0x05, 0x09, 0x0C] := by
  rw [show allowsReply t (.nak why) = t.takesNak from rfl, Telegram.takesNak_eq, decide_eq_true_iff]

theorem allowsReply_pair (t : Telegram) (n : Word) : allowsReply t (.pair n) = true ↔
    ∃ (serial : Word) (drop : Byte), t = .assign serial drop ∧ n ≠ 0 ∧ (serial = 0 ∨ n = serial) := by
  cases t <;> simp [allowsReply]

theorem allowsReply_ident (t : Telegram) (d : IdentReply) : allowsReply t (.ident d) = true ↔ t = .identReq := by
  cases t <;> simp [allowsReply]

theorem allowsReply_status (t : Telegram) (st : StatusReply) : allowsReply t (.status st) = true ↔ ∃ a, t = .poll a := by
  cases t <;> simp [allowsReply]

end Sys2Proof.Machine
end

section
/-! PROOF. When the characters heard are a damaged reply, not yet a whole one, or a well-formed one (R30), and the obligation on
replies. -/

namespace Sys2Proof.Machine

/-! ## The characters heard -/

/-- The character at a place, and its low eight bits. -/
def charAt (cs : List RxChar) (k : Nat) : BitVec 9 := (cs.map (fun c => c.data)).getD k 0

def lowAt (cs : List RxChar) (k : Nat) : Byte := (charAt cs k).extractLsb' 0 8

/-- What is heard so far cannot be a reply. -/
def EarlyDamage (addr : Byte) (cs : List RxChar) : Prop :=
  (0 < cs.length ∧ charAt cs 0 ≠ 0x100 ||| addr.setWidth 9) ∨
    (1 < cs.length ∧ lowAt cs 1 ∉ [(0x81 : Byte), 0x82, 0x83, 0x84, 0x85]) ∨ (2 < cs.length ∧ 72 < (lowAt cs 2).toNat)

theorem isReplyKind_iff (k : Byte) : isReplyKind k = true ↔ k ∈ [(0x81 : Byte), 0x82, 0x83, 0x84, 0x85] := by
  simp [isReplyKind, ← BitVec.toNat_inj]
  omega

theorem low_eq (c : BitVec 9) : (c.setWidth 8 : Byte) = c.extractLsb' 0 8 := BitVec.setWidth_eq_extractLsb' (by decide)

theorem le16_eq (x : Half) : le16 x = [x.extractLsb' 0 8, x.extractLsb' 8 8] := by
  obtain ⟨h0, h1⟩ := (halfOf_iff (x.setWidth 8) ((x >>> 8).setWidth 8) x).mp (halfAt_le16 x)
  unfold le16
  rw [h0, h1]

section
variable {addr : Byte} {c0 c1 c2 : RxChar} {t : List RxChar}

/-- The address, the kind and the length, as each is heard. -/
theorem judgeReply_address (h : c0.data ≠ 0x100 ||| addr.setWidth 9) : judgeReply addr (c0 :: t) = .damaged :=
  if_pos (by simpa using h)

variable (h0 : c0.data = 0x100 ||| addr.setWidth 9)
include h0

theorem judgeReply_one : judgeReply addr [c0] = .incomplete := if_neg (by simpa using h0)

omit h0 in
theorem kind_heard (h : lowAt (c0 :: c1 :: t) 1 ∈ [(0x81 : Byte), 0x82, 0x83, 0x84, 0x85]) :
    isReplyKind (c1.data.setWidth 8) = true := by
  rw [low_eq]
  exact (isReplyKind_iff _).mpr h

theorem judgeReply_kind (h : lowAt (c0 :: c1 :: t) 1 ∉ [(0x81 : Byte), 0x82, 0x83, 0x84, 0x85]) :
    judgeReply addr (c0 :: c1 :: t) = .damaged := by
  have hkind : isReplyKind (c1.data.setWidth 8) = false := by
    rw [low_eq, Bool.eq_false_iff]
    exact fun hc => h ((isReplyKind_iff _).mp hc)
  exact (if_neg (by simpa using h0)).trans (if_pos (by rw [hkind]; rfl))

variable (h1 : isReplyKind (c1.data.setWidth 8) = true)
include h1

theorem judgeReply_two : judgeReply addr [c0, c1] = .incomplete :=
  (if_neg (by simpa using h0)).trans (if_neg (by rw [h1]; exact Bool.false_ne_true))

theorem judgeReply_three : judgeReply addr (c0 :: c1 :: c2 :: t) =
    if 72 < (lowAt (c0 :: c1 :: c2 :: t) 2).toNat then .damaged
    else if t.length < (lowAt (c0 :: c1 :: c2 :: t) 2).toNat + 2 then .incomplete
    else judgeWhole ((c0 :: c1 :: c2 :: t).take ((lowAt (c0 :: c1 :: c2 :: t) 2).toNat + 5)) := by
  have hlow : lowAt (c0 :: c1 :: c2 :: t) 2 = c2.data.setWidth 8 := (low_eq c2.data).symm
  rw [hlow]
  exact (if_neg (by simpa using h0)).trans (if_neg (by rw [h1]; exact Bool.false_ne_true))

end

section
variable {addr : Byte} {cs : List RxChar}

theorem judgeReply_early (h : EarlyDamage addr cs) : judgeReply addr cs = .damaged := by
  unfold EarlyDamage at h
  match cs, h with
  | [], h => simp at h
  | [c0], h =>
    have haddr : c0.data ≠ 0x100 ||| addr.setWidth 9 := by
      rcases h with ⟨_, h⟩ | ⟨h, _⟩ | ⟨h, _⟩
      · exact h
      · exact absurd h (by simp)
      · exact absurd h (by simp)
    exact judgeReply_address haddr
  | [c0, c1], h =>
    by_cases haddr : c0.data = 0x100 ||| addr.setWidth 9
    · rcases h with ⟨_, h⟩ | ⟨_, h⟩ | ⟨h, _⟩
      · exact absurd haddr h
      · exact judgeReply_kind haddr h
      · exact absurd h (by simp)
    · exact judgeReply_address haddr
  | c0 :: c1 :: c2 :: t, h =>
    by_cases haddr : c0.data = 0x100 ||| addr.setWidth 9
    · by_cases hkind : lowAt (c0 :: c1 :: c2 :: t) 1 ∈ [(0x81 : Byte), 0x82, 0x83, 0x84, 0x85]
      · rcases h with ⟨_, h⟩ | ⟨_, h⟩ | ⟨_, h⟩
        · exact absurd haddr h
        · exact absurd hkind h
        · rw [judgeReply_three haddr (kind_heard hkind), if_pos h]
      · exact judgeReply_kind haddr hkind
    · exact judgeReply_address haddr

/-- The head of a reply that may still be whole. -/
theorem not_earlyDamage (h : ¬EarlyDamage addr cs) :
    (0 < cs.length → charAt cs 0 = 0x100 ||| addr.setWidth 9) ∧
    (1 < cs.length → lowAt cs 1 ∈ [(0x81 : Byte), 0x82, 0x83, 0x84, 0x85]) ∧
    (2 < cs.length → (lowAt cs 2).toNat ≤ 72) := by
  unfold EarlyDamage at h
  push Not at h
  exact h

theorem judgeReply_incomplete (h : ¬EarlyDamage addr cs) (hlen : cs.length < 3 ∨ cs.length < (lowAt cs 2).toNat + 5) :
    judgeReply addr cs = .incomplete := by
  obtain ⟨h0, h1, h2⟩ := not_earlyDamage h
  match cs, h0, h1, h2, hlen with
  | [], _, _, _, _ => rfl
  | [c0], h0, _, _, _ => exact judgeReply_one (h0 (by simp))
  | [c0, c1], h0, h1, _, _ => exact judgeReply_two (h0 (by simp)) (kind_heard (h1 (by simp)))
  | c0 :: c1 :: c2 :: t, h0, h1, h2, hlen =>
    have h72 := h2 (by simp)
    rw [judgeReply_three (h0 (by simp)) (kind_heard (h1 (by simp))), if_neg (Nat.not_lt.mpr h72), if_pos]
    simp only [List.length_cons] at hlen
    omega

theorem judgeReply_whole (h : ¬EarlyDamage addr cs) (h3 : 3 ≤ cs.length) (hlen : (lowAt cs 2).toNat + 5 ≤ cs.length) :
    judgeReply addr cs = judgeWhole (cs.take ((lowAt cs 2).toNat + 5)) := by
  obtain ⟨h0, h1, h2⟩ := not_earlyDamage h
  match cs, h0, h1, h2, h3, hlen with
  | [], _, _, _, h3, _ => exact absurd h3 (by simp)
  | [_], _, _, _, h3, _ => exact absurd h3 (by simp)
  | [_, _], _, _, _, h3, _ => exact absurd h3 (by simp)
  | c0 :: c1 :: c2 :: t, h0, h1, h2, _, hlen =>
    have h72 := h2 (by simp)
    rw [judgeReply_three (h0 (by simp)) (kind_heard (h1 (by simp))), if_neg (Nat.not_lt.mpr h72), if_neg]
    simp only [List.length_cons] at hlen
    omega

end

/-! ## The checks when the last character has arrived -/

section
variable {cs : List RxChar} {n : Nat}

/-- The bytes that the check covers. -/
def bodyOf (cs : List RxChar) (n : Nat) : List Byte := (List.range (n + 2)).map fun k => lowAt cs (k + 1)

/-- The characters of a reply with a payload of `n` bytes are whole, but for the judgement of each. -/
def SoundReply (cs : List RxChar) (n : Nat) : Prop :=
  (∀ c ∈ cs.take (n + 5), c.damaged = false) ∧ (∀ k, 0 < k → k < n + 5 → (charAt cs k).getLsbD 8 = false) ∧
    lowAt cs (n + 3) = (crc16 (bodyOf cs n)).extractLsb' 0 8 ∧ lowAt cs (n + 4) = (crc16 (bodyOf cs n)).extractLsb' 8 8

variable (h : n + 5 ≤ cs.length)
include h

/-- The low bytes of a reply, one by one. -/
theorem lowBytes_eq : (cs.take (n + 5)).map (fun c => (c.data.setWidth 8 : Byte)) = (List.range (n + 5)).map (lowAt cs) := by
  refine List.ext_getElem (by simp [h]) fun k hk hk' => ?_
  have hlt : k < cs.length := by
    simp only [List.length_map, List.length_range] at hk'
    omega
  simp [lowAt, charAt, low_eq, hlt]

theorem body_eq : ((((cs.take (n + 5)).map (fun c => (c.data.setWidth 8 : Byte))).drop 1).dropLast.dropLast) = bodyOf cs n := by
  rw [lowBytes_eq h]
  refine List.ext_getElem (by simp [bodyOf]) fun k hk hk' => ?_
  simp [bodyOf]

theorem drop_low_eq : ((cs.take (n + 5)).map (fun c => (c.data.setWidth 8 : Byte))).drop (n + 3) =
    [lowAt cs (n + 3), lowAt cs (n + 4)] := by
  have hsplit : List.range (n + 5) = List.range (n + 3) ++ [n + 3, n + 4] := by
    rw [List.range_succ, List.range_succ, List.append_assoc]
    rfl
  rw [lowBytes_eq h, hsplit, List.map_append, List.drop_left' (by simp)]
  rfl

/-- The judgement of the whole reply. -/
theorem judgeWhole_eq : judgeWhole (cs.take (n + 5)) =
    if (cs.take (n + 5)).any RxChar.damaged || ((cs.take (n + 5)).drop 1).any (fun c => c.data.getLsbD 8) then .damaged
    else if [lowAt cs (n + 3), lowAt cs (n + 4)] = le16 (crc16 (bodyOf cs n)) then
      .wellFormed (lowAt cs 1) ((List.range n).map fun k => lowAt cs (k + 3))
    else .damaged := by
  have hkind : byteAt (bodyOf cs n) 0 = lowAt cs 1 := by
    unfold bodyOf byteAt
    simp
  have hpayload : (bodyOf cs n).drop 2 = (List.range n).map fun k => lowAt cs (k + 3) := by
    refine List.ext_getElem (by simp [bodyOf]) fun k hk hk' => ?_
    simp [bodyOf]
    congr 1
    omega
  have hlen : (bodyOf cs n).length + 1 = n + 3 := by simp [bodyOf]
  unfold judgeWhole
  dsimp only
  rw [body_eq h, hlen, drop_low_eq h, hkind, hpayload]

/-- The ninth bit of the characters behind the address. -/
theorem ninthBits_iff : ((cs.take (n + 5)).drop 1).any (fun c => c.data.getLsbD 8) = false ↔
    ∀ k, 0 < k → k < n + 5 → (charAt cs k).getLsbD 8 = false := by
  have hchar (k : Nat) (hk : k < cs.length) : charAt cs k = cs[k].data := by simp [charAt, hk]
  rw [List.any_eq_false]
  constructor
  · intro hall k h0 hk
    have hlen : k < cs.length := by omega
    have hmem : cs[k] ∈ (cs.take (n + 5)).drop 1 := by
      rw [List.mem_iff_getElem]
      refine ⟨k - 1, by simp; omega, ?_⟩
      simp [Nat.sub_add_cancel h0]
    rw [hchar k hlen]
    simpa using hall _ hmem
  · intro hall c hc
    obtain ⟨k, hk, rfl⟩ := List.mem_iff_getElem.mp hc
    simp only [List.length_drop, List.length_take] at hk
    have hbit := hall (k + 1) (by omega) (by omega)
    rw [hchar (k + 1) (by omega)] at hbit
    simpa using hbit

theorem soundReply_iff : SoundReply cs n ↔
    ((cs.take (n + 5)).any RxChar.damaged || ((cs.take (n + 5)).drop 1).any (fun c => c.data.getLsbD 8)) = false ∧
      [lowAt cs (n + 3), lowAt cs (n + 4)] = le16 (crc16 (bodyOf cs n)) := by
  have hdamaged : (cs.take (n + 5)).any RxChar.damaged = false ↔ ∀ c ∈ cs.take (n + 5), c.damaged = false := by
    rw [List.any_eq_false]
    exact forall₂_congr fun c _ => Bool.eq_false_iff.symm
  have hninth := ninthBits_iff h
  unfold SoundReply
  rw [Bool.or_eq_false_iff, hdamaged, hninth, le16_eq, List.cons_eq_cons, List.cons_eq_cons, and_assoc]
  simp only [and_true]

theorem judgeWhole_sound (hs : SoundReply cs n) :
    judgeWhole (cs.take (n + 5)) = .wellFormed (lowAt cs 1) ((List.range n).map fun k => lowAt cs (k + 3)) := by
  obtain ⟨hbits, hcheck⟩ := (soundReply_iff h).mp hs
  rw [judgeWhole_eq h, hbits, if_neg Bool.false_ne_true, if_pos hcheck]

theorem judgeWhole_unsound (hs : ¬SoundReply cs n) : judgeWhole (cs.take (n + 5)) = .damaged := by
  rw [soundReply_iff h] at hs
  rw [judgeWhole_eq h]
  split
  next => rfl
  next hbits => exact if_neg fun hcheck => hs ⟨Bool.eq_false_iff.mpr hbits, hcheck⟩

end

end Sys2Proof.Machine

open Sys2Proof.Machine in
/-- Settles O57: the judgement of the characters heard, the replies by their kinds, and the notices. -/
theorem repliesParsed : Obligations.RepliesParsed := by
  unfold Obligations.RepliesParsed
  refine ⟨fun addr cs => ?heard, fun t kind p r => ?reply, noticeOf_iff⟩
  case heard =>
    intro char byte n early body sound
    have hearly : early = EarlyDamage addr cs := rfl
    have hsound : sound = SoundReply cs n := rfl
    rw [hearly, hsound]
    refine ⟨judgeReply_early, judgeReply_incomplete, fun he h3 hlen => ⟨fun hs => ?_, fun hs => ?_⟩⟩
    · exact (judgeReply_whole he h3 hlen).trans (judgeWhole_sound hlen hs)
    · exact (judgeReply_whole he h3 hlen).trans (judgeWhole_unsound hlen hs)
  case reply =>
    rw [replyTo_iff, parseReply_iff, identOf_iff, statusOf_iff]
    constructor
    · rintro ⟨⟨hk, hp, rfl⟩ | ⟨why, hk, hp, rfl⟩ | ⟨n, hk, hp, rfl⟩ | ⟨hk, d, rfl, hd⟩ | ⟨hk, st, rfl, hst⟩, ha⟩
      · exact .inl ⟨hk, hp, rfl, (allowsReply_ack t).mp ha⟩
      · exact .inr (.inl ⟨why, hk, hp, rfl, (allowsReply_nak t why).mp ha⟩)
      · obtain ⟨serial, drop, ht, hn, hserial⟩ := (allowsReply_pair t n).mp ha
        exact .inr (.inr (.inl ⟨serial, drop, n, ht, hk, hp, rfl, hn, hserial⟩))
      · exact .inr (.inr (.inr (.inl ⟨d, (allowsReply_ident t d).mp ha, hk, rfl, hd⟩)))
      · exact .inr (.inr (.inr (.inr ⟨st, (allowsReply_status t st).mp ha, hk, rfl, hst⟩)))
    · rintro (⟨hk, hp, rfl, ha⟩ | ⟨why, hk, hp, rfl, ha⟩ | ⟨serial, drop, n, ht, hk, hp, rfl, hn⟩ | ⟨d, ht, hk, rfl, hd⟩ |
        ⟨st, ht, hk, rfl, hst⟩)
      · exact ⟨.inl ⟨hk, hp, rfl⟩, (allowsReply_ack t).mpr ha⟩
      · exact ⟨.inr (.inl ⟨why, hk, hp, rfl⟩), (allowsReply_nak t why).mpr ha⟩
      · exact ⟨.inr (.inr (.inl ⟨n, hk, hp, rfl⟩)), (allowsReply_pair t n).mpr ⟨serial, drop, ht, hn⟩⟩
      · exact ⟨.inr (.inr (.inr (.inl ⟨hk, d, rfl, hd⟩))), (allowsReply_ident t d).mpr ht⟩
      · exact ⟨.inr (.inr (.inr (.inr ⟨hk, st, rfl, hst⟩))), (allowsReply_status t st).mpr ht⟩
end

section
/-! PROOF. The rows of a line that move one transaction on, and the end of a transaction: to whom its outcome goes, and how the
line is left. -/

namespace Sys2Proof.Machine

/-! ## Rows of RUNNING -/

/-- A row of RUNNING after which no claim can newly succeed ends as its meaning. -/
theorem plainRow_endsAs {c : Instr} {f : State → State} {s y : State} (hrow : exec c s = .next (plainEvent f s))
    (hm : s.mode = .running) (h : f s = y) : ∃ t, exec c s = .next t ∧ t.EndsAs y :=
  row_endsAs (hrow.trans (congrArg Host.Outcome.next (plainEvent_running f hm))) h

/-- Any other row of RUNNING ends as its meaning, settled. -/
theorem workRow_endsAs {c : Instr} {f : State → State} {s y : State} (hrow : exec c s = .next (workEvent f s))
    (hm : s.mode = .running) (h : f s = y) : ∃ t, exec c s = .next t ∧ t.EndsAs (settle y) :=
  row_endsAs (hrow.trans (congrArg Host.Outcome.next (workEvent_running f hm))) (congrArg settle h)

/-! ## Lines put back unchanged -/

theorem State.setLn_ln (s : State) (l : LineNo) : s.setLn l (s.ln l) = s := by
  simp [State.setLn, State.ln]

/-- A line changed before a raise or after it. -/
theorem raiseEvent_setLn (e : Event) (s : State) (l : LineNo) (x : Line) :
    raiseEvent e (s.setLn l x) = (raiseEvent e s).setLn l x := by
  unfold raiseEvent State.running State.setLn
  dsimp only
  (repeat' split) <;> rfl

/-! ## Events inside an attempt (R26, R30, R35) -/

section
variable {l : LineNo} {tr : Transaction} {s : State}

theorem damagedReply_eq (l : LineNo) (tr : Transaction) (s : State) :
    damagedReply l tr s = s.setLn l { s.ln l with
      state := .quiet, trans := some { tr with damage := true }, window := some s.now, quiet := some s.now } := rfl

theorem gapExpired_receive (hs : (s.ln l).state = .receive) (ht : (s.ln l).trans = some tr) :
    gapExpired l s = damagedReply l tr s := by
  unfold gapExpired
  rw [hs, ht]

theorem gapExpired_other (hs : (s.ln l).state ≠ .receive) : gapExpired l s = s := by
  unfold gapExpired
  split
  next hc _ => exact absurd hc hs
  next => rfl

/-! ## The poll schedule (R42) -/

theorem joinSchedule_scheduled {i : Slot} (h : ∃ p ∈ (s.ln (s.ent i).line).schedule, p.slot = i) : joinSchedule i s = s := by
  have hany : (s.ln (s.ent i).line).schedule.any (fun p => p.slot == i) = true := by simpa using h
  unfold joinSchedule State.modLn
  dsimp only
  rw [if_pos hany, State.setLn_ln]

theorem pollTime_eq (s : State) : (s.pollTime : Int) = 100000 * (s.profile.pollPeriod : Int) := by
  unfold State.pollTime Config.tenth
  exact Int.natCast_mul ..

theorem joinSchedule_new {i : Slot} (h : ∀ p ∈ (s.ln (s.ent i).line).schedule, p.slot ≠ i) :
    joinSchedule i s = s.setLn (s.ent i).line { s.ln (s.ent i).line with schedule := (s.ln (s.ent i).line).schedule ++
      [{ slot := i, begun := (s.now : Int) - 100000 * (s.profile.pollPeriod : Int), due := true, overdue := false }] } := by
  have hany : ¬(s.ln (s.ent i).line).schedule.any (fun p => p.slot == i) = true := by simpa using h
  unfold joinSchedule State.modLn
  dsimp only
  rw [if_neg hany, pollTime_eq]

/-! ## Liveness (R44) -/

/-- An oven in service goes late with its third failure in a row. -/
def Entry.goesLate (e : Entry) : Bool := e.state == .inService && e.failures == 2 && !e.late

/-- An entry after one more transaction that failed. -/
def Entry.missed (e : Entry) : Entry := { e with failures := min 3 (e.failures + 1), late := e.late || e.goesLate }

/-- An entry whose oven has answered, at this time of the site clock and of the reference clock. -/
def Entry.heard (e : Entry) (clock : Word) (now : Nat) : Entry :=
  { e with failures := 0, late := false, lastReply := some clock, silence := some now }

theorem liveness_valid (i : Slot) (s : State) :
    liveness i true s = s.setEnt i ((s.ent i).heard s.report.clock s.now) := rfl

theorem liveness_failed (i : Slot) (s : State) :
    liveness i false s = if (s.ent i).goesLate then raiseEvent .ovenLate (s.setEnt i (s.ent i).missed)
      else s.setEnt i (s.ent i).missed := rfl

theorem Entry.goesLate_of_early {e : Entry} (h : e.failures < 2 ∨ e.state ≠ .inService) : e.goesLate = false := by
  unfold Entry.goesLate
  rcases h with h | h
  · simp [show e.failures ≠ 2 by omega]
  · simp [h]

theorem liveness_missed {i : Slot} (h : (s.ent i).failures < 2 ∨ (s.ent i).state ≠ .inService) :
    liveness i false s = s.setEnt i { s.ent i with failures := min 3 ((s.ent i).failures + 1) } := by
  have hl := Entry.goesLate_of_early h
  rw [liveness_failed, if_neg (Bool.eq_false_iff.mp hl), Entry.missed, hl, Bool.or_false]

theorem liveness_late {i : Slot} (hf : (s.ent i).failures = 2) (hs : (s.ent i).state = .inService)
    (hl : (s.ent i).late = false) :
    liveness i false s = raiseEvent .ovenLate (s.setEnt i { s.ent i with failures := 3, late := true }) := by
  have hg : (s.ent i).goesLate = true := by simp [Entry.goesLate, hf, hs, hl]
  rw [liveness_failed, if_pos hg, Entry.missed, hg, hf, Bool.or_true]
  rfl

/-! ## The end of a transaction (R36, R37) -/

/-- The line without its transaction. -/
def State.withoutTransaction (s : State) (l : LineNo) : State :=
  s.setLn l { s.ln l with trans := none, window := none, quiet := none }

/-- The line after an outcome: TURNAROUND after a valid reply, FREE otherwise. -/
def State.lineEnds (s : State) (l : LineNo) (o : Outcome) : State :=
  s.setLn l { s.ln l with state := if o.isValid then .turnaround else .free }

theorem endTransaction_eq (l : LineNo) (tr : Transaction) (o : Outcome) (s : State) :
    endTransaction l tr o s = (deliver l tr o (s.withoutTransaction l)).lineEnds l o := rfl

theorem endTransaction_line (l : LineNo) (tr : Transaction) (o : Outcome) (s : State) :
    ((endTransaction l tr o s).ln l).state = if o.isValid then .turnaround else .free := by
  rw [endTransaction_eq, State.lineEnds, State.ln_setLn_self]

/-- Where the owner's work has left the lines alone, its line alone has changed. -/
theorem lineEnds_eq {z : State} (o : Outcome) (hz : z.lines = (s.withoutTransaction l).lines) :
    z.lineEnds l o = { z with lines := (s.setLn l { s.ln l with
      state := if o.isValid then .turnaround else .free, trans := none, window := none, quiet := none }).lines } := by
  have hln : z.ln l = { s.ln l with trans := none, window := none, quiet := none } :=
    (State.ln_congr hz l).trans (State.ln_setLn_self ..)
  rw [State.lineEnds, hln, State.setLn, hz]
  exact congrArg (fun x : Vector Line 4 => { z with lines := x }) (Vector.set_set ..)

theorem deliver_untargeted (o : Outcome) (h : tr.q.target = none) : deliver l tr o s = deliverUntargeted tr.q o s := by
  unfold deliver
  rw [h]

section
variable {i : Slot} (ht : tr.q.target = some i)
include ht

theorem deliver_gone (o : Outcome) (h : tr.gone = true ∨ (s.ent i).state = .vacant) :
    deliver l tr o s = deliverGone l tr.q i o s := by
  unfold deliver
  rw [ht]
  exact if_pos h

variable (hg : tr.gone = false) (hv : (s.ent i).state ≠ .vacant)
include hg hv

theorem deliver_owner {o : Outcome} (h : (s.ent i).upd.state ≠ .switching ∨ o.isValid = false) :
    deliver l tr o s = deliverTo l tr.q i o (liveness i o.isValid s) := by
  unfold deliver
  rw [ht]
  refine (if_neg (by simp [hg, hv])).trans (if_neg fun hc => ?_)
  obtain ⟨hvalid, hswitching⟩ := hc
  exact h.elim (· hswitching) fun hf => Bool.false_ne_true (hf.symm.trans hvalid)

theorem deliver_switching {o : Outcome} (hu : (s.ent i).upd.state = .switching) (ho : o.isValid = true) :
    deliver l tr o s = askIdentity i (deliverTo l tr.q i o (liveness i true s)) := by
  unfold deliver
  rw [ht]
  refine (if_neg (by simp [hg, hv])).trans ((if_pos ⟨ho, hu⟩).trans ?_)
  rw [ho]

end

/-! ## An attempt without a reply (R35) -/

theorem attemptEnds_again (h : tr.attempt < 3) : attemptEnds l tr s = s.setLn l { s.ln l with
    state := .transmit, trans := some { tr with attempt := tr.attempt + 1 }, window := none, quiet := none } := if_pos h

theorem attemptEnds_third (h : 3 ≤ tr.attempt) : attemptEnds l tr s = endTransaction l tr (.failed tr.damage) s :=
  if_neg (Nat.not_lt.mpr h)

/-- The end of the reply window and the end of QUIET both end the attempt. -/
theorem attemptRow_endsAs {c : Instr} {y : State} (hm : s.mode = .running) (ht : (s.ln l).trans = some tr)
    (hc : (c = .replyWindowExpiry l ∧ (s.ln l).state = .listen) ∨ (c = .quietEnd l ∧ (s.ln l).state = .quiet))
    (h : attemptEnds l tr s = y) : ∃ t, exec c s = .next t ∧ t.EndsAs (settle y) := by
  rcases hc with ⟨rfl, hs⟩ | ⟨rfl, hs⟩
  · have hw : windowExpired l s = attemptEnds l tr s := by
      unfold windowExpired
      rw [hs, ht]
    exact workRow_endsAs (f := windowExpired l) rfl hm (hw.trans h)
  · have hq : quietEnd l s = attemptEnds l tr s := by
      unfold quietEnd
      rw [hs, ht]
    exact workRow_endsAs (f := quietEnd l) rfl hm (hq.trans h)

/-- A POLL that fails is no one's matter but the liveness'. -/
theorem deliverTo_poll_failed {q : Queued} (h : ∃ a, q.tel = .poll a) (i : Slot) (d : Bool) :
    deliverTo l q i (.failed d) s = s := by
  obtain ⟨a, ha⟩ := h
  unfold deliverTo
  rw [ha]

theorem lineEnds_raiseEvent (e : Event) (o : Outcome) :
    (raiseEvent e s).lineEnds l o = raiseEvent e (s.lineEnds l o) := by
  rw [State.lineEnds, ln_raiseEvent, ← raiseEvent_setLn]
  rfl

/-- R44: a POLL that has failed is counted, and the line is FREE. -/
theorem endTransaction_poll_failed {i : Slot} (ht : tr.q.target = some i) (hg : tr.gone = false)
    (hp : ∃ a, tr.q.tel = .poll a) (hv : (s.ent i).state ≠ .vacant) (d : Bool) :
    endTransaction l tr (.failed d) s =
      (let y := (s.setLn l { s.ln l with state := .free, trans := none, window := none, quiet := none }).setEnt i
         (s.ent i).missed
       if (s.ent i).goesLate then raiseEvent .ovenLate y else y) := by
  have hent : (s.withoutTransaction l).ent i = s.ent i := rfl
  rw [endTransaction_eq, deliver_owner ht hg (by rwa [hent]) (.inr rfl), deliverTo_poll_failed hp]
  refine (congrArg (State.lineEnds · l _) (liveness_failed i _)).trans ?_
  rw [hent]
  dsimp only
  split
  · rw [lineEnds_raiseEvent]
    exact congrArg (raiseEvent .ovenLate) (lineEnds_eq _ rfl)
  · exact lineEnds_eq _ rfl

end

end Sys2Proof.Machine

open Sys2Proof.Machine in
/-- Settles O31: the events inside an attempt one by one, then the two rows that end an attempt (`attemptRow_endsAs`). -/
theorem lineEventsAndAttemptsEnd : Obligations.LineEventsAndAttemptsEnd := by
  unfold Obligations.LineEventsAndAttemptsEnd
  refine ⟨fun l i s hm => ⟨fun late => ?due, ?transmit, ?start, ?quiet, ?turnaround, fun tr hs ht => ?gap, fun hs => ?noGap,
    ⟨joinSchedule_scheduled, joinSchedule_new⟩, rfl⟩, fun l tr s c hm ht hc => ⟨fun h => ?again, fun h => ?third⟩⟩
  case due =>
    cases late
    · exact plainRow_endsAs (f := setDue false i) rfl hm rfl
    · exact plainRow_endsAs (f := setDue true i) rfl hm rfl
  case transmit => exact plainRow_endsAs (f := transmitEnd l) rfl hm rfl
  case start => exact plainRow_endsAs (f := replyStarts l) rfl hm rfl
  case quiet => exact plainRow_endsAs (f := quietStart l) rfl hm rfl
  case turnaround => exact plainRow_endsAs (f := turnaroundEnd l) rfl hm rfl
  case gap => exact plainRow_endsAs (f := gapExpired l) rfl hm (gapExpired_receive hs ht)
  case noGap => exact plainRow_endsAs (f := gapExpired l) rfl hm (gapExpired_other hs)
  case again => exact attemptRow_endsAs hm ht hc (attemptEnds_again h)
  case third =>
    obtain ⟨t, hrow, hends⟩ := attemptRow_endsAs hm ht hc (attemptEnds_third h)
    exact ⟨t, _, hrow, hends, endTransaction_line .., fun i hi hg hp hv => endTransaction_poll_failed hi hg hp hv _, rfl⟩
end

section
/-! PROOF. A reply judged (R30, R31), what a STATUS brings (R33, R38, R91, R93, R125), and the obligation on both. -/

namespace Sys2Proof.Machine

/-! ## The reply judged (R30, R31) -/

section
variable {l : LineNo} {chars : List RawChar} {tr : Transaction} {s : State}
  (hs : (s.ln l).state = .listen ∨ (s.ln l).state = .receive) (ht : (s.ln l).trans = some tr)
include hs ht

theorem replyReceived_damaged (h : judgeReply tr.q.replyAddr (sampleChars chars) = .damaged) :
    replyReceived l chars s = damagedReply l tr s := by
  simp only [replyReceived, if_pos hs, ht, h]

theorem replyReceived_incomplete (h : judgeReply tr.q.replyAddr (sampleChars chars) = .incomplete) :
    replyReceived l chars s = if (sampleChars chars).isEmpty then s else replyStarts l s := by
  simp only [replyReceived, if_pos hs, ht, h]

variable {k : Byte} {p : List Byte} (h : judgeReply tr.q.replyAddr (sampleChars chars) = .wellFormed k p)
include h

theorem replyReceived_notAllowed (hr : replyTo tr.q.tel k p = none) : replyReceived l chars s = damagedReply l tr s := by
  simp only [replyReceived, if_pos hs, ht, h, hr]

theorem replyReceived_valid {r : Reply} (hr : replyTo tr.q.tel k p = some r) :
    replyReceived l chars s = endTransaction l tr (.valid r) s := by
  simp only [replyReceived, if_pos hs, ht, h, hr]

end

section
variable {l : LineNo} {chars : List RawChar} {tr : Transaction} {s : State}

theorem replyStarts_listen (hs : (s.ln l).state = .listen) :
    replyStarts l s = s.setLn l { s.ln l with state := .receive, window := none } := if_pos hs

theorem replyStarts_receive (hs : (s.ln l).state = .receive) : replyStarts l s = s := if_neg (by rw [hs]; nofun)

/-- Characters that are not yet a reply leave the line as it was, unless they are the first heard in LISTEN (log 14). -/
theorem replyReceived_unchanged (hs : (s.ln l).state = .listen ∨ (s.ln l).state = .receive)
    (ht : (s.ln l).trans = some tr) (h : judgeReply tr.q.replyAddr (sampleChars chars) = .incomplete)
    (hc : sampleChars chars = [] ∨ (s.ln l).state = .receive) : replyReceived l chars s = s := by
  rw [replyReceived_incomplete hs ht h]
  rcases hc with hc | hc
  · exact if_pos (List.isEmpty_iff.mpr hc)
  · rw [replyStarts_receive hc, ite_self]

theorem replyReceived_begins (hs : (s.ln l).state = .listen) (ht : (s.ln l).trans = some tr)
    (h : judgeReply tr.q.replyAddr (sampleChars chars) = .incomplete) (hc : sampleChars chars ≠ []) :
    replyReceived l chars s = s.setLn l { s.ln l with state := .receive, window := none } := by
  rw [replyReceived_incomplete (.inl hs) ht h, if_neg (by simpa using hc), replyStarts_listen hs]

end

/-! ## Readings, FLUSH and DUE evictions (R33, R91, R93) -/

section
variable {i : Slot} {s : State}

/-- An entry with the readings of a STATUS. -/
def Entry.read (e : Entry) (st : StatusReply) : Entry :=
  { e with readings := some { cabinet := st.cabinet, core := st.core, reported := st.activity } }

theorem takeReadings_kept (st : StatusReply) (h : (s.ent i).state.polled = true ∨ (s.ent i).state = .assigning) :
    takeReadings i st s = s.setEnt i ((s.ent i).read st) := if_pos h

theorem takeReadings_dropped (st : StatusReply) (hp : (s.ent i).state.polled = false) (ha : (s.ent i).state ≠ .assigning) :
    takeReadings i st s = s := if_neg (by simp [hp, ha])

theorem resendFlush_notOwed (h : (s.ent i).flushDue = false) : resendFlush i s = s := if_neg (Bool.eq_false_iff.mp h)

theorem DirEntry.heldByUse_of_notDue {e : Entry} {d : DirEntry} (h : d.eviction ≠ .due) : d.heldByUse e = d :=
  if_neg fun hc => h hc.1

theorem resendEvictions_noneDue (h : ∀ d ∈ (s.ent i).dir, d.eviction ≠ .due) : resendEvictions i s = s := by
  have hdue : (s.ent i).dir.reverse.filter (fun x => x.eviction == .due && !(s.ent i).fills x.recipe &&
      !(s.ent i).usesRecipe x.recipe) = [] :=
    List.filter_eq_nil_iff.mpr fun d hd => by simp [h d (List.mem_reverse.mp hd)]
  have hmap : (s.ent i).dir.map (DirEntry.heldByUse (s.ent i)) = (s.ent i).dir :=
    (List.map_congr_left fun d hd => DirEntry.heldByUse_of_notDue (h d hd)).trans (List.map_id _)
  unfold resendEvictions
  dsimp only
  rw [hdue, List.foldl_nil, State.modDir, State.modEnt, hmap]
  exact s.setEnt_ent i

end

/-! ## STATUS (R33, R38, R125) -/

/-- What a STATUS brings before its notice. -/
def statusTaken (i : Slot) (st : StatusReply) (s : State) : State :=
  let y := resendEvictions i (resendFlush i (takeReadings i st s))
  if st.activity = .idle then setIdleWait i false y else y

section
variable {l : LineNo} {i : Slot} {q : Queued} {st : StatusReply} (hp : ∃ a, q.tel = .poll a)
include hp

theorem deliverTo_status (s : State) : deliverTo l q i (.valid (.status st)) s = takeStatus i st s := by
  obtain ⟨a, ha⟩ := hp
  unfold deliverTo
  rw [ha]

theorem deliverTo_status_plain (s : State) (hn : st.notice = none) :
    deliverTo l q i (.valid (.status st)) s = statusTaken i st s := by
  rw [deliverTo_status hp, takeStatus, hn]
  rfl

variable {tg : Bool} {n : Notice} (hn : st.notice = some (tg, n))
include hn

theorem deliverTo_status_notice (s : State) :
    deliverTo l q i (.valid (.status st)) s = acceptNotice i tg n (statusTaken i st s) := by
  rw [deliverTo_status hp, takeStatus, hn]
  rfl

theorem deliverTo_status_repeated {s : State} (ht : ((statusTaken i st s).ent i).toggle = some tg) :
    deliverTo l q i (.valid (.status st)) s = statusTaken i st s := by
  rw [deliverTo_status_notice hp hn, acceptNotice, if_pos ht]

theorem deliverTo_status_new {s : State} (ht : ((statusTaken i st s).ent i).toggle ≠ some tg) :
    deliverTo l q i (.valid (.status st)) s = takeNotice i n
      ((statusTaken i st s).setEnt i { (statusTaken i st s).ent i with toggle := some tg }) := by
  rw [deliverTo_status_notice hp hn, acceptNotice, if_neg ht]
  rfl

end

/-- Nothing is sent again for an oven that owes nothing. -/
theorem statusTaken_owingNothing {i : Slot} {s : State} (st : StatusReply) (hp : (s.ent i).state.polled = true)
    (hf : (s.ent i).flushDue = false) (hd : ∀ d ∈ (s.ent i).dir, d.eviction ≠ .due) :
    statusTaken i st s =
      (let y := s.setEnt i ((s.ent i).read st)
       if st.activity = .idle then setIdleWait i false y else y) := by
  have hent : (s.setEnt i ((s.ent i).read st)).ent i = (s.ent i).read st := State.ent_setEnt_self ..
  unfold statusTaken
  rw [takeReadings_kept st (.inl hp), resendFlush_notOwed (by rw [hent]; exact hf),
    resendEvictions_noneDue (by rw [hent]; exact hd)]

/-- A plain STATUS from a polled oven that owes nothing: liveness, readings, and the wait for an idle oven. -/
theorem endTransaction_status {l : LineNo} {tr : Transaction} {i : Slot} {st : StatusReply} {s : State}
    (ht : tr.q.target = some i) (hg : tr.gone = false) (hn : st.notice = none) (ha : ∃ a, tr.q.tel = .poll a)
    (hp : (s.ent i).state.polled = true) (hf : (s.ent i).flushDue = false)
    (hd : ∀ d ∈ (s.ent i).dir, d.eviction ≠ .due) (hu : (s.ent i).upd.state ≠ .switching) :
    endTransaction l tr (.valid (.status st)) s =
      { s.setEnt i (((s.ent i).heard s.report.clock s.now).read st) with
        lines := s.lines.set l { s.ln l with state := .turnaround, trans := none, window := none, quiet := none }
        hygiene := { s.hygiene with
          queue := if st.activity = .idle then
            s.hygiene.queue.map (fun w => if w.slot = i then { w with idleWait := false } else w)
          else s.hygiene.queue } } := by
  have hv : (s.ent i).state ≠ .vacant := fun hc => by rw [hc] at hp; exact Bool.false_ne_true hp
  have hent : ((s.withoutTransaction l).setEnt i ((s.ent i).heard s.report.clock s.now)).ent i =
      (s.ent i).heard s.report.clock s.now := State.ent_setEnt_self ..
  rw [endTransaction_eq, deliver_owner (s := s.withoutTransaction l) ht hg hv (.inl hu), deliverTo_status_plain ha _ hn]
  have hheard : liveness i (Outcome.valid (.status st)).isValid (s.withoutTransaction l) =
      (s.withoutTransaction l).setEnt i ((s.ent i).heard s.report.clock s.now) := rfl
  rw [hheard, statusTaken_owingNothing st (by rw [hent]; exact hp) (by rw [hent]; exact hf) (by rw [hent]; exact hd), hent,
    State.setEnt_setEnt]
  dsimp only
  split
  · exact lineEnds_eq _ rfl
  · exact lineEnds_eq _ rfl

/-! ## An outcome for an entry that is gone (R37) -/

theorem deliverGone_nothing {q : Queued} (l : LineNo) (i : Slot) (o : Outcome) (s : State)
    (h : (∃ t r v, q.tel = .grant t r v) ∨ (∃ t r v, q.tel = .start t r v) ∨ (∃ a, q.tel = .poll a) ∨
      q.tel = .identReq ∨ q.tel = .probeCheck ∨ q.tel = .flush ∨ (∃ r, q.tel = .evict r) ∨
      (q.tel = .abort ∧ q.owner ≠ .cache)) : deliverGone l q i o s = s := by
  unfold deliverGone
  rcases h with ⟨_, _, _, h⟩ | ⟨_, _, _, h⟩ | ⟨_, h⟩ | h | h | h | ⟨_, h⟩ | ⟨h, ho⟩
  case inr.inr.inr.inr.inr.inr.inr => rw [h]; exact if_neg ho
  all_goals rw [h]

theorem deliverGone_abort {q : Queued} (l : LineNo) (i : Slot) (o : Outcome) (s : State) (h : q.tel = .abort)
    (ho : q.owner = .cache) : deliverGone l q i o s = abortOutcome i true o s := by
  unfold deliverGone
  rw [h]
  exact if_pos ho

end Sys2Proof.Machine

open Sys2Proof.Machine in
/-- Settles O32: the judgement of the reply by its cases, then the end of the transaction, and a STATUS part by part. -/
theorem repliesJudged : Obligations.RepliesJudged := by
  unfold Obligations.RepliesJudged
  intro l chars tr s
  refine ⟨fun hm hs ht => ⟨fun h => ?damaged, fun h => ⟨fun hc => ?unchanged, fun hc hl => ?begins⟩, fun k p r h hr => ?valid⟩,
    fun o => ⟨fun ht => ?untargeted, fun i ht => ⟨fun h => ?gone, fun hg hv => ⟨fun h => ?owner, fun hu ho => ?switching⟩⟩⟩,
    fun i q o => ⟨deliverGone_nothing l i o s, deliverGone_abort l i o s⟩,
    fun i => ⟨liveness_valid i s, fun h _ => liveness_missed h, liveness_late⟩,
    fun i q st hp => ⟨fun hn => deliverTo_status_plain hp s hn, fun tg n hn =>
      ⟨deliverTo_status_repeated hp hn, deliverTo_status_new hp hn⟩, takeReadings_kept st, takeReadings_dropped st, rfl⟩⟩
  case damaged =>
    refine workRow_endsAs (f := replyReceived l chars) rfl hm ?_
    rcases h with h | ⟨k, p, h, hr⟩
    · exact replyReceived_damaged hs ht h
    · exact replyReceived_notAllowed hs ht h hr
  case unchanged => exact workRow_endsAs (f := replyReceived l chars) rfl hm (replyReceived_unchanged hs ht h hc)
  case begins => exact workRow_endsAs (f := replyReceived l chars) rfl hm (replyReceived_begins hl ht h hc)
  case valid =>
    obtain ⟨t, hrow, hends⟩ := workRow_endsAs (c := .replyReceived l chars) (f := replyReceived l chars) rfl hm
      (replyReceived_valid hs ht h hr)
    refine ⟨t, _, hrow, hends, endTransaction_line .., rfl, fun i st hi hg hrst hn ha hp hf hd hu => ?_⟩
    rw [hrst]
    exact endTransaction_status hi hg hn ha hp hf hd hu
  case untargeted => exact congrArg (State.lineEnds · l o) (deliver_untargeted o ht)
  case gone => exact congrArg (State.lineEnds · l o) (deliver_gone (s := s.withoutTransaction l) ht o h)
  case owner => exact congrArg (State.lineEnds · l o) (deliver_owner (s := s.withoutTransaction l) ht hg hv h)
  case switching => exact congrArg (State.lineEnds · l o) (deliver_switching (s := s.withoutTransaction l) ht hg hv hu ho)
end

section
/-! PROOF. The line test (R46, R47): how far the looped characters agree with those sent, the rows of the test, and the obligation
on it. -/

namespace Sys2Proof.Machine

/-! ## The test's telegram -/

/-- 02 §2.3: the address with its mark, the kind, the length, the payload, and the check word low byte first. -/
theorem charsOf_eq (addr kind : Byte) (payload : List Byte) :
    charsOf addr kind payload =
      (let body := [kind, BitVec.ofNat 8 payload.length] ++ payload
       (0x100 ||| addr.setWidth 9) ::
         (body ++ [(crc16 body).extractLsb' 0 8, (crc16 body).extractLsb' 8 8]).map (fun b => b.setWidth 9)) := by
  unfold charsOf
  dsimp only
  rw [le16_eq]
  rfl

/-- 64 bytes between the address, the kind, the length and the two bytes of the check word. -/
theorem length_testChars : testChars.length = 69 := by simp [testChars, charsOf]

/-! ## The characters compared -/

/-- The character at this place has come back undamaged and as it was sent. -/
def CameBack (sent : List (BitVec 9)) (got : List RxChar) (k : Nat) : Prop :=
  ∃ x c, sent[k]? = some x ∧ got[k]? = some c ∧ c.damaged = false ∧ c.data = x

/-- The fault is one that the character has. -/
def HasFault (c : RxChar) (x : BitVec 9) (f : FirstFault) : Prop :=
  (f = .parity ∧ c.parity = true) ∨ (f = .framing ∧ c.framing = true) ∨ (f = .noise ∧ c.noise = true) ∨
    (f = .unequal ∧ c.data ≠ x)

/-- What the comparison says of the characters: how many came back before the first that did not, and what that one has. -/
structure Compared (sent : List (BitVec 9)) (got : List RxChar) (n : Nat) (f : FirstFault) : Prop where
  cameBack : ∀ k, k < n → CameBack sent got k
  stops    : ¬CameBack sent got n
  noFault  : f = .none ↔ sent.length ≤ n ∨ got.length ≤ n
  fault    : f ≠ .none → ∃ x c, sent[n]? = some x ∧ got[n]? = some c ∧ HasFault c x f

theorem mem_damagesOf (c : RxChar) (x : BitVec 9) (f : FirstFault) : f ∈ damagesOf c x ↔ HasFault c x f := by
  unfold damagesOf HasFault
  simp only [List.mem_append, List.mem_ite_nil_right, List.mem_singleton, bne_iff_ne, or_assoc]
  tauto

theorem damagesOf_eq_nil (c : RxChar) (x : BitVec 9) : damagesOf c x = [] ↔ c.damaged = false ∧ c.data = x := by
  simp [damagesOf, RxChar.damaged]
  tauto

theorem HasFault.ne_none {c : RxChar} {x : BitVec 9} {f : FirstFault} (h : HasFault c x f) : f ≠ .none := by
  rcases h with ⟨rfl, _⟩ | ⟨rfl, _⟩ | ⟨rfl, _⟩ | ⟨rfl, _⟩ <;> nofun

/-- Whichever of several damages is reported, it is one of them (log 13). -/
theorem reportedDamage_mem (c : RxChar) {l : List FirstFault} (h : l ≠ []) : reportedDamage c l ∈ l := by
  match l, h with
  | [f], _ => exact List.mem_singleton_self f
  | f :: g :: fs, _ =>
    have hlt : Config.damageReported (c.data.setWidth 8) (fs.length + 2) % (fs.length + 2) < (f :: g :: fs).length :=
      Nat.mod_lt _ (Nat.succ_pos _)
    rw [reportedDamage, List.getD_eq_getElem _ _ hlt]
    exact List.getElem_mem hlt

/-- The count starts where it is told to. -/
theorem loopRun_count (sent : List (BitVec 9)) (got : List RxChar) (n : Nat) :
    loopRun sent got n = ((loopRun sent got 0).1 + n, (loopRun sent got 0).2) := by
  induction sent generalizing got n with
  | nil => simp [loopRun]
  | cons x ss ih =>
    cases got with
    | nil => simp [loopRun]
    | cons c cs =>
      unfold loopRun
      split
      · rw [ih cs (n + 1), ih cs (0 + 1)]
        simp only [Prod.mk.injEq, and_true]
        omega
      · simp

theorem cameBack_succ {x : BitVec 9} {c : RxChar} {sent : List (BitVec 9)} {got : List RxChar} {k : Nat} :
    CameBack (x :: sent) (c :: got) (k + 1) ↔ CameBack sent got k := Iff.rfl

theorem cameBack_zero {x : BitVec 9} {c : RxChar} {sent : List (BitVec 9)} {got : List RxChar} :
    CameBack (x :: sent) (c :: got) 0 ↔ c.damaged = false ∧ c.data = x := by
  constructor
  · rintro ⟨_, _, ⟨⟩, ⟨⟩, h⟩
    exact h
  · exact fun h => ⟨x, c, rfl, rfl, h⟩

/-- Nothing is left to compare. -/
theorem compared_end {sent : List (BitVec 9)} {got : List RxChar} (h : sent = [] ∨ got = []) : Compared sent got 0 .none := by
  refine ⟨nofun, ?_, by simpa using h, fun hc => absurd rfl hc⟩
  rintro ⟨x, c, hx, hc, _⟩
  rcases h with rfl | rfl
  · exact nomatch hx
  · exact nomatch hc

/-- One more character in front that came back. -/
theorem Compared.cons {sent : List (BitVec 9)} {got : List RxChar} {n : Nat} {f : FirstFault} {x : BitVec 9} {c : RxChar}
    (h : Compared sent got n f) (hc : c.damaged = false ∧ c.data = x) : Compared (x :: sent) (c :: got) (n + 1) f := by
  refine ⟨fun k hk => ?_, h.stops, by simpa using h.noFault, h.fault⟩
  cases k with
  | zero => exact cameBack_zero.mpr hc
  | succ k => exact h.cameBack k (Nat.lt_of_succ_lt_succ hk)

/-- The first character is faulty. -/
theorem compared_fault {sent : List (BitVec 9)} {got : List RxChar} {f : FirstFault} {x : BitVec 9} {c : RxChar}
    (hd : damagesOf c x ≠ []) (hf : HasFault c x f) : Compared (x :: sent) (c :: got) 0 f :=
  ⟨nofun, fun hc => hd ((damagesOf_eq_nil c x).mpr (cameBack_zero.mp hc)), by simpa using hf.ne_none, fun _ => ⟨x, c, rfl, rfl, hf⟩⟩

theorem loopRun_compared (sent : List (BitVec 9)) (got : List RxChar) :
    Compared sent got (loopRun sent got 0).1 (loopRun sent got 0).2 := by
  induction sent generalizing got with
  | nil => exact compared_end (.inl rfl)
  | cons x ss ih =>
    cases got with
    | nil => exact compared_end (.inr rfl)
    | cons c cs =>
      unfold loopRun
      split
      next hd =>
        rw [loopRun_count]
        exact (ih cs).cons ((damagesOf_eq_nil c x).mp hd)
      next hd => exact compared_fault hd ((mem_damagesOf c x _).mp (reportedDamage_mem c hd))

/-! ## LINE_TEST (R46) -/

theorem exec_lineTest (tag : Half) (b : Byte) {s : State} (h : s.hears = true) :
    exec (.lineTest tag b) s = .next (finish s (lineTest tag b s.taken)) := congrArg Host.Outcome.next (commandRow_of_hears _ h)

theorem lineTest_range (tag : Half) {b : Byte} (s : State) (h : 4 ≤ b.toNat) :
    lineTest tag b s = complete tag 0x10 .range 0 0 0 s := by
  unfold lineTest
  rw [lineOf_none h]
  rfl

section
variable (tag : Half) {l : LineNo} {s : State}

theorem lineTest_busy (h : s.held (.line l) = true) :
    lineTest tag (BitVec.ofNat 8 l.val) s = complete tag 0x10 .busy 0 0 0 s := by
  unfold lineTest
  rw [lineOf_ofNat]
  exact if_pos h

variable (h : s.held (.line l) = false)
include h

theorem lineTest_disabled (he : s.lineEnabled l = false) :
    lineTest tag (BitVec.ofNat 8 l.val) s = complete tag 0x10 .disabled 0 0 0 s := by
  unfold lineTest
  rw [lineOf_ofNat]
  exact (if_neg (Bool.eq_false_iff.mp h)).trans (if_pos (by rw [he]; rfl))

theorem lineTest_accepted (he : s.lineEnabled l = true) :
    lineTest tag (BitVec.ofNat 8 l.val) s =
      (startLong 0x10 tag (.line l) s).setLn l { s.ln l with test := .pending } := by
  unfold lineTest
  rw [lineOf_ofNat]
  exact (if_neg (Bool.eq_false_iff.mp h)).trans (if_neg (by rw [he]; nofun))

end

/-! ## The test's end (R47) -/

section
variable {l : LineNo} {chars : List RawChar} {s : State} {n : Nat} {f : FirstFault}
  (hs : (s.ln l).state = .test) (hr : loopRun testChars (sampleChars chars) 0 = (n, f))
include hs hr

theorem testHeard_ends (h : f ≠ .none ∨ n = 69) : testHeard l chars s = testEnds l n f s := by
  unfold testHeard
  rw [if_pos hs, hr]
  exact if_pos (by rwa [length_testChars])

theorem testHeard_goesOn (hf : f = .none) (hn : n ≠ 69) : testHeard l chars s = s := by
  unfold testHeard
  rw [if_pos hs, hr]
  exact if_neg (by rw [length_testChars]; exact fun h => h.elim (· hf) hn)

theorem testWindow_missing (hf : f = .none) (hn : n < 69) : testWindow l chars s = testEnds l n .missing s := by
  unfold testWindow
  rw [if_pos hs, hr, length_testChars]
  exact congrArg (testEnds l n · s) (if_pos ⟨hf, hn⟩)

theorem testWindow_fault (hf : f ≠ .none) : testWindow l chars s = testEnds l n f s := by
  unfold testWindow
  rw [if_pos hs, hr]
  exact congrArg (testEnds l n · s) (if_neg fun h => hf h.1)

end

theorem testEnds_fault (l : LineNo) (n : Nat) {f : FirstFault} (s : State) (h : f ≠ .none) :
    testEnds l n f s = endLong (.line l) .done 2 (BitVec.ofNat 32 n) (f.code.setWidth 32)
      (s.setLn l { s.ln l with state := .free, test := .unset, window := none }) := by
  unfold testEnds
  rw [if_neg h]
  rfl

end Sys2Proof.Machine

open Sys2Proof.Machine in
/-- Settles O33: the telegram, the comparison of the characters (`loopRun_compared`), and the rows of the test. -/
theorem lineTestRuns : Obligations.LineTestRuns := by
  unfold Obligations.LineTestRuns
  refine ⟨?telegram, fun sent got n f h => ?compared, fun l chars s => ⟨fun hs tag => ⟨fun b hb => ?range, fun h => ?busy,
    fun h he => ?disabled, fun h he => ?accepted⟩, fun hm => ⟨?start, fun n f hs hr => ⟨fun h => ?heard, fun hf hn => ?goesOn,
    fun hf hn => ?missing, fun hf => ?fault⟩⟩⟩⟩
  case telegram =>
    refine (charsOf_eq 0 0x1F _).trans ?_
    rw [List.length_map, List.length_range]
    rfl
  case compared =>
    have hc := loopRun_compared sent got
    rw [h] at hc
    exact ⟨hc.cameBack, hc.stops, hc.noFault, hc.fault⟩
  case range => exact row_endsAs (exec_lineTest _ _ hs) (lineTest_range tag _ hb)
  case busy => exact row_endsAs (exec_lineTest _ _ hs) (lineTest_busy (s := s.taken) tag h)
  case disabled => exact row_endsAs (exec_lineTest _ _ hs) (lineTest_disabled (s := s.taken) tag h he)
  case accepted => exact row_endsAs (exec_lineTest _ _ hs) (lineTest_accepted (s := s.taken) tag h he)
  case start => exact plainRow_endsAs (f := testStart l) rfl hm rfl
  case heard => exact plainRow_endsAs (f := testHeard l chars) rfl hm (testHeard_ends hs hr h)
  case goesOn => exact plainRow_endsAs (f := testHeard l chars) rfl hm (testHeard_goesOn hs hr hf hn)
  case missing =>
    exact plainRow_endsAs (f := testWindow l chars) rfl hm ((testWindow_missing hs hr hf hn).trans (testEnds_fault l n s nofun))
  case fault =>
    exact plainRow_endsAs (f := testWindow l chars) rfl hm ((testWindow_fault hs hr hf).trans (testEnds_fault l n s hf))
end

section
/-! PROOF. The check words step by step (R192), the telegrams by kind (R29, R32, R100, R157, 11 §11.5), the characters on a line bit
by bit (R27, R28), and the obligation on the three. -/

namespace Sys2Proof.Machine

/-! ## The check words (R192) -/

/-- One shift of the 16-bit check register, and one of the 32-bit register. -/
def shift16 (r : Half) : Half := if r.getLsbD 15 then (r <<< 1) ^^^ 0x1021 else r <<< 1

def shift32 (r : Word) : Word := if r.getLsbD 0 then (r >>> 1) ^^^ 0xEDB88320 else r >>> 1

theorem crc16Shift_eq (n : Nat) (r : Half) : crc16Shift n r = Nat.iterate shift16 n r := by
  induction n generalizing r with
  | zero => rfl
  | succ n ih => exact ih (shift16 r)

theorem crc32Shift_eq (n : Nat) (r : Word) : crc32Shift n r = Nat.iterate shift32 n r := by
  induction n generalizing r with
  | zero => rfl
  | succ n ih => exact ih (shift32 r)

theorem crc16_append (l : List Byte) (b : Byte) :
    crc16 (l ++ [b]) = Nat.iterate shift16 8 (crc16 l ^^^ (b.setWidth 16 <<< 8)) := by
  unfold crc16
  rw [List.foldl_append]
  exact crc16Shift_eq 8 _

/-- The final inversion is undone before the register goes on. -/
theorem crc32_append (l : List Byte) (b : Byte) :
    crc32 (l ++ [b]) = ~~~(Nat.iterate shift32 8 (~~~(crc32 l) ^^^ b.setWidth 32)) := by
  unfold crc32 crc32Run
  rw [List.foldl_append, BitVec.not_not]
  exact congrArg (~~~ ·) (crc32Shift_eq 8 _)

/-! ## Telegrams (R29, R32, R100, R157) -/

theorem le32_eq (w : Word) :
    le32 w = [w.extractLsb' 0 8, w.extractLsb' 8 8, w.extractLsb' 16 8, w.extractLsb' 24 8] := by
  obtain ⟨h0, h1, h2, h3⟩ :=
    (wordOf_iff (w.setWidth 8) ((w >>> 8).setWidth 8) ((w >>> 16).setWidth 8) ((w >>> 24).setWidth 8) w).mp (wordAt_le32 w)
  unfold le32
  rw [h0, h1, h2, h3]

theorem recipeByte?_eq (r : Option RecipeNo) : recipeByte? r = (r.map fun r => BitVec.ofNat 8 r.val).getD 0xFF := by
  cases r <;> rfl

theorem streamTelegram_image {x : Stream} (fill : Option Fill) (h : x.kind = .image) :
    streamTelegram fill x = some (.imageBlock x.next x.data) := by
  unfold streamTelegram
  rw [h]

theorem streamTelegram_fill {x : Stream} {f : Fill} (h : x.kind = .fill) :
    streamTelegram (some f) x = some (.fillBlock f.recipe f.version x.next (decide (f.used ≤ 64 * x.next + 64))
      (if x.next = 0 then f.victim else none) ((f.data.drop (64 * x.next)).take (min 64 (f.used - 64 * x.next)))) := by
  unfold streamTelegram
  rw [h]
  rfl

/-! ## Ones counted -/

/-- Whether a list of bits holds an odd count of ones. -/
theorem foldl_xor_eq (f : Nat → Bool) (l : List Nat) (b : Bool) :
    l.foldl (fun p i => p ^^ f i) b = (b ^^ decide (l.countP f % 2 = 1)) := by
  induction l generalizing b with
  | nil => simp
  | cons a t ih =>
    rw [List.foldl_cons, ih, List.countP_cons, Bool.xor_assoc]
    congr 1
    rcases Nat.mod_two_eq_zero_or_one (t.countP f) with h | h <;> cases f a <;> simp [Nat.add_mod, h]

theorem oddOnes_eq {n : Nat} (v : BitVec n) : oddOnes v = decide ((List.range n).countP v.getLsbD % 2 = 1) := by
  rw [oddOnes, foldl_xor_eq, Bool.false_xor]

theorem countP_range_congr {n : Nat} {f g : Nat → Bool} (h : ∀ k, k < n → f k = g k) :
    (List.range n).countP f = (List.range n).countP g :=
  List.countP_congr fun k hk => by rw [h k (List.mem_range.mp hk)]

/-! ## A character sent (R27) -/

section
variable (c : BitVec 9)

/-- From the least significant end: the start bit, the data bits, the parity bit, the stop bit. -/
theorem frameChar_getLsbD (k : Nat) : (frameChar c).getLsbD k =
    if k < 1 then (0#1).getLsbD k else if k - 1 < 9 then c.getLsbD (k - 1)
    else if k - 1 - 9 < 1 then (BitVec.ofBool (oddOnes c)).getLsbD (k - 1 - 9) else (1#1).getLsbD (k - 1 - 9 - 1) := by
  refine (BitVec.getLsbD_append (x := (1#1 ++ BitVec.ofBool (oddOnes c)) ++ c) (y := 0#1)).trans ?_
  rw [BitVec.getLsbD_append, BitVec.getLsbD_append]

theorem frameChar_start : (frameChar c).getLsbD 0 = false := frameChar_getLsbD c 0

theorem frameChar_data {k : Nat} (h : k < 9) : (frameChar c).getLsbD (k + 1) = c.getLsbD k := by
  rw [frameChar_getLsbD, if_neg (by omega), Nat.add_sub_cancel, if_pos h]

theorem frameChar_parity : (frameChar c).getLsbD 10 = oddOnes c :=
  (frameChar_getLsbD c 10).trans (BitVec.getLsbD_ofBool _ 0)

theorem frameChar_stop : (frameChar c).getLsbD 11 = true := frameChar_getLsbD c 11

/-- The parity bit makes the ones even. -/
theorem frameChar_even : (List.range 10).countP (fun k => (frameChar c).getLsbD (k + 1)) % 2 = 0 := by
  have hdata : (List.range 9).countP (fun k => (frameChar c).getLsbD (k + 1)) = (List.range 9).countP c.getLsbD :=
    countP_range_congr fun k hk => frameChar_data c hk
  rw [List.range_succ, List.countP_append, List.countP_singleton, hdata, frameChar_parity, oddOnes_eq]
  rcases Nat.mod_two_eq_zero_or_one ((List.range 9).countP c.getLsbD) with h | h <;> simp [Nat.add_mod, h]

end

/-! ## A character received (R28) -/

section
variable (r : RawChar)

/-- The level heard for a bit: that of two of its three samples. -/
def heardBit (k : Nat) : Bool := decide (2 ≤ [r.s0, r.s1, r.s2].countP (fun v => v.getLsbD k))

theorem two_of_three : ∀ a b c : Bool, (a && b || a && c || b && c) = decide (2 ≤ [a, b, c].countP id) := by decide

theorem majority_getLsbD (k : Nat) : (majority r).getLsbD k = heardBit r k := by
  simp only [majority, BitVec.getLsbD_or, BitVec.getLsbD_and]
  exact two_of_three _ _ _

/-- The character that the receiver takes. -/
def receivedChar : RxChar :=
  { data := (majority r).extractLsb' 1 9, noise := r.s0 != r.s1 || r.s1 != r.s2,
    parity := oddOnes ((majority r).extractLsb' 1 10), framing := !(majority r).getLsbD 11 }

theorem sampleChar_eq : sampleChar r = if heardBit r 0 then none else some (receivedChar r) := by
  rw [← majority_getLsbD]
  rfl

theorem received_data {k : Nat} (h : k < 9) : (receivedChar r).data.getLsbD k = heardBit r (k + 1) := by
  simp [receivedChar, h, majority_getLsbD, Nat.add_comm]

theorem received_noise :
    (receivedChar r).noise = true ↔ ∃ k, k < 12 ∧ ¬(r.s0.getLsbD k = r.s1.getLsbD k ∧ r.s1.getLsbD k = r.s2.getLsbD k) := by
  have hne (a b : BitVec 12) : a ≠ b ↔ ∃ k, k < 12 ∧ a.getLsbD k ≠ b.getLsbD k := by
    rw [Ne, BitVec.eq_of_getLsbD_eq_iff]
    push Not
    rfl
  simp only [receivedChar, Bool.or_eq_true, bne_iff_ne, hne]
  constructor
  · rintro (⟨k, hk, h⟩ | ⟨k, hk, h⟩)
    · exact ⟨k, hk, fun hc => h hc.1⟩
    · exact ⟨k, hk, fun hc => h hc.2⟩
  · rintro ⟨k, hk, h⟩
    exact (not_and_or.mp h).imp (fun h => ⟨k, hk, h⟩) fun h => ⟨k, hk, h⟩

theorem received_parity : (receivedChar r).parity = true ↔ (List.range 10).countP (fun k => heardBit r (k + 1)) % 2 = 1 := by
  have hbits : (List.range 10).countP ((majority r).extractLsb' 1 10).getLsbD =
      (List.range 10).countP fun k => heardBit r (k + 1) :=
    countP_range_congr fun k hk => by simp [hk, majority_getLsbD, Nat.add_comm]
  rw [receivedChar, oddOnes_eq, hbits, decide_eq_true_eq]

theorem received_framing : (receivedChar r).framing = true ↔ heardBit r 11 = false := by
  rw [receivedChar, majority_getLsbD, Bool.not_eq_true']

end

theorem RxChar.damaged_iff (c : RxChar) : c.damaged = true ↔ c.noise = true ∨ c.parity = true ∨ c.framing = true := by
  simp [RxChar.damaged, or_assoc]

/-- Three samples in agreement are the level itself. -/
theorem heardBit_clean (w : BitVec 12) (k : Nat) : heardBit ⟨w, w, w⟩ k = w.getLsbD k := by
  simp only [heardBit, List.countP_cons, List.countP_nil]
  cases w.getLsbD k <;> rfl

/-- What is sent is received as it was sent. -/
theorem sampleChar_frameChar (c : BitVec 9) :
    sampleChar ⟨frameChar c, frameChar c, frameChar c⟩ = some { data := c, noise := false, parity := false, framing := false } := by
  let r : RawChar := ⟨frameChar c, frameChar c, frameChar c⟩
  have hstart : heardBit r 0 = false := (heardBit_clean _ 0).trans (frameChar_start c)
  have hdata : (receivedChar r).data = c :=
    BitVec.eq_of_getLsbD_eq fun k hk => ((received_data r hk).trans (heardBit_clean _ _)).trans (frameChar_data c hk)
  have hnoise : (receivedChar r).noise = false := by simp [receivedChar, r]
  have hparity : (receivedChar r).parity = false := by
    rw [Bool.eq_false_iff, Ne, received_parity]
    simp only [r, heardBit_clean, frameChar_even]
    decide
  have hframing : (receivedChar r).framing = false := by
    rw [Bool.eq_false_iff, Ne, received_framing, heardBit_clean, frameChar_stop]
    decide
  calc sampleChar r = some (receivedChar r) := by rw [sampleChar_eq, if_neg (Bool.eq_false_iff.mp hstart)]
    _ = some ⟨(receivedChar r).data, (receivedChar r).noise, (receivedChar r).parity, (receivedChar r).framing⟩ := rfl
    _ = some ⟨c, false, false, false⟩ := by rw [hdata, hnoise, hparity, hframing]

end Sys2Proof.Machine

open Sys2Proof.Machine in
/-- Settles O56: the telegrams by kind, the check words by one byte more, and the characters bit by bit. -/
theorem telegramsBuilt : Obligations.TelegramsBuilt := by
  unfold Obligations.TelegramsBuilt
  refine ⟨⟨fun q => charsOf_eq .., ⟨rfl, rfl⟩, ⟨rfl, rfl⟩, ⟨rfl, rfl⟩, fun serial drop => ?serial, ⟨rfl, rfl⟩, ⟨rfl, rfl⟩,
    ⟨rfl, rfl⟩, fun r v n last victim data => ?fillBlock, fun r => ⟨rfl, rfl⟩, ⟨rfl, rfl⟩, ⟨rfl, rfl⟩,
    fun token r v => ⟨⟨rfl, rfl⟩, ⟨rfl, rfl⟩⟩, fun why => ⟨rfl, rfl⟩, fun program threshold seconds => ?cleanGo,
    fun n data => ?imageBlock, fun level check => ?switch, fun x fill => ⟨streamTelegram_image fill, ?fillStream⟩,
    ⟨rfl, crc16_append, by decide +kernel⟩, ⟨rfl, crc32_append, by decide +kernel⟩⟩, fun c => ?sent, fun r => ?received, fun l => rfl⟩
  case serial => exact ⟨⟨rfl, congrArg (· ++ [drop]) (le32_eq serial)⟩, ⟨rfl, congrArg (· ++ [drop]) (le32_eq serial)⟩⟩
  case fillBlock =>
    refine ⟨rfl, ?_⟩
    rw [Telegram.payload, recipeByte?_eq]
    rfl
  case cleanGo =>
    refine ⟨rfl, ?_⟩
    rw [Telegram.payload, le16_eq, le16_eq]
    rfl
  case imageBlock =>
    refine ⟨rfl, ?_⟩
    rw [Telegram.payload, le16_eq]
    rfl
  case switch =>
    refine ⟨rfl, ?_⟩
    rw [Telegram.payload, le16_eq, le32_eq]
  case fillStream =>
    rintro f hk rfl
    exact streamTelegram_fill hk
  case sent =>
    exact ⟨frameChar_start c, frameChar_stop c, fun k hk => frameChar_data c hk, frameChar_even c, sampleChar_frameChar c⟩
  case received =>
    refine ⟨fun h => (sampleChar_eq r).trans (if_pos h), fun h => ?_⟩
    exact ⟨receivedChar r, (sampleChar_eq r).trans (if_neg (Bool.eq_false_iff.mp h)), fun k hk => received_data r hk, received_noise r,
      received_parity r, received_framing r, RxChar.damaged_iff _⟩
end

section
/-! PROOF. PUBLISH and WITHDRAW (R75, R81): their checks in turn, and what an accepted one does. -/

namespace Sys2Proof.Machine

theorem exec_publish (tag : Half) (b : Byte) {s : State} (h : s.hears = true) :
    exec (.publish tag b) s = .next (finish s (publish tag b s.taken)) := congrArg Host.Outcome.next (commandRow_of_hears _ h)

theorem exec_withdraw (tag : Half) (b : Byte) {s : State} (h : s.hears = true) :
    exec (.withdraw tag b) s = .next (finish s (withdraw tag b s.taken)) := congrArg Host.Outcome.next (commandRow_of_hears _ h)

/-! ## PUBLISH -/

/-- The state in which a PUBLISH has been accepted and its slot stands at the publish list's tail. -/
def State.publishing (s : State) (tag : Half) (r : RecipeNo) : State :=
  { startLong 0x20 tag (.recipe r) s with
    recipe := { s.recipe with
      slots := s.recipe.slots.set r { s.rslot r with publish := .reading }, publishList := s.recipe.publishList ++ [r] } }

section
variable (tag : Half) {r : RecipeNo} {s : State}

theorem publish_range {b : Byte} (h : 64 ≤ b.toNat) : publish tag b s = complete tag 0x20 .range 0 0 0 s := by
  unfold publish
  rw [recipeOf_none h]
  rfl

theorem publish_disabled (h : s.hasStore = false) :
    publish tag (recipeByte r) s = complete tag 0x20 .disabled 0 0 0 s := by
  unfold publish
  rw [recipeOf_recipeByte]
  exact if_pos (by rw [h]; rfl)

variable (hstore : s.hasStore = true)
include hstore

theorem publish_busy (h : s.held (.recipe r) = true ∨ (s.rslot r).publish ≠ .idle) :
    publish tag (recipeByte r) s = complete tag 0x20 .busy 0 0 0 s := by
  unfold publish
  rw [recipeOf_recipeByte]
  exact (if_neg (by simp [hstore])).trans (if_pos h)

variable (hfree : s.held (.recipe r) = false) (hidle : (s.rslot r).publish = .idle)
include hfree hidle

/-- What remains of the checks for a slot that no long command holds and no publish has. -/
theorem publish_free : publish tag (recipeByte r) s =
    if !(s.rslot r).written then complete tag 0x20 .state 0 0 0 s
    else if s.versionHeld r (nextVersion (s.rslot r).version) = true then complete tag 0x20 .busy 1 0 0 s
    else if s.recipe.engine.isNone then startEngine (s.publishing tag r) else s.publishing tag r := by
  unfold publish
  rw [recipeOf_recipeByte]
  exact (if_neg (by simp [hstore])).trans (if_neg (by simp [hfree, hidle]))

theorem publish_state (h : (s.rslot r).written = false) :
    publish tag (recipeByte r) s = complete tag 0x20 .state 0 0 0 s := by
  rw [publish_free tag hstore hfree hidle, if_pos (by rw [h]; rfl)]

theorem publish_versionHeld (hw : (s.rslot r).written = true)
    (h : s.versionHeld r (nextVersion (s.rslot r).version) = true) :
    publish tag (recipeByte r) s = complete tag 0x20 .busy 1 0 0 s := by
  rw [publish_free tag hstore hfree hidle, if_neg (by rw [hw]; decide), if_pos h]

theorem publish_accepted (hw : (s.rslot r).written = true)
    (h : s.versionHeld r (nextVersion (s.rslot r).version) = false) :
    publish tag (recipeByte r) s =
      if s.recipe.engine.isNone then startEngine (s.publishing tag r) else s.publishing tag r := by
  rw [publish_free tag hstore hfree hidle, if_neg (by rw [hw]; decide), if_neg (by rw [h]; decide)]

end

/-- R76: the engine takes the slot that is alone in the publish list. -/
theorem startEngine_publishing (tag : Half) {r : RecipeNo} {s : State} (h : s.recipe.publishList = []) :
    startEngine (s.publishing tag r) =
      { (startLong 0x20 tag (.recipe r) s) with
        recipe := { s.recipe with
          slots := s.recipe.slots.set r { s.rslot r with publish := .reading },
          publishList := [r],
          engine := some
            { recipe := r, base := bankAddr s.storeBase r (otherBank (s.rslot r).bank), issued := 0, taken := 0,
              header := none, reg := 0xFFFFFFFF } } } := by
  have hlist : (s.publishing tag r).recipe.publishList = [r] := by
    rw [State.publishing, h]
    rfl
  have hslot : (s.publishing tag r).rslot r = { s.rslot r with publish := .reading } := State.rslot_setRslot_self ..
  unfold startEngine
  rw [hlist]
  dsimp only
  rw [hslot, State.publishing, h]
  rfl

/-! ## WITHDRAW -/

section
variable (tag : Half) {r : RecipeNo} {s : State}

theorem withdraw_range {b : Byte} (h : 64 ≤ b.toNat) : withdraw tag b s = complete tag 0x21 .range 0 0 0 s := by
  unfold withdraw
  rw [recipeOf_none h]
  rfl

theorem withdraw_disabled (h : s.hasStore = false) :
    withdraw tag (recipeByte r) s = complete tag 0x21 .disabled 0 0 0 s := by
  unfold withdraw
  rw [recipeOf_recipeByte]
  exact if_pos (by rw [h]; rfl)

variable (hstore : s.hasStore = true)
include hstore

theorem withdraw_busy (h : s.held (.recipe r) = true ∨ (s.rslot r).publish ≠ .idle) :
    withdraw tag (recipeByte r) s = complete tag 0x21 .busy 0 0 0 s := by
  unfold withdraw
  rw [recipeOf_recipeByte]
  exact (if_neg (by simp [hstore])).trans (if_pos h)

/-- What remains of the checks for a slot that no long command holds and no publish has. -/
theorem withdraw_free (hfree : s.held (.recipe r) = false) (hidle : (s.rslot r).publish = .idle) :
    withdraw tag (recipeByte r) s =
      if (s.rslot r).state = .empty then complete tag 0x21 .state 0 0 0 s
      else complete tag 0x21 .done ((s.rslot r).version.setWidth 32) (BitVec.ofNat 32 (s.rslot r).pins) 0
        (staleRecipe r (s.setRslot r { s.rslot r with state := .empty })) := by
  unfold withdraw
  rw [recipeOf_recipeByte]
  exact (if_neg (by simp [hstore])).trans (if_neg (by simp [hfree, hidle]))

end

end Sys2Proof.Machine

open Sys2Proof.Machine in
/-- Settles O23: each check of PUBLISH and of WITHDRAW in turn, then the accepted command. -/
theorem publishAndWithdrawTaken : Obligations.PublishAndWithdrawTaken := by
  unfold Obligations.PublishAndWithdrawTaken
  refine ⟨fun tag s hs => ⟨fun b hb => ?range, fun r => ⟨fun hn => ?disabled, fun hst hb => ?busy, fun hst hf hi hw => ?state,
      fun hst hf hi hw hv => ?held, fun hst hf hi hw hv => ?accepted⟩⟩,
    fun tag s hs => ⟨fun b hb => ?wrange, fun r => ⟨fun hn => ?wdisabled, fun hst hb => ?wbusy, fun hst hf hi he => ?wstate,
      fun hst hf hi he => ?wdone⟩⟩⟩
  case range => exact row_endsAs (exec_publish _ _ hs) (publish_range tag hb)
  case disabled => exact row_endsAs (exec_publish _ _ hs) (publish_disabled tag hn)
  case busy => exact row_endsAs (exec_publish _ _ hs) (publish_busy (s := s.taken) tag hst hb)
  case state => exact row_endsAs (exec_publish _ _ hs) (publish_state (s := s.taken) tag hst hf hi hw)
  case held => exact row_endsAs (exec_publish _ _ hs) (publish_versionHeld (s := s.taken) tag hst hf hi hw hv)
  case accepted =>
    have haccepted := publish_accepted (s := s.taken) tag hst hf hi hw hv
    refine ⟨_, exec_publish _ _ hs, fun he => finish_endsAs ?_, fun he hl => finish_endsAs ?_⟩
    · exact haccepted.trans (if_neg fun hc => he (Option.isNone_iff_eq_none.mp hc))
    · exact haccepted.trans ((if_pos (Option.isNone_iff_eq_none.mpr he)).trans (startEngine_publishing (s := s.taken) tag hl))
  case wrange => exact row_endsAs (exec_withdraw _ _ hs) (withdraw_range tag hb)
  case wdisabled => exact row_endsAs (exec_withdraw _ _ hs) (withdraw_disabled tag hn)
  case wbusy => exact row_endsAs (exec_withdraw _ _ hs) (withdraw_busy (s := s.taken) tag hst hb)
  case wstate => exact row_endsAs (exec_withdraw _ _ hs) ((withdraw_free (s := s.taken) tag hst hf hi).trans (if_pos he))
  case wdone => exact row_endsAs (exec_withdraw _ _ hs) ((withdraw_free (s := s.taken) tag hst hf hi).trans (if_neg he))
end

section
/-! PROOF. The refusal of a start, whatever its reason (R92, R96): the oven, the answer and the telegrams, and what stays. -/

namespace Sys2Proof.Machine

/-! ## The EVICTs of a return to IDLE (R92) -/

/-- The directory once the evict-at-end entries have been sent EVICT. -/
def evictedDir (d : List DirEntry) : List DirEntry :=
  d.map (fun x => if x.evictAtEnd then { x with evictAtEnd := false, eviction := .outstanding } else x)

/-- The EVICTs of the evict-at-end entries of an oven. -/
def State.endEvicts (s : State) (i : Slot) : List Queued :=
  ((s.ent i).dir.filter (fun d => d.evictAtEnd)).map (fun d => s.telegramTo i .cache (.evict d.recipe))

/-- EVICTs to one oven, one after another. -/
def sendEvicts (i : Slot) (l : List DirEntry) (s : State) : State := l.foldl (fun s x => sendEvict i x.recipe s) s

theorem evictAtEnd_eq (i : Slot) (s : State) : evictAtEnd i s =
    sendEvicts i ((s.ent i).dir.filter (fun d => d.evictAtEnd)) (s.setEnt i { s.ent i with dir := evictedDir (s.ent i).dir }) :=
  rfl

section
variable (i : Slot) (l : List DirEntry) (s : State)

theorem sendEvicts_eq : sendEvicts i l s = { s with lines := (sendEvicts i l s).lines } := by
  induction l generalizing s with
  | nil => rfl
  | cons d t ih => exact ih (sendEvict i d.recipe s)

theorem sendEvicts_roster : (sendEvicts i l s).roster = s.roster := by
  rw [sendEvicts_eq]

theorem ln_sendEvicts (n : LineNo) : ∃ u w, (sendEvicts i l s).ln n = { s.ln n with urgent := u, waiting := w } := by
  induction l generalizing s with
  | nil => exact ⟨_, _, rfl⟩
  | cons d t ih =>
    obtain ⟨u, w, h⟩ := ih (sendEvict i d.recipe s)
    obtain ⟨u', w', h'⟩ := ln_queueUrgent (s.ent i).line (s.telegramTo i .cache (.evict d.recipe)) s n
    exact ⟨u, w, h.trans (congrArg (fun x : Line => { x with urgent := u, waiting := w }) h')⟩

theorem sendEvicts_waitingOn (h : s.OffersWaitInTurn (s.ent i).line) :
    (sendEvicts i l s).OffersWaitInTurn (s.ent i).line ∧
      (sendEvicts i l s).waitingOn (s.ent i).line =
        s.waitingOn (s.ent i).line ++ l.map (fun d => s.telegramTo i .cache (.evict d.recipe)) := by
  induction l generalizing s with
  | nil => exact ⟨h, (List.append_nil _).symm⟩
  | cons d t ih =>
    obtain ⟨hturn, hwait⟩ := ih (sendEvict i d.recipe s) (queueUrgent_offersWaitInTurn _ _ s h)
    refine ⟨hturn, hwait.trans ?_⟩
    rw [List.map_cons, List.append_cons]
    exact congrArg (· ++ _) (waitingOn_queueUrgent _ _ s h)

end

/-! ## The answer -/

theorem answerRefusal_denied {i : Slot} {p : PendingStart} {why : Reason} (s : State) (h : p.origin = .controller)
    (hw : why ≠ .line) : answerRefusal i p why s = endLong (.oven i) .denied (why.code.setWidth 32) 0 0 s := by
  unfold answerRefusal
  rw [h]
  exact if_neg hw

theorem answerRefusal_deny {i : Slot} {p : PendingStart} {why : Reason} (s : State) (h : p.origin ≠ .controller) :
    answerRefusal i p why s = sendTo i .cache (.deny why) s := by
  unfold answerRefusal
  split
  next hc => exact absurd hc h
  next => rfl

section
variable (i : Slot) (p : PendingStart) (why : Reason) (s : State)

theorem answerRefusal_frame : answerRefusal i p why s = { s with
    lines := (answerRefusal i p why s).lines, command := (answerRefusal i p why s).command } := by
  unfold answerRefusal
  split
  · split <;> rw [endLong_eq]
  · rfl

theorem ln_answerRefusal_any (n : LineNo) :
    ∃ u w, (answerRefusal i p why s).ln n = { s.ln n with urgent := u, waiting := w } := by
  unfold answerRefusal
  split
  · split
    · exact ⟨_, _, ln_endLong ..⟩
    · exact ⟨_, _, ln_endLong ..⟩
  · exact ln_queueUrgent ..

end

/-! ## The start as a whole -/

/-- The entry whose start has been refused. -/
def Entry.refused (e : Entry) : Entry :=
  { e with start := none, activity := .idle, abortMark := .unset, dir := evictedDir e.dir }

theorem refuseStart_none {i : Slot} {s : State} (why : Reason) (h : (s.ent i).start = none) : refuseStart i why s = s := by
  unfold refuseStart
  rw [h]

theorem refuseStart_some {i : Slot} {s : State} {p : PendingStart} (why : Reason) (h : (s.ent i).start = some p) :
    refuseStart i why s = answerRefusal i p why
      (sendEvicts i ((s.ent i).dir.filter (fun d => d.evictAtEnd)) (s.setEnt i (s.ent i).refused)) := by
  have hidle : toIdle i (s.modEnt i fun e => { e with start := none }) = s.setEnt i (s.ent i).unstarted := by
    rw [toIdle_eq, State.modEnt, State.ent_setEnt_self, State.setEnt_setEnt]
    rfl
  unfold refuseStart returnIdle
  rw [h]
  dsimp only
  rw [hidle, evictAtEnd_eq, State.ent_setEnt_self, State.setEnt_setEnt]
  rfl

section
variable (i : Slot) (why : Reason) (s : State)

/-- A refusal touches the oven, the lines and the command unit. -/
theorem refuseStart_frame : refuseStart i why s = { s with
    roster := (refuseStart i why s).roster, lines := (refuseStart i why s).lines,
    command := (refuseStart i why s).command } := by
  cases h : (s.ent i).start with
  | none => rw [refuseStart_none why h]
  | some p => rw [refuseStart_some why h, answerRefusal_frame, sendEvicts_eq]; rfl

theorem ln_refuseStart (n : LineNo) : ∃ u w, (refuseStart i why s).ln n = { s.ln n with urgent := u, waiting := w } := by
  cases h : (s.ent i).start with
  | none => exact ⟨_, _, by rw [refuseStart_none why h]⟩
  | some p =>
    rw [refuseStart_some why h]
    obtain ⟨u, w, ha⟩ := ln_answerRefusal_any i p why
      (sendEvicts i ((s.ent i).dir.filter (fun d => d.evictAtEnd)) (s.setEnt i (s.ent i).refused)) n
    obtain ⟨u', w', he⟩ := ln_sendEvicts i ((s.ent i).dir.filter (fun d => d.evictAtEnd)) (s.setEnt i (s.ent i).refused) n
    exact ⟨u, w, ha.trans (congrArg (fun x : Line => { x with urgent := u, waiting := w }) he)⟩

end

/-- What waits on the oven's line once the EVICTs are queued. -/
theorem refused_waitingOn {i : Slot} {s : State} (ht : s.OffersWaitInTurn (s.ent i).line) :
    let y := sendEvicts i ((s.ent i).dir.filter (fun d => d.evictAtEnd)) (s.setEnt i (s.ent i).refused)
    y.OffersWaitInTurn (s.ent i).line ∧ y.waitingOn (s.ent i).line = s.waitingOn (s.ent i).line ++ s.endEvicts i := by
  have hent : ((s.setEnt i (s.ent i).refused).ent i) = (s.ent i).refused := State.ent_setEnt_self ..
  have hline : ((s.setEnt i (s.ent i).refused).ent i).line = (s.ent i).line := by rw [hent]; rfl
  have htel (t : Telegram) : (s.setEnt i (s.ent i).refused).telegramTo i .cache t = s.telegramTo i .cache t := by
    unfold State.telegramTo
    rw [hent]
    rfl
  have h := sendEvicts_waitingOn i ((s.ent i).dir.filter (fun d => d.evictAtEnd)) (s.setEnt i (s.ent i).refused)
    (by rw [hline]; exact ht)
  rw [hline] at h
  simp only [htel] at h
  exact h

section
variable {i : Slot} {why : Reason} {s : State} {p : PendingStart} (hp : (s.ent i).start = some p)
include hp

theorem ent_refuseStart : (refuseStart i why s).ent i = (s.ent i).refused := by
  have hroster (y : State) : (answerRefusal i p why y).roster = y.roster := by rw [answerRefusal_frame]
  rw [refuseStart_some why hp, State.ent_congr (hroster _), State.ent_congr (sendEvicts_roster ..), State.ent_setEnt_self]

theorem refuseStart_denied (ho : p.origin = .controller) (hw : why ≠ .line) :
    (refuseStart i why s).command = (endLong (.oven i) .denied (why.code.setWidth 32) 0 0 s).command := by
  rw [refuseStart_some why hp, answerRefusal_denied _ ho hw]
  exact endLong_command_congr (by rw [sendEvicts_eq]; rfl)

theorem refuseStart_command (ho : p.origin ≠ .controller) : (refuseStart i why s).command = s.command := by
  rw [refuseStart_some why hp, answerRefusal_deny _ ho, sendTo_command, sendEvicts_eq]
  rfl

section
variable (ht : s.OffersWaitInTurn (s.ent i).line)
include ht

theorem refuseStart_denied_waitingOn (ho : p.origin = .controller) (hw : why ≠ .line) :
    (refuseStart i why s).waitingOn (s.ent i).line = s.waitingOn (s.ent i).line ++ s.endEvicts i := by
  rw [refuseStart_some why hp, answerRefusal_denied _ ho hw, ← (refused_waitingOn ht).2]
  exact waitingOn_congr (by rw [ln_endLong]) (by rw [ln_endLong])

/-- R92, R96: a panel is told behind the EVICTs (log 61). -/
theorem refuseStart_deny_waitingOn (ho : p.origin ≠ .controller) :
    (refuseStart i why s).waitingOn (s.ent i).line =
      s.waitingOn (s.ent i).line ++ s.endEvicts i ++ [s.telegramTo i .cache (.deny why)] := by
  obtain ⟨hturn, hwait⟩ := refused_waitingOn ht
  have hent : (sendEvicts i ((s.ent i).dir.filter (fun d => d.evictAtEnd)) (s.setEnt i (s.ent i).refused)).ent i =
      (s.ent i).refused := by
    rw [State.ent_congr (sendEvicts_roster ..), State.ent_setEnt_self]
  rw [refuseStart_some why hp, answerRefusal_deny _ ho, ← hwait]
  have h := waitingOn_sendTo i .cache (.deny why) _ (by rw [hent]; exact hturn) (s.ent i).line
  rw [if_pos (by rw [hent]; rfl)] at h
  refine h.trans (congrArg (fun q => _ ++ [q]) ?_)
  unfold State.telegramTo
  rw [hent]
  rfl

end
end
end Sys2Proof.Machine
end

section
/-! PROOF. Fills waiting on a free buffer (R78, R98): which of them registers, and what one that registers, is told to wait or is
refused comes to. -/

namespace Sys2Proof.Machine

theorem ableToRegister_iff (s : State) (w : FillWait) (r : RecipeNo) : s.ableToRegister w r = true ↔
    w.waiting = false ∧ ∀ d, (s.ent w.slot).dirEntry r = some d → d.eviction ≠ .outstanding := by
  unfold State.ableToRegister
  cases (s.ent w.slot).dirEntry r <;> simp

section
variable {l : LineNo} {w : FillWait} {rest : List FillWait} {s : State}

theorem registerFills_full (h : (s.ln l).fill ≠ none) : registerFills l (w :: rest) s = s := by
  unfold registerFills
  exact if_pos (Option.isSome_iff_ne_none.mpr h)

variable {p : PendingStart} (hp : (s.ent w.slot).start = some p) (hfill : (s.ln l).fill = none)
include hp hfill

/-- The first fill of the queue, on a free buffer. -/
theorem registerFills_cons : registerFills l (w :: rest) s =
    if s.ableToRegister w p.recipe = true then
      match (s.rslot p.recipe).state with
      | .empty => registerFills l rest (refuseStart w.slot .recipeAbsent (leaveFillQueue l w.slot s))
      | .quarantined => registerFills l rest (refuseStart w.slot .recipeQuarantined (leaveFillQueue l w.slot s))
      | .published =>
        if (s.rslot p.recipe).publish = .commitWait then registerFills l rest (waitFill l w.slot s)
        else grantFill l w.slot p.recipe s
    else registerFills l rest s := by
  have hfree : ¬(s.ln l).fill.isSome = true := by rw [hfill]; decide
  rw [registerFills, if_neg hfree, hp]
  dsimp only
  by_cases ha : s.ableToRegister w p.recipe = true
  · exact (if_neg (by rw [ha]; decide)).trans (if_pos ha).symm
  · exact (if_pos (by rw [Bool.eq_false_iff.mpr ha]; rfl)).trans (if_neg ha).symm

theorem registerFills_unable (h : ¬s.ableToRegister w p.recipe = true) : registerFills l (w :: rest) s = registerFills l rest s := by
  rw [registerFills_cons hp hfill, if_neg h]

variable (hable : s.ableToRegister w p.recipe = true)
include hable

theorem registerFills_granted (hs : (s.rslot p.recipe).state = .published) (hc : (s.rslot p.recipe).publish ≠ .commitWait) :
    registerFills l (w :: rest) s = grantFill l w.slot p.recipe s := by
  rw [registerFills_cons hp hfill, if_pos hable, hs]
  exact if_neg hc

theorem registerFills_told (hs : (s.rslot p.recipe).state = .published) (hc : (s.rslot p.recipe).publish = .commitWait) :
    registerFills l (w :: rest) s = registerFills l rest (waitFill l w.slot s) := by
  rw [registerFills_cons hp hfill, if_pos hable, hs]
  exact if_pos hc

theorem registerFills_absent (hs : (s.rslot p.recipe).state = .empty) :
    registerFills l (w :: rest) s = registerFills l rest (refuseStart w.slot .recipeAbsent (leaveFillQueue l w.slot s)) := by
  rw [registerFills_cons hp hfill, if_pos hable, hs]

theorem registerFills_quarantined (hs : (s.rslot p.recipe).state = .quarantined) :
    registerFills l (w :: rest) s =
      registerFills l rest (refuseStart w.slot .recipeQuarantined (leaveFillQueue l w.slot s)) := by
  rw [registerFills_cons hp hfill, if_pos hable, hs]

end

/-! ## A registration granted -/

section
variable (l : LineNo) (i : Slot) (r : RecipeNo) (s : State)

/-- R99: the fill that takes the buffer. -/
def State.newFill (s : State) (i : Slot) (r : RecipeNo) : Fill :=
  { slot := i, recipe := r, base := bankAddr s.storeBase r (s.rslot r).bank, version := (s.rslot r).version,
    used := (s.rslot r).used, check := (s.rslot r).check, issued := 0, data := [], streaming := false, victim := none,
    stale := false, abandoned := false, failed := false }

theorem ln_grantFill : (grantFill l i r s).ln l =
    { s.ln l with fill := some (s.newFill i r), fillQueue := (s.ln l).fillQueue.filter (fun w => w.slot != i) } := by
  simp only [grantFill, setStage, leaveFillQueue, setFill, State.ln_modEnt, State.ln_modLn_self, State.ln_modRslot, State.newFill]

theorem rslot_grantFill : (grantFill l i r s).rslot r = { s.rslot r with readers := (s.rslot r).readers + 1 } := by
  simp only [grantFill, setStage, leaveFillQueue, setFill, State.rslot_modEnt, State.rslot_modLn, State.rslot_modRslot_self]

theorem ent_grantFill {p : PendingStart} (hp : (s.ent i).start = some p) :
    (grantFill l i r s).ent i = { s.ent i with start := some { p with stage := .reading } } := by
  simp only [grantFill, setStage, leaveFillQueue, setFill, State.ent_modEnt_self, State.ent_modLn, State.ent_modRslot, hp,
    Option.map_some]

end

/-! ## What registrations leave -/

section
variable (l : LineNo) (s : State)

/-- Registrations touch the ovens, the lines, the readers of the recipe slots and the command unit. -/
theorem registerFills_frame (q : List FillWait) : registerFills l q s = { s with
    roster := (registerFills l q s).roster, lines := (registerFills l q s).lines, recipe := (registerFills l q s).recipe,
    command := (registerFills l q s).command } := by
  induction q generalizing s with
  | nil => rfl
  | cons w rest ih =>
    unfold registerFills
    split
    · rfl
    · split
      · exact ih s
      · split
        · exact ih s
        · split
          · rw [ih, refuseStart_frame]; rfl
          · rw [ih, refuseStart_frame]; rfl
          · split
            · exact ih _
            · rfl

theorem registerAll_frame : registerAll s = { s with
    roster := (registerAll s).roster, lines := (registerAll s).lines, recipe := (registerAll s).recipe,
    command := (registerAll s).command } := by
  unfold registerAll
  generalize lineNos = ls
  induction ls generalizing s with
  | nil => rfl
  | cons l t ih => rw [List.foldl_cons, ih, registerFills_frame]

theorem registerAll_empty (h : ∀ l : LineNo, (s.ln l).fillQueue = []) : registerAll s = s := by
  simp only [registerAll, lineNos, List.foldl_cons, List.foldl_nil, h, registerFills]

end
end Sys2Proof.Machine
end

section
/-! PROOF. Cleaning offers (R123, R124): which queue entry is offered next, and that offers end when no oven can be claimed. -/

namespace Sys2Proof.Machine

theorem claimable_iff (e : Entry) : e.claimable = true ↔ e.state = .inService ∧ e.activity = .idle ∧ e.offerOut = false := by
  simp [Entry.claimable, and_assoc]

/-! ## The next offer -/

/-- R123: a queue entry that can be offered. -/
def State.offerable (s : State) (w : CleanWait) : Bool := !w.idleWait && (s.ent w.slot).claimable

theorem offerable_iff (s : State) (w : CleanWait) : s.offerable w = true ↔ w.idleWait = false ∧
    (s.ent w.slot).state = .inService ∧ (s.ent w.slot).activity = .idle ∧ (s.ent w.slot).offerOut = false := by
  simp [State.offerable, claimable_iff]

section
variable {s : State}

theorem nextOffer_none (h : ∀ w ∈ s.hygiene.queue, ¬s.offerable w = true) : s.nextOffer = none := by
  refine List.find?_eq_none.mpr fun w hw => ?_
  have hmem : w ∈ s.hygiene.queue := by
    rcases List.mem_append.mp hw with hw | hw <;> exact (List.mem_filter.mp hw).1
  exact h w hmem

theorem nextOffer_claimable {w : CleanWait} (h : s.nextOffer = some w) : (s.ent w.slot).claimable = true := by
  have hw : s.offerable w = true := List.find?_some h
  exact (Bool.and_eq_true_iff.mp hw).2

/-- R123: an OVERDUE entry behind none such, or, where no OVERDUE one can be offered, one behind none at all. -/
theorem nextOffer_some {before after : List CleanWait} {w : CleanWait} (hq : s.hygiene.queue = before ++ w :: after)
    (hw : s.offerable w = true)
    (hbefore : ∀ v ∈ before, s.offerable v = true →
      (s.ent w.slot).level = .overdue ∧ ¬(s.ent v.slot).level = .overdue)
    (hafter : ∀ v ∈ after, s.offerable v = true → (s.ent v.slot).level = .overdue → (s.ent w.slot).level = .overdue) :
    s.nextOffer = some w := by
  have hfind : s.nextOffer = s.offerOrder.find? s.offerable := rfl
  have hnone {l : List CleanWait} {p : CleanWait → Bool} (h : ∀ v ∈ l, s.offerable v = true → p v = false) :
      (l.filter p).find? s.offerable = none := by
    refine List.find?_eq_none.mpr fun v hv ho => ?_
    obtain ⟨hmem, hp⟩ := List.mem_filter.mp hv
    rw [h v hmem ho] at hp
    exact Bool.false_ne_true hp
  rw [hfind, State.offerOrder, hq, List.find?_append, List.filter_append, List.find?_append, List.filter_append,
    List.find?_append]
  by_cases hl : (s.ent w.slot).level = .overdue
  · rw [hnone (l := before) (p := fun v => (s.ent v.slot).level == .overdue) fun v hv ho => by simpa using (hbefore v hv ho).2,
      List.filter_cons_of_pos (by simpa using hl), List.find?_cons_of_pos hw]
    rfl
  · rw [hnone (l := before) fun v hv ho => absurd (hbefore v hv ho).1 hl, List.filter_cons_of_neg (by simpa using hl),
      hnone (l := after) fun v hv ho => by simpa using fun hv' => hl (hafter v hv ho hv'),
      hnone (l := before) fun v hv ho => absurd (hbefore v hv ho).1 hl,
      List.filter_cons_of_pos (by simpa using hl), List.find?_cons_of_pos hw]
    rfl

end

/-! ## Offers one after another -/

theorem offersUpTo_none {s : State} (h : s.profile.maxCleaning ≤ s.capacityInUse ∨ s.nextOffer = none) (n : Nat) :
    offersUpTo n s = s := by
  cases n with
  | zero => rfl
  | succ n =>
    unfold offersUpTo
    split
    · next hc =>
      rw [h.resolve_left hc.not_ge]
    · rfl

theorem offersUpTo_some {s : State} {w : CleanWait} (hc : s.capacityInUse < s.profile.maxCleaning)
    (hw : s.nextOffer = some w) (n : Nat) : offersUpTo (n + 1) s = offersUpTo n (makeOffer w s) := by
  rw [offersUpTo, if_pos hc, hw]

/-- How many ovens can be claimed. -/
def State.claimables (s : State) : Nat := slots.countP (fun i => (s.ent i).claimable)

theorem ent_makeOffer (w : CleanWait) (s : State) (k : Slot) : (makeOffer w s).ent k =
    if k = w.slot then
      { s.ent k with offerOut := true, offer := some { program := w.program, origin := w.origin, queued := w.queued,
                                                        threshold := s.holdThreshold w.slot } }
    else s.ent k := by
  unfold makeOffer
  rw [ent_sendTo, State.ent_modEnt]
  split
  · next h => rw [h]
  · rfl

theorem claimables_makeOffer {w : CleanWait} {s : State} (h : (s.ent w.slot).claimable = true) :
    (makeOffer w s).claimables < s.claimables := by
  have hself : ((makeOffer w s).ent w.slot).claimable = false := by
    rw [ent_makeOffer, if_pos rfl]
    simp [Entry.claimable]
  have hother (k : Slot) (hk : ((makeOffer w s).ent k).claimable = true) : (s.ent k).claimable = true := by
    rw [ent_makeOffer] at hk
    split at hk
    · next he => rw [he]; exact h
    · exact hk
  have hpos : 0 < s.claimables := List.countP_pos_iff.mpr ⟨w.slot, mem_slots _, h⟩
  calc (makeOffer w s).claimables
      = (slots.erase w.slot).countP (fun k => ((makeOffer w s).ent k).claimable) := by
        rw [List.countP_erase, if_neg (by rw [hself]; simp), Nat.sub_zero]; rfl
    _ ≤ (slots.erase w.slot).countP (fun k => (s.ent k).claimable) := List.countP_mono_left fun k _ => hother k
    _ = s.claimables - 1 := by rw [List.countP_erase, if_pos ⟨mem_slots _, h⟩]; rfl
    _ < s.claimables := Nat.sub_one_lt_of_lt hpos

/-- Once no further oven can be claimed, more rounds offer nothing. -/
theorem offersUpTo_enough (n : Nat) : ∀ s : State, s.claimables ≤ n → offersUpTo (n + 1) s = offersUpTo n s := by
  induction n with
  | zero =>
    intro s h
    have hnone : s.nextOffer = none := by
      refine Option.eq_none_iff_forall_ne_some.mpr fun w hw => ?_
      have hpos : 0 < s.claimables := List.countP_pos_iff.mpr ⟨w.slot, mem_slots _, nextOffer_claimable hw⟩
      omega
    rw [offersUpTo_none (.inr hnone), offersUpTo_none (.inr hnone)]
  | succ n ih =>
    intro s h
    by_cases hc : s.capacityInUse < s.profile.maxCleaning
    · cases hw : s.nextOffer with
      | none => rw [offersUpTo_none (.inr hw), offersUpTo_none (.inr hw)]
      | some w =>
        have hless := claimables_makeOffer (nextOffer_claimable hw)
        rw [offersUpTo_some hc hw, offersUpTo_some hc hw, ih _ (by omega)]
    · rw [offersUpTo_none (.inl (Nat.le_of_not_lt hc)), offersUpTo_none (.inl (Nat.le_of_not_lt hc))]

theorem makeOffers_none {s : State} (h : s.profile.maxCleaning ≤ s.capacityInUse ∨ s.nextOffer = none) : makeOffers s = s :=
  offersUpTo_none h 16

theorem makeOffers_empty {s : State} (h : s.hygiene.queue = []) : makeOffers s = s :=
  makeOffers_none (.inr (nextOffer_none (by rw [h]; simp)))

/-- R123: after an offer, as many can follow as before it. -/
theorem makeOffers_some {s : State} {w : CleanWait} (hc : s.capacityInUse < s.profile.maxCleaning)
    (hw : s.nextOffer = some w) : makeOffers s = makeOffers (makeOffer w s) := by
  have hless := claimables_makeOffer (nextOffer_claimable hw)
  have hmax : s.claimables ≤ 16 := List.countP_le_length
  unfold makeOffers
  rw [offersUpTo_some hc hw, offersUpTo_enough 15 _ (by omega)]

/-- R14, R124: an offer to an oven with a calibration record. -/
theorem makeOffer_calibrated {w : CleanWait} {s : State} {c : Cal} (h : (s.ent w.slot).cal = some c) :
    makeOffer w s = sendTo w.slot .hygiene
      (.cleanGo w.program (c.threshold s.profile.holdTemp) (BitVec.ofNat 16 s.profile.holdSecs))
      (s.setEnt w.slot { s.ent w.slot with
        offerOut := true,
        offer := some { program := w.program, origin := w.origin, queued := w.queued,
                        threshold := c.threshold s.profile.holdTemp } }) := by
  have ht : s.holdThreshold w.slot = c.threshold s.profile.holdTemp := by rw [State.holdThreshold, h]
  unfold makeOffer
  rw [ht]
  rfl

theorem offersUpTo_update (n : Nat) : ∀ s : State, (offersUpTo n s).update = s.update := by
  induction n with
  | zero => exact fun _ => rfl
  | succ n ih =>
    intro s
    unfold offersUpTo
    split
    · split
      · exact ih _
      · rfl
    · rfl

theorem makeOffers_update (s : State) : (makeOffers s).update = s.update := offersUpTo_update 16 s

end Sys2Proof.Machine
end

section
/-! PROOF. Rollout picks (R156, R157) and a rollout's end (R165). -/

namespace Sys2Proof.Machine

/-! ## Picks -/

/-- The least slot with a property is the first that a search of all slots finds. -/
theorem find?_slots {p : Slot → Bool} {i : Slot} (hi : p i = true) (h : ∀ k < i, ¬p k = true) : slots.find? p = some i := by
  have hget : ∀ k : Slot, slots[k.val]? = some k := by decide
  have hi' := hget i
  obtain ⟨hlt, hgi⟩ := List.getElem?_eq_some_iff.mp hi'
  refine List.find?_eq_some_iff_getElem.mpr ⟨hi, i.val, hlt, hgi, fun j hj => ?_⟩
  have hk := hget ⟨j, hj.trans i.isLt⟩
  obtain ⟨_, hgk⟩ := List.getElem?_eq_some_iff.mp hk
  dsimp only at hgk
  rw [hgk, Bool.eq_false_iff.mpr (h ⟨j, hj.trans i.isLt⟩ hj)]
  rfl

/-- R156: an oven that a pick on this line can take. -/
def State.pickable (s : State) (l : LineNo) (k : Slot) : Bool :=
  s.onLine l k && (s.ent k).upd.state == .queued && (s.ent k).claimable

theorem pickable_iff (s : State) (l : LineNo) (k : Slot) : s.pickable l k = true ↔ s.onLine l k = true ∧
    (s.ent k).upd.state = .queued ∧ (s.ent k).state = .inService ∧ (s.ent k).activity = .idle ∧ (s.ent k).offerOut = false := by
  simp [State.pickable, claimable_iff, and_assoc]

theorem updState_onLine_iff (u : UpdState) : u.onLine = true ↔ u = .sending ∨ u = .switching := by
  cases u <;> decide

theorem lineUpdates_iff (s : State) (l : LineNo) : slots.any (fun i => s.onLine l i && (s.ent i).upd.state.onLine) = true ↔
    ∃ k : Slot, s.onLine l k = true ∧ ((s.ent k).upd.state = .sending ∨ (s.ent k).upd.state = .switching) := by
  simp [mem_slots, updState_onLine_iff]

section
variable {l : LineNo} {s : State}

theorem pickOn_inactive (h : s.update.rollout.state ≠ .active) : pickOn s l = s := if_pos (.inl h)

theorem pickOn_busy (h : ∃ k : Slot, s.onLine l k = true ∧ ((s.ent k).upd.state = .sending ∨ (s.ent k).upd.state = .switching)) :
    pickOn s l = s := if_pos (.inr ((lineUpdates_iff s l).mpr h))

theorem pickOn_none (h : ∀ k, ¬s.pickable l k = true) : pickOn s l = s := by
  have hfind : slots.find? (s.pickable l) = none := List.find?_eq_none.mpr fun k _ => h k
  unfold pickOn
  split
  · rfl
  · change (match slots.find? (s.pickable l) with | some i => takePick l i s | none => s) = s
    rw [hfind]

theorem pickOn_takes {i : Slot} (ha : s.update.rollout.state = .active)
    (hb : ¬∃ k : Slot, s.onLine l k = true ∧ ((s.ent k).upd.state = .sending ∨ (s.ent k).upd.state = .switching))
    (hi : s.pickable l i = true) (hk : ∀ k < i, ¬s.pickable l k = true) : pickOn s l = takePick l i s := by
  have hfind : slots.find? (s.pickable l) = some i := find?_slots hi hk
  have hopen : ¬(s.update.rollout.state ≠ .active ∨ slots.any (fun i => s.onLine l i && (s.ent i).upd.state.onLine) = true) := by
    rw [lineUpdates_iff]
    exact not_or.mpr ⟨not_not_intro ha, hb⟩
  unfold pickOn
  rw [if_neg hopen]
  change (match slots.find? (s.pickable l) with | some i => takePick l i s | none => s) = _
  rw [hfind]

end

theorem makePicks_inactive {s : State} (h : s.update.rollout.state ≠ .active) : makePicks s = s := by
  simp only [makePicks, lineNos, List.foldl_cons, List.foldl_nil, pickOn_inactive h]

/-! ## A pick taken -/

section
variable (l : LineNo) (i : Slot) (s : State)

/-- The reads of block 0: the second where the image goes on behind the first. -/
theorem blockReadsOf_zero (base : Word) (length : Nat) : blockReadsOf i base length 0 =
    { slot := i, addr := base } :: (if 32 < length then [{ slot := i, addr := base + 32 }] else []) := by
  simp [blockReadsOf, natWord]

theorem takePick_update : (takePick l i s).update = { s.update with
    blockReads := s.update.blockReads ++ blockReadsOf i s.imageBase s.update.rollout.length 0 } := rfl

theorem ln_beginBlock (n : Nat) : (beginBlock i n s).ln l = s.ln l := rfl

theorem ln_takePick : (takePick l i s).ln l = { s.ln l with
    streams := (s.ln l).streams.filter (fun z => z.kind == .fill) ++ (s.ln l).streams.filter (fun z => z.kind == .image) ++
      [{ kind := .image, slot := i, next := 0, ready := false, data := [], drop := false }] } := by
  rw [takePick, ln_beginBlock, placeStream, State.ln_modLn_self, State.ln_modEnt]
  simp

theorem ent_beginBlock (n : Nat) : (beginBlock i n s).ent i = { s.ent i with
    upd := { (s.ent i).upd with
      nextBlock := n, blockData := [], readsLeft := (blockReadsOf i s.imageBase s.update.rollout.length n).length } } :=
  State.ent_modEnt_self s i fun e => { e with
    upd := { e.upd with
      nextBlock := n, blockData := [], readsLeft := (blockReadsOf i s.imageBase s.update.rollout.length n).length } }

/-- R157: the entry of the oven picked. -/
theorem ent_takePick {d : Identity} (h : (s.ent i).identity = some d) : (takePick l i s).ent i = { s.ent i with
    activity := .updating,
    upd := { (s.ent i).upd with
      state := .sending, nextBlock := 0, switchQueued := false, stopMark := false, identAsked := false, failedIdents := 0,
      prevLevel := d.level, picked := s.report.clock, blockData := [],
      readsLeft := (blockReadsOf i s.imageBase s.update.rollout.length 0).length } } := by
  unfold takePick
  split
  next k hk =>
    obtain rfl : d = k := Option.some.inj (h.symm.trans hk)
    rw [ent_beginBlock, placeStream, State.ent_modLn, State.ent_modEnt_self]
    rfl
  next hn => exact absurd (hn.symm.trans h) (Option.some_ne_none d).symm

end

/-! ## The rollout's end -/

theorem rolloutLeft_iff (s : State) : s.rolloutLeft = true ↔
    ∃ k : Slot, (s.ent k).upd.state = .queued ∨ (s.ent k).upd.state = .sending ∨ (s.ent k).upd.state = .switching := by
  simp [State.rolloutLeft, mem_slots, updState_onLine_iff]

theorem endRollout_inactive {s : State} (ha : s.update.rollout.state ≠ .active) (hh : s.update.rollout.state ≠ .halting) :
    endRollout s = s := if_neg fun h => h.1.elim ha hh

theorem endRollout_left {s : State} (h : s.rolloutLeft = true) : endRollout s = s :=
  if_neg (by rw [h]; simp)

theorem endRollout_ends {s : State} {c : ResultCode} (hleft : ¬s.rolloutLeft = true)
    (hc : (s.update.rollout.state = .active ∧ c = ResultCode.done) ∨ (s.update.rollout.state = .halting ∧ c = .halted)) :
    endRollout s = endLong .image c (s.update.rollout.done.setWidth 32) (s.update.rollout.failed.setWidth 32)
      (s.update.rollout.skipped.setWidth 32)
      { s with update := { s.update with
        rollout := { s.update.rollout with state := .ended }, image := { s.update.image with state := .verified } } } := by
  have hends : (s.update.rollout.state = .active ∨ s.update.rollout.state = .halting) ∧ (!s.rolloutLeft) = true :=
    ⟨hc.imp And.left And.left, by rw [Bool.eq_false_iff.mpr hleft]; rfl⟩
  have hcode : (if s.update.rollout.state = .active then ResultCode.done else .halted) = c := by
    rcases hc with ⟨h, rfl⟩ | ⟨h, rfl⟩ <;> rw [h] <;> rfl
  unfold endRollout
  dsimp only
  rw [if_pos hends, hcode]
  rfl

end Sys2Proof.Machine
end

section
/-! PROOF. What an event settles: the order of offers and picks (R4, log 12), and the obligation as a whole. -/

namespace Sys2Proof.Machine

theorem claimsClash_iff (s offered picked : State) : s.claimsClash offered picked = true ↔
    ∃ i : Slot, (s.ent i).offerOut = false ∧ (s.ent i).activity = .idle ∧ (offered.ent i).offerOut = true ∧
      (picked.ent i).activity = .updating := by
  simp only [State.claimsClash, List.any_eq_true, mem_slots, true_and, Bool.and_eq_true, Bool.not_eq_true', beq_iff_eq]
  exact exists_congr fun i => by tauto

section
variable {s : State}

theorem makeClaims_apart (h : ¬s.claimsClash (makeOffers s) (makePicks s) = true) : makeClaims s = makePicks (makeOffers s) :=
  if_neg h

theorem makeClaims_clash (h : s.claimsClash (makeOffers s) (makePicks s) = true) :
    makeClaims s = makePicks (makeOffers { s with freeCount := s.freeCount + 1 }) ∨
      makeClaims s = makeOffers (makePicks { s with freeCount := s.freeCount + 1 }) := by
  unfold makeClaims
  dsimp only
  rw [if_pos h]
  split
  · exact .inl rfl
  · exact .inr rfl

theorem makeClaims_noOffers (h : makeOffers s = s) : makeClaims s = makePicks s := by
  have hapart : ¬s.claimsClash (makeOffers s) (makePicks s) = true := by
    rw [h, claimsClash_iff]
    rintro ⟨i, hf, -, ht, -⟩
    rw [hf] at ht
    exact Bool.false_ne_true ht
  rw [makeClaims_apart hapart, h]

theorem makeClaims_inactive (h : s.update.rollout.state ≠ .active) : makeClaims s = makeOffers s := by
  have hapart : ¬s.claimsClash (makeOffers s) (makePicks s) = true := by
    rw [makePicks_inactive h, claimsClash_iff]
    rintro ⟨i, -, hidle, -, hupdating⟩
    rw [hidle] at hupdating
    exact absurd hupdating (by decide)
  rw [makeClaims_apart hapart, makePicks_inactive (by rw [makeOffers_update]; exact h)]

/-- With no rollout on, an event settles its registrations and its offers. -/
theorem settle_inactive (ha : s.update.rollout.state ≠ .active) (hh : s.update.rollout.state ≠ .halting) :
    settle s = makeOffers (registerAll s) := by
  have hupd : (registerAll s).update = s.update := by rw [registerAll_frame]
  rw [settle, makeClaims_inactive (by rw [hupd]; exact ha),
    endRollout_inactive (by rw [makeOffers_update, hupd]; exact ha) (by rw [makeOffers_update, hupd]; exact hh)]

theorem settle_noOffers (h : makeOffers (registerAll s) = registerAll s) : settle s = endRollout (makePicks (registerAll s)) := by
  rw [settle, makeClaims_noOffers h]

end

end Sys2Proof.Machine

open Sys2Proof.Machine in
/-- Settles O36: `settle` part by part, and each part by its own lemmas. -/
theorem eventsSettle : Obligations.EventsSettle := by
  unfold Obligations.EventsSettle
  refine ⟨fun s => rfl, fun s => ⟨fun h => ?apart, fun h => ?clash⟩, fun s hf hq ha hh => ?nothing, fun s hq ha hh => ?fills,
    fun s hf ha hh => ?offers, fun s hf hq => ?picks, fun l w rest p s hp => ?register, fun s => ⟨fun h => ?noOffer,
      fun before w after hc hq hw hb ha => ?nextOffer, fun w c hcal => makeOffer_calibrated hcal⟩,
    fun l s => ⟨fun h => ?noPick, fun i d ha hb hi hk hd => ?pick⟩, fun s => ⟨fun h => ?goesOn, fun c hc hl => ?ends⟩⟩
  case apart => exact makeClaims_apart (fun hc => h ((claimsClash_iff ..).mp hc))
  case clash => exact makeClaims_clash ((claimsClash_iff ..).mpr h)
  case nothing => rw [settle_inactive ha hh, registerAll_empty s hf, makeOffers_empty hq]
  case fills =>
    rw [settle_inactive ha hh, makeOffers_empty (by rw [registerAll_frame]; exact hq)]
    rfl
  case offers => rw [settle_inactive ha hh, registerAll_empty s hf]
  case picks =>
    rw [settle_noOffers (by rw [registerAll_empty s hf, makeOffers_empty hq]), registerAll_empty s hf]
    rfl
  case register =>
    refine ⟨registerFills_full, fun hfree => ⟨fun hn => ?_, fun hable hs hc => ⟨?_, ?_, ?_⟩, fun hable hs hc => ?_,
      fun hable hs => ?_, fun hable hs => ?_⟩⟩
    · exact registerFills_unable hp hfree (fun hc => hn ((ableToRegister_iff ..).mp hc))
    · rw [registerFills_granted hp hfree ((ableToRegister_iff ..).mpr hable) hs hc, ln_grantFill, State.ln_setLn_self]
      rfl
    · rw [registerFills_granted hp hfree ((ableToRegister_iff ..).mpr hable) hs hc, rslot_grantFill]
    · rw [registerFills_granted hp hfree ((ableToRegister_iff ..).mpr hable) hs hc, ent_grantFill l w.slot _ s hp]
    · exact registerFills_told hp hfree ((ableToRegister_iff ..).mpr hable) hs hc
    · exact registerFills_absent hp hfree ((ableToRegister_iff ..).mpr hable) hs
    · exact registerFills_quarantined hp hfree ((ableToRegister_iff ..).mpr hable) hs
  case noOffer =>
    exact makeOffers_none (h.imp_right fun hn => nextOffer_none fun v hv ho => hn v hv ((offerable_iff s v).mp ho))
  case nextOffer =>
    exact makeOffers_some hc (nextOffer_some hq ((offerable_iff s w).mpr hw)
      (fun v hv ho => hb v hv ((offerable_iff s v).mp ho)) (fun v hv ho => ha v hv ((offerable_iff s v).mp ho)))
  case noPick =>
    rcases h with h | h | h
    · exact pickOn_inactive h
    · exact pickOn_busy h
    · exact pickOn_none fun k hk => h k ((pickable_iff s l k).mp hk)
  case pick =>
    have htakes : pickOn s l = takePick l i s :=
      pickOn_takes ha hb ((pickable_iff s l i).mpr hi) (fun k hlt hp => hk k hlt ((pickable_iff s l k).mp hp))
    rw [htakes]
    refine ⟨?_, ln_takePick l i s, ?_⟩
    · rw [ent_takePick l i s hd, blockReadsOf_zero]
      split <;> rfl
    · rw [takePick_update, blockReadsOf_zero]
  case goesOn =>
    rcases h with h | h
    · exact endRollout_inactive h.1 h.2
    · exact endRollout_left ((rolloutLeft_iff s).mpr h)
  case ends => exact endRollout_ends (fun h => hl ((rolloutLeft_iff s).mp h)) hc
end

section
/-! PROOF. What a commit or a withdrawal does to the copies of a recipe slot (R88-R90, R94): one oven, then all of them. -/

namespace Sys2Proof.Machine

/-! ## Recipes in use and versions held -/

theorem usesRecipe_iff (e : Entry) (r : RecipeNo) : e.usesRecipe r = true ↔
    (e.activity = .cooking ∧ ∃ k, e.cook = some k ∧ k.recipe = r) ∨
    (e.activity = .filling ∧ ∃ p, e.start = some p ∧ p.stage = .granting ∧ p.recipe = r) := by
  unfold Entry.usesRecipe
  cases ha : e.activity with
  | cooking => cases e.cook <;> simp
  | filling => cases e.start <;> simp
  | _ => simp

theorem mem_lineNos (l : LineNo) : l ∈ lineNos := by
  revert l
  decide

theorem versionHeld_iff (s : State) (r : RecipeNo) (v : Byte) : s.versionHeld r v = true ↔
    (∃ i : Slot, ∃ d ∈ (s.ent i).dir, d.recipe = r ∧ d.version = v) ∨
    (∃ (l : LineNo) (f : Fill), (s.ln l).fill = some f ∧ f.recipe = r ∧ f.version = v) ∨
    (∃ (i : Slot) (g : GrantRec), (s.ent i).grant = some g ∧ g.confirmed = false ∧ g.recipe = r ∧ g.version = v) := by
  simp only [State.versionHeld, Bool.or_eq_true, List.any_eq_true, mem_slots, mem_lineNos, true_and, Bool.and_eq_true,
    beq_iff_eq, or_assoc]
  refine or_congr Iff.rfl (or_congr (exists_congr fun l => ?_) (exists_congr fun i => ?_))
  · cases (s.ln l).fill <;> simp
  · cases (s.ent i).grant <;> simp [and_assoc]

/-- R94: what holds a version is the directories, the grants and, of the fills, the recipe slots and versions. -/
theorem versionHeld_congr {s t : State} (r : RecipeNo) (v : Byte) (hd : ∀ i : Slot, (t.ent i).dir = (s.ent i).dir)
    (hg : ∀ i : Slot, (t.ent i).grant = (s.ent i).grant)
    (hf : ∀ l : LineNo, (t.ln l).fill.map (fun f => (f.recipe, f.version)) = (s.ln l).fill.map (fun f => (f.recipe, f.version))) :
    t.versionHeld r v = s.versionHeld r v := by
  have hfill (y : State) (l : LineNo) : (∃ f, (y.ln l).fill = some f ∧ f.recipe = r ∧ f.version = v) ↔
      (y.ln l).fill.map (fun f => (f.recipe, f.version)) = some (r, v) := by simp
  rw [Bool.eq_iff_iff, versionHeld_iff, versionHeld_iff]
  simp only [hfill, hd, hg, hf]

/-! ## One oven -/

/-- A directory entry of a recipe slot that has been committed or withdrawn. -/
def DirEntry.staled (d : DirEntry) (used : Bool) : DirEntry :=
  if used then { d with stale := true, evictAtEnd := true } else { d with stale := true, eviction := .outstanding }

/-- A directory whose entries of one recipe slot have gone stale. -/
def Entry.staledDir (e : Entry) (r : RecipeNo) : List DirEntry :=
  e.dir.map (fun d => if d.recipe = r then d.staled (e.usesRecipe r) else d)

/-- R89: the oven is sent EVICT for a stale entry. -/
def Entry.sendsStale (e : Entry) (r : RecipeNo) : Bool :=
  !e.usesRecipe r && e.dir.any (fun d => d.recipe == r && d.eviction != .outstanding)

section
variable {r : RecipeNo} {s : State} {i : Slot}

theorem dirEntry_absent {e : Entry} (h : e.dirEntry r = none) : ∀ d ∈ e.dir, d.recipe ≠ r := by
  intro d hd
  simpa using List.find?_eq_none.mp h d hd

theorem dirEntry_present {e : Entry} {x : DirEntry} (h : e.dirEntry r = some x) : x ∈ e.dir ∧ x.recipe = r :=
  ⟨List.mem_of_find?_eq_some h, by simpa using List.find?_some h⟩

/-- In a directory without doubles, an entry of the slot is the one that a search finds. -/
theorem dirEntry_unique {e : Entry} {x d : DirEntry} (hd : DirDistinct e.dir) (h : e.dirEntry r = some x) (hm : d ∈ e.dir)
    (hr : d.recipe = r) : d = x := by
  obtain ⟨hx, hxr⟩ := dirEntry_present h
  have hsymm : Std.Symm fun a b : DirEntry => a.recipe ≠ b.recipe := ⟨fun _ _ => Ne.symm⟩
  by_contra hne
  exact List.Pairwise.forall hd hm hx hne (hr.trans hxr.symm)

theorem staledDir_absent {e : Entry} (h : e.dirEntry r = none) : e.staledDir r = e.dir := by
  unfold Entry.staledDir
  refine (List.map_congr_left fun d hd => if_neg (dirEntry_absent h d hd)).trans (List.map_id _)

theorem sendsStale_absent {e : Entry} (h : e.dirEntry r = none) : e.sendsStale r = false := by
  have hany : e.dir.any (fun d => d.recipe == r && d.eviction != .outstanding) = false := by
    rw [List.any_eq_false]
    intro d hd
    simp [dirEntry_absent h d hd]
  rw [Entry.sendsStale, hany, Bool.and_false]

theorem sendsStale_present {e : Entry} {x : DirEntry} (hd : DirDistinct e.dir) (h : e.dirEntry r = some x) :
    e.sendsStale r = (!e.usesRecipe r && x.eviction != .outstanding) := by
  obtain ⟨hx, hxr⟩ := dirEntry_present h
  have hany : e.dir.any (fun d => d.recipe == r && d.eviction != .outstanding) = (x.eviction != .outstanding) := by
    rw [Bool.eq_iff_iff, List.any_eq_true]
    refine ⟨fun ⟨d, hm, hp⟩ => ?_, fun hp => ⟨x, hx, by rw [hxr, hp]; simp⟩⟩
    obtain ⟨hr, hp⟩ := Bool.and_eq_true_iff.mp hp
    rwa [dirEntry_unique hd h hm (by simpa using hr)] at hp
  rw [Entry.sendsStale, hany]

/-- One oven at the notice: its entry for the slot, and the EVICT where one is due. -/
theorem staleAt_eq (hd : DirDistinct (s.ent i).dir) : staleAt r s i =
    if (s.ent i).sendsStale r then sendEvict i r (s.setEnt i { s.ent i with dir := (s.ent i).staledDir r })
    else s.setEnt i { s.ent i with dir := (s.ent i).staledDir r } := by
  unfold staleAt
  split
  next h => rw [sendsStale_absent h, staledDir_absent h]; exact (s.setEnt_ent i).symm
  next x h =>
    have hdir {f : DirEntry → DirEntry} (hf : f x = x.staled ((s.ent i).usesRecipe r)) :
        s.modDir i (mapDir r f) = s.setEnt i { s.ent i with dir := (s.ent i).staledDir r } := by
      have hmap : mapDir r f (s.ent i).dir = (s.ent i).staledDir r := by
        refine List.map_congr_left fun d hm => ?_
        split
        next hr => rw [dirEntry_unique hd h hm hr, hf]
        next => rfl
      rw [← hmap]
      rfl
    rw [sendsStale_present hd h]
    by_cases hu : (s.ent i).usesRecipe r = true
    · rw [if_pos hu, hdir (by rw [hu]; rfl), hu]
      rfl
    · rw [Bool.not_eq_true] at hu
      rw [hu] at hdir ⊢
      by_cases ho : x.eviction = .outstanding
      · rw [if_neg (by decide), if_pos ho, hdir (by simp [DirEntry.staled, ho.symm]), ho]
        rfl
      · rw [if_neg (by decide), if_neg ho, hdir rfl, if_pos (by simpa using ho)]

end

section
variable (r : RecipeNo) (s : State) (i : Slot)

theorem staleAt_frame : staleAt r s i = { s with roster := (staleAt r s i).roster, lines := (staleAt r s i).lines } := by
  unfold staleAt
  split
  · rfl
  · split
    · rfl
    · split <;> rfl

theorem ln_staleAt (n : LineNo) : ∃ u w, (staleAt r s i).ln n = { s.ln n with urgent := u, waiting := w } := by
  unfold staleAt
  split
  · exact ⟨_, _, rfl⟩
  · split
    · exact ⟨_, _, rfl⟩
    · split
      · exact ⟨_, _, rfl⟩
      · exact ln_queueUrgent ..

end

section
variable {r : RecipeNo} {s : State} {i : Slot} (hd : DirDistinct (s.ent i).dir)
include hd

theorem ent_staleAt_eq (k : Slot) : (staleAt r s i).ent k =
    if k = i then { s.ent k with dir := (s.ent k).staledDir r } else s.ent k := by
  have hent : (s.setEnt i { s.ent i with dir := (s.ent i).staledDir r }).ent k =
      if k = i then { s.ent k with dir := (s.ent k).staledDir r } else s.ent k := by
    rw [State.ent_setEnt]
    split
    next h => rw [h]
    next => rfl
  rw [staleAt_eq hd, ← hent]
  split <;> rfl

theorem staleAt_waitingOn {n : LineNo} (ht : s.OffersWaitInTurn n) :
    (staleAt r s i).OffersWaitInTurn n ∧ (staleAt r s i).waitingOn n =
      s.waitingOn n ++ if ((s.ent i).sendsStale r && (s.ent i).line == n) = true then [s.telegramTo i .cache (.evict r)] else [] := by
  rw [staleAt_eq hd]
  cases (s.ent i).sendsStale r with
  | false => exact ⟨ht, (List.append_nil _).symm⟩
  | true =>
    rw [if_pos rfl, Bool.true_and, sendEvict, sendTo_setEnt]
    by_cases hn : (s.ent i).line = n
    · subst hn
      rw [if_pos (beq_self_eq_true _)]
      exact ⟨queueUrgent_offersWaitInTurn _ _ _ ht, waitingOn_queueUrgent _ _ _ ht⟩
    · have hln := ln_queueUrgent_ne (l := (s.ent i).line) (n := n)
        (s.telegramTo i .cache (.evict r)) (s.setEnt i { s.ent i with dir := (s.ent i).staledDir r }) (Ne.symm hn)
      rw [if_neg (by simpa using hn), List.append_nil]
      exact ⟨(OffersWaitInTurn_congr (congrArg Line.urgent hln) (congrArg Line.waiting hln)).mpr ht,
        waitingOn_congr (congrArg Line.urgent hln) (congrArg Line.waiting hln)⟩

end

/-! ## All the ovens -/

theorem foldl_staleAt_frame (r : RecipeNo) (l : List Slot) (s : State) :
    l.foldl (staleAt r) s = { s with roster := (l.foldl (staleAt r) s).roster, lines := (l.foldl (staleAt r) s).lines } := by
  induction l generalizing s with
  | nil => rfl
  | cons i t ih => rw [List.foldl_cons, ih, staleAt_frame]

theorem ln_foldl_staleAt (r : RecipeNo) (l : List Slot) (s : State) (n : LineNo) :
    ∃ u w, (l.foldl (staleAt r) s).ln n = { s.ln n with urgent := u, waiting := w } := by
  induction l generalizing s with
  | nil => exact ⟨_, _, rfl⟩
  | cons i t ih =>
    obtain ⟨u, w, h⟩ := ih (staleAt r s i)
    obtain ⟨u', w', h'⟩ := ln_staleAt r s i n
    exact ⟨u, w, h.trans (congrArg (fun x : Line => { x with urgent := u, waiting := w }) h')⟩

section
variable {r : RecipeNo} {l : List Slot} {s : State} (hl : l.Nodup) (hd : ∀ i ∈ l, DirDistinct (s.ent i).dir)
include hl hd

theorem ent_foldl_staleAt (k : Slot) : (l.foldl (staleAt r) s).ent k =
    if k ∈ l then { s.ent k with dir := (s.ent k).staledDir r } else s.ent k := by
  induction l generalizing s with
  | nil => rfl
  | cons i t ih =>
    obtain ⟨hi, ht⟩ := List.nodup_cons.mp hl
    have hone := ent_staleAt_eq (r := r) (hd i List.mem_cons_self)
    have hrest (k : Slot) (hk : k ∈ t) : (staleAt r s i).ent k = s.ent k :=
      (hone k).trans (if_neg fun (h : k = i) => hi (h ▸ hk))
    rw [List.foldl_cons, ih ht fun k hk => by rw [hrest k hk]; exact hd k (List.mem_cons_of_mem _ hk)]
    by_cases hk : k ∈ t
    · rw [if_pos hk, if_pos (List.mem_cons_of_mem _ hk), hrest k hk]
    · rw [if_neg hk, hone k]
      by_cases hki : k = i
      · rw [if_pos hki, if_pos (hki ▸ List.mem_cons_self)]
      · rw [if_neg hki, if_neg (by simp [hki, hk])]

/-- R89: the EVICTs of one line are queued in the order of the ovens (log 32). -/
theorem foldl_staleAt_waitingOn {n : LineNo} (ht : s.OffersWaitInTurn n) : (l.foldl (staleAt r) s).waitingOn n =
    s.waitingOn n ++ (l.filter (fun i => (s.ent i).sendsStale r && (s.ent i).line == n)).map
      (fun i => s.telegramTo i .cache (.evict r)) := by
  induction l generalizing s with
  | nil => exact (List.append_nil _).symm
  | cons i t ih =>
    obtain ⟨hi, hnodup⟩ := List.nodup_cons.mp hl
    have hrest (k : Slot) (hk : k ∈ t) : (staleAt r s i).ent k = s.ent k :=
      (ent_staleAt_eq (r := r) (hd i List.mem_cons_self) k).trans (if_neg fun (h : k = i) => hi (h ▸ hk))
    obtain ⟨hturn, hwait⟩ := staleAt_waitingOn (r := r) (hd i List.mem_cons_self) ht
    have hfilter : t.filter (fun k => ((staleAt r s i).ent k).sendsStale r && ((staleAt r s i).ent k).line == n) =
        t.filter (fun k => (s.ent k).sendsStale r && (s.ent k).line == n) :=
      List.filter_congr fun k hk => by rw [hrest k hk]
    have hmap : (t.filter (fun k => (s.ent k).sendsStale r && (s.ent k).line == n)).map
          (fun k => (staleAt r s i).telegramTo k .cache (.evict r)) =
        (t.filter (fun k => (s.ent k).sendsStale r && (s.ent k).line == n)).map (fun k => s.telegramTo k .cache (.evict r)) :=
      List.map_congr_left fun k hk => by
        unfold State.telegramTo
        rw [hrest k (List.mem_filter.mp hk).1]
    rw [List.foldl_cons, ih hnodup (fun k hk => by rw [hrest k hk]; exact hd k (List.mem_cons_of_mem _ hk)) hturn, hwait,
      hfilter, hmap, List.append_assoc, List.filter_cons]
    split <;> rfl

end

/-! ## The notice as a whole -/

section
variable (r : RecipeNo) (s : State)

theorem staleRecipe_frame :
    staleRecipe r s = { s with roster := (staleRecipe r s).roster, lines := (staleRecipe r s).lines } := by
  unfold staleRecipe
  generalize slots = l
  rw [foldl_staleAt_frame]
  rfl

theorem ln_markFillsStale (n : LineNo) : (markFillsStale r s).ln n =
    { s.ln n with fill := (s.ln n).fill.map (fun f => if f.recipe = r then { f with stale := true } else f) } := by
  simp [markFillsStale, State.ln]

theorem ln_staleRecipe (n : LineNo) : ∃ u w, (staleRecipe r s).ln n = { s.ln n with
    urgent := u, waiting := w,
    fill := (s.ln n).fill.map (fun f => if f.recipe = r then { f with stale := true } else f) } := by
  obtain ⟨u, w, h⟩ := ln_foldl_staleAt r slots s n
  exact ⟨u, w, by rw [staleRecipe, ln_markFillsStale, h]⟩

theorem ent_staleRecipe_dir (k : Slot) : ∃ d, (staleRecipe r s).ent k = { s.ent k with dir := d } :=
  (FillWork.staleRecipe r s).ents k

variable {s} (hd : ∀ i : Slot, DirDistinct (s.ent i).dir)
include hd

theorem ent_staleRecipe (k : Slot) : (staleRecipe r s).ent k = { s.ent k with dir := (s.ent k).staledDir r } := by
  have hmark (y : State) : (markFillsStale r y).ent k = y.ent k := rfl
  rw [staleRecipe, hmark, ent_foldl_staleAt (by decide) (fun i _ => hd i), if_pos (mem_slots k)]

theorem staleRecipe_waitingOn {n : LineNo} (ht : s.OffersWaitInTurn n) : (staleRecipe r s).waitingOn n =
    s.waitingOn n ++ (slots.filter (fun i => (s.ent i).sendsStale r && (s.ent i).line == n)).map
      (fun i => s.telegramTo i .cache (.evict r)) := by
  rw [← foldl_staleAt_waitingOn (by decide) (fun i _ => hd i) ht, staleRecipe]
  exact waitingOn_congr (by rw [ln_markFillsStale]) (by rw [ln_markFillsStale])

end

end Sys2Proof.Machine
end

section
/-! PROOF. The commit of a slot (R79, R80, R89), refused or made, and the fall of its reader count (R78). -/

namespace Sys2Proof.Machine

/-! ## The notice reads neither the recipe unit nor the gates -/

/-- The state with another recipe unit and another cache unit. -/
def State.withRecipes (s : State) (u : RecipeUnit) (c : CacheUnit) : State := { s with recipe := u, cache := c }

section
variable (r : RecipeNo) (s : State) (u : RecipeUnit) (c : CacheUnit)

@[simp] theorem State.ent_withRecipes (i : Slot) : (s.withRecipes u c).ent i = s.ent i := rfl
@[simp] theorem State.ln_withRecipes (l : LineNo) : (s.withRecipes u c).ln l = s.ln l := rfl

theorem staleAt_withRecipes (i : Slot) : staleAt r (s.withRecipes u c) i = (staleAt r s i).withRecipes u c := by
  unfold staleAt
  rw [State.ent_withRecipes]
  split
  · rfl
  · split
    · rfl
    · split <;> rfl

theorem foldl_staleAt_withRecipes (l : List Slot) :
    l.foldl (staleAt r) (s.withRecipes u c) = (l.foldl (staleAt r) s).withRecipes u c := by
  induction l generalizing s with
  | nil => rfl
  | cons i t ih => rw [List.foldl_cons, List.foldl_cons, staleAt_withRecipes, ih]

theorem staleRecipe_withRecipes : staleRecipe r (s.withRecipes u c) = (staleRecipe r s).withRecipes u c := by
  have hmark (y : State) : markFillsStale r (y.withRecipes u c) = (markFillsStale r y).withRecipes u c := rfl
  rw [staleRecipe, foldl_staleAt_withRecipes, hmark]
  rfl

end

/-! ## Fills told to wait -/

theorem startsRecipe_eq (s : State) (r : RecipeNo) (i : Slot) :
    s.startsRecipe r i = (s.ent i).start.any (fun p => p.recipe == r) := by
  unfold State.startsRecipe
  cases (s.ent i).start <;> rfl

theorem ln_releaseWaits (r : RecipeNo) (s : State) (n : LineNo) : (releaseWaits r s).ln n = { s.ln n with
    fillQueue := (s.ln n).fillQueue.map (fun w =>
      if (s.ent w.slot).start.any (fun p => p.recipe == r) then { w with waiting := false } else w) } := by
  simp [releaseWaits, State.ln, startsRecipe_eq]

/-! ## The commit -/

/-- R80: a slot once what the engine computed has been committed. -/
def RecipeSlot.committed (q : RecipeSlot) (g : Staged) : RecipeSlot :=
  { q with
    bank := otherBank q.bank, version := nextVersion q.version, check := g.check, used := g.used, state := .published,
    written := false, publish := .idle, staged := none }

section
variable {r : RecipeNo} {s : State} {g : Staged} (hg : (s.rslot r).staged = some g)
include hg

theorem commit_refused (hv : s.versionHeld r (nextVersion (s.rslot r).version) = true) : commit r s =
    releaseWaits r (endLong (.recipe r) .busy 1 0 0 (s.setRslot r { s.rslot r with publish := .idle, staged := none })) := by
  unfold commit
  rw [hg]
  exact if_pos hv

/-- R80, R89: the slot, the gate, the copies and the fills told to wait; then the command completes. -/
theorem commit_made (hv : s.versionHeld r (nextVersion (s.rslot r).version) = false) : commit r s =
    endLong (.recipe r) .done ((nextVersion (s.rslot r).version).setWidth 32) (BitVec.ofNat 32 g.used) g.check
      (releaseWaits r ((staleRecipe r s).withRecipes (s.setRslot r ((s.rslot r).committed g)).recipe
        { s.cache with gates := s.cache.gates.set r (some g.gate) })) := by
  rw [← staleRecipe_withRecipes]
  unfold commit
  rw [hg]
  exact if_neg (by rw [hv]; decide)

end

/-! ## The commit refused -/

section
variable {r : RecipeNo} {s : State} {g : Staged} (hg : (s.rslot r).staged = some g)
  (hv : s.versionHeld r (nextVersion (s.rslot r).version) = true)
include hg hv

theorem commit_refused_rslot (q : RecipeNo) : (commit r s).rslot q =
    if q = r then { s.rslot r with publish := .idle, staged := none } else s.rslot q := by
  have hwaits (y : State) : (releaseWaits r y).rslot q = y.rslot q := rfl
  rw [commit_refused hg hv, hwaits, rslot_endLong, State.rslot_setRslot]

theorem commit_refused_command : (commit r s).command = (endLong (.recipe r) .busy 1 0 0 s).command := by
  rw [commit_refused hg hv]
  exact endLong_command_congr rfl

theorem commit_refused_units : (commit r s).roster = s.roster ∧ (commit r s).cache = s.cache := by
  have hwaits (y : State) : (releaseWaits r y).roster = y.roster ∧ (releaseWaits r y).cache = y.cache := ⟨rfl, rfl⟩
  rw [commit_refused hg hv, (hwaits _).1, (hwaits _).2, endLong_roster, endLong_cache]
  exact ⟨rfl, rfl⟩

theorem commit_refused_ln (n : LineNo) : (commit r s).ln n = { s.ln n with
    fillQueue := (s.ln n).fillQueue.map (fun w =>
      if (s.ent w.slot).start.any (fun p => p.recipe == r) then { w with waiting := false } else w) } := by
  rw [commit_refused hg hv, ln_releaseWaits]
  simp only [ln_endLong, ent_endLong, State.ln_setRslot, State.ent_setRslot]

end

/-! ## The commit made -/

section
variable {r : RecipeNo} {s : State} {g : Staged} (hg : (s.rslot r).staged = some g)
  (hv : s.versionHeld r (nextVersion (s.rslot r).version) = false)
include hg hv

theorem commit_made_rslot (q : RecipeNo) : (commit r s).rslot q =
    if q = r then (s.rslot r).committed g else s.rslot q := by
  have hslot (y : State) (c : CacheUnit) (z : State) : (releaseWaits r (y.withRecipes z.recipe c)).rslot q = z.rslot q := rfl
  rw [commit_made hg hv, rslot_endLong, hslot, State.rslot_setRslot]

theorem commit_made_command : (commit r s).command =
    (endLong (.recipe r) .done ((nextVersion (s.rslot r).version).setWidth 32) (BitVec.ofNat 32 g.used) g.check s).command := by
  rw [commit_made hg hv]
  refine endLong_command_congr ?_
  have hcommand (y : State) (u : RecipeUnit) (c : CacheUnit) : (releaseWaits r (y.withRecipes u c)).command = y.command := rfl
  rw [hcommand, staleRecipe_frame]

theorem commit_made_cache : (commit r s).cache = { s.cache with gates := s.cache.gates.set r (some g.gate) } := by
  rw [commit_made hg hv, endLong_cache]
  rfl

theorem commit_made_gate (q : RecipeNo) : (commit r s).gate q = if q = r then some g.gate else s.gate q := by
  unfold State.gate
  rw [commit_made_cache hg hv]
  simp only [Fin.getElem_fin, Vector.getElem_set, Fin.ext_iff, eq_comm]

theorem commit_made_roster : (commit r s).roster = (staleRecipe r s).roster := by
  have hroster (y : State) (u : RecipeUnit) (c : CacheUnit) : (releaseWaits r (y.withRecipes u c)).roster = y.roster := rfl
  rw [commit_made hg hv, endLong_roster, hroster]

theorem commit_made_ln (n : LineNo) : (commit r s).ln n = { (staleRecipe r s).ln n with
    fillQueue := (s.ln n).fillQueue.map (fun w =>
      if (s.ent w.slot).start.any (fun p => p.recipe == r) then { w with waiting := false } else w) } := by
  have hstart (i : Slot) : ((staleRecipe r s).ent i).start = (s.ent i).start := by
    obtain ⟨d, hd⟩ := ent_staleRecipe_dir r s i
    rw [hd]
  have hqueue : ((staleRecipe r s).ln n).fillQueue = (s.ln n).fillQueue := by
    obtain ⟨u, w, h⟩ := ln_staleRecipe r s n
    rw [h]
  rw [commit_made hg hv, ln_endLong, ln_releaseWaits]
  simp only [State.ln_withRecipes, State.ent_withRecipes, hstart, hqueue]

end

/-! ## The reader count -/

/-- The slot with one reader fewer. -/
def State.readerLeft (s : State) (r : RecipeNo) : State := s.setRslot r { s.rslot r with readers := (s.rslot r).readers - 1 }

/-- R79: the last reader of a slot in COMMIT_WAIT brings the commit. -/
theorem readerDone_eq (r : RecipeNo) (s : State) : readerDone r s =
    if (s.rslot r).publish = .commitWait ∧ (s.rslot r).readers ≤ 1 then commit r (s.readerLeft r) else s.readerLeft r := by
  by_cases h : (s.rslot r).publish = .commitWait ∧ (s.rslot r).readers ≤ 1
  · rw [if_pos h]
    exact readerDone_commit (by rw [not_or, not_not, Nat.not_lt]; exact h)
  · rw [if_neg h]
    exact readerDone_noCommit (by rw [← Nat.not_le]; exact not_and_or.mp h)

end Sys2Proof.Machine
end

section
/-! PROOF. The answers to a fill's reads (R78, R82, R99): the row, and the verdict on a whole recipe. -/

namespace Sys2Proof.Machine

/-! ## The row -/

/-- An ERROR offered to a capture record touches the path unit and the report writer. -/
theorem offerFault_frame (k : FaultCapture) (a : Word) (s : State) :
    offerFault k a s = { s with path := s.path.setCapture k ((s.path.capture k).offer a), report := (offerFault k a s).report } := by
  unfold offerFault
  dsimp only
  split
  · rw [setCaptures_eq]
  · rw [raiseEvent_eq, setCaptures_eq]

theorem offerFault_clock (k : FaultCapture) (a : Word) (s : State) : (offerFault k a s).report.clock = s.report.clock := by
  unfold offerFault
  dsimp only
  split
  · rw [setCaptures_eq]
  · rw [raiseEvent_clock, setCaptures_eq]

section
variable {l : LineNo} {r : MemRequest} {rest : List Issued} {s : State} (hm : s.mode = .running)
  (h : s.AnswerFor (.fill l) r rest)
include hm h

theorem exec_fillRead_ok {data : List Word} (hw : r.write = false) (hd : data.length = r.len) :
    exec (.fillReadAnswer l (.ok data)) s = .next (finish s (settle (fillAnswer l (some data) (s.answered rest)))) := by
  have hlen : data.length = MemRequest.answerLen r := by
    rw [MemRequest.answerLen, hw]
    exact hd
  have hrun : (s.answered rest).mode = .running := hm
  rw [exec_fillReadAnswer, takeAnswer_ok (own := fun o => o == .fill l) h (beq_self_eq_true _) hlen, settled_running _ hrun]

theorem exec_fillRead_error : exec (.fillReadAnswer l .error) s =
    .next (finish s (settle (fillAnswer l none (offerFault .recipe r.addr (s.answered rest))))) := by
  have hrun : (offerFault .recipe r.addr (s.answered rest)).mode = .running := by
    rw [offerFault_frame]
    exact hm
  have hoffer : offerOf { owner := .fill l, req := r, disregard := false } (s.answered rest) =
      offerFault .recipe r.addr (s.answered rest) := rfl
  rw [exec_fillReadAnswer, takeAnswer_error (own := fun o => o == .fill l) h (beq_self_eq_true _), hoffer, settled_running _ hrun]

end

/-! ## What an answer comes to -/

section
variable {l : LineNo} {f : Fill} {s : State} (hf : (s.ln l).fill = some f)
include hf

/-- An abandoned fill keeps what the answer brought, and reports when no other is to come. -/
theorem fillAnswer_abandoned (ha : f.abandoned = true) (data : Option (List Word)) :
    fillAnswer l data s = reportAbandoned l (s.setLn l { s.ln l with fill := some (f.keepAnswer data) }) := by
  unfold fillAnswer
  rw [hf]
  exact if_pos ha

variable (ha : f.abandoned = false)
include ha

theorem fillAnswer_error :
    fillAnswer l none s = fillVerdict l f .readError (disregardIssued (fun o => o == .fill l) s) := by
  unfold fillAnswer
  rw [hf]
  exact if_neg (by rw [ha]; decide)

variable {data : List Word}

theorem fillAnswer_partial (h : f.data.length + 4 * data.length < f.used) :
    fillAnswer l (some data) s = s.setLn l { s.ln l with fill := some { f with data := f.data ++ bytesOf data } } := by
  unfold fillAnswer
  rw [hf]
  exact (if_neg (by rw [ha]; decide)).trans (if_pos (by rw [List.length_append, length_bytesOf]; exact h))

theorem fillAnswer_whole (h : f.used ≤ f.data.length + 4 * data.length) :
    fillAnswer l (some data) s = fillVerdict l { f with data := f.data ++ bytesOf data }
      (if crc32 (f.data ++ bytesOf data) = f.check then .good else .mismatch) s := by
  unfold fillAnswer
  rw [hf]
  exact (if_neg (by rw [ha]; decide)).trans (if_neg (by rw [List.length_append, length_bytesOf]; exact h.not_gt))

end

/-! ## The verdict on a fill that its oven waits for -/

section
variable {l : LineNo} {f : Fill} {s : State}

theorem fillVerdict_good (ha : f.abandoned = false) : fillVerdict l f .good s = readerDone f.recipe (fillGood l f s) := by
  unfold fillVerdict
  dsimp only
  rw [if_neg (by rw [ha]; decide)]
  rfl

theorem fillVerdict_bad {v : Verdict} (ha : f.abandoned = false) (hv : v ≠ .good) :
    fillVerdict l f v s = readerDone f.recipe (fillBad l f (quarantine l f v s)) := by
  unfold fillVerdict
  dsimp only
  rw [if_neg (by rw [ha]; decide), if_neg hv, if_neg hv]

/-- R82: a check that holds, once the recipe is whole. -/
theorem fillAnswer_good {data : List Word} (hf : (s.ln l).fill = some f) (ha : f.abandoned = false)
    (h : f.used ≤ f.data.length + 4 * data.length) (hc : crc32 (f.data ++ bytesOf data) = f.check) :
    fillAnswer l (some data) s = readerDone f.recipe (fillGood l { f with data := f.data ++ bytesOf data } s) := by
  rw [fillAnswer_whole hf ha h, if_pos hc, fillVerdict_good (f := { f with data := f.data ++ bytesOf data }) ha]

/-- R82: a check that fails. -/
theorem fillAnswer_mismatch {data : List Word} (hf : (s.ln l).fill = some f) (ha : f.abandoned = false)
    (h : f.used ≤ f.data.length + 4 * data.length) (hc : crc32 (f.data ++ bytesOf data) ≠ f.check) :
    fillAnswer l (some data) s = readerDone f.recipe (fillBad l { f with data := f.data ++ bytesOf data }
      (quarantine l { f with data := f.data ++ bytesOf data } .mismatch s)) := by
  rw [fillAnswer_whole hf ha h, if_neg hc,
    fillVerdict_bad (f := { f with data := f.data ++ bytesOf data }) ha (v := .mismatch) (by decide)]

theorem fillAnswer_readError (hf : (s.ln l).fill = some f) (ha : f.abandoned = false) : fillAnswer l none s =
    readerDone f.recipe (fillBad l f (quarantine l f .readError (disregardIssued (fun o => o == .fill l) s))) := by
  rw [fillAnswer_error hf ha, fillVerdict_bad ha (by decide)]

/-- R99: a good recipe that the oven may have is streamed to it. -/
theorem fillGood_streams (h : (s.ent f.slot).gateRefusal (bufferGate f.data) = none) : fillGood l f s =
    placeStream l { kind := .fill, slot := f.slot, next := 0, ready := true, data := [], drop := false }
      (setStage f.slot .streaming
        (setFill l (some { f with streaming := true, victim := (s.ent f.slot).victim f.recipe }) s)) := by
  unfold fillGood
  rw [h]

theorem fillGood_refused {why : Reason} (h : (s.ent f.slot).gateRefusal (bufferGate f.data) = some why) :
    fillGood l f s = refuseStart f.slot why (setFill l none s) := by
  unfold fillGood
  rw [h]

variable (l f s)

/-- The verdict's work for the oven touches the oven, the lines and the command unit. -/
theorem fillGood_frame : fillGood l f s = { s with
    roster := (fillGood l f s).roster, lines := (fillGood l f s).lines, command := (fillGood l f s).command } := by
  cases h : (s.ent f.slot).gateRefusal (bufferGate f.data) with
  | none => rw [fillGood_streams h]; rfl
  | some why => rw [fillGood_refused h, refuseStart_frame]; rfl

theorem rslot_fillGood (r : RecipeNo) : (fillGood l f s).rslot r = s.rslot r := State.rslot_congr (by rw [fillGood_frame]) r

theorem fillBad_frame : fillBad l f s = { s with
    roster := (fillBad l f s).roster, lines := (fillBad l f s).lines, command := (fillBad l f s).command } := by
  unfold fillBad
  rw [refuseStart_frame]
  rfl

end

/-! ## A good recipe streamed -/

section
variable {l : LineNo} {f : Fill} {s : State} (h : (s.ent f.slot).gateRefusal (bufferGate f.data) = none)
include h

theorem ln_fillGood_streams : (fillGood l f s).ln l = { s.ln l with
    fill := some { f with streaming := true, victim := (s.ent f.slot).victim f.recipe },
    streams := (s.ln l).streams.filter (fun z => z.kind == .fill) ++
      { kind := .fill, slot := f.slot, next := 0, ready := true, data := [], drop := false } ::
        (s.ln l).streams.filter (fun z => z.kind == .image) } := by
  rw [fillGood_streams h, placeStream, State.ln_modLn_self, setStage, State.ln_modEnt, setFill, State.ln_modLn_self]
  simp

theorem ln_fillGood_ne {n : LineNo} (hn : n ≠ l) : (fillGood l f s).ln n = s.ln n := by
  rw [fillGood_streams h, placeStream, State.ln_modLn_ne _ _ _ _ hn, setStage, State.ln_modEnt, setFill,
    State.ln_modLn_ne _ _ _ _ hn]

theorem ent_fillGood_streams (k : Slot) : (fillGood l f s).ent k =
    if k = f.slot then { s.ent k with start := (s.ent k).start.map (fun p => { p with stage := .streaming }) } else s.ent k := by
  rw [fillGood_streams h, placeStream, State.ent_modLn, setStage, State.ent_modEnt, setFill]
  simp only [State.ent_modLn]
  split
  next hk => rw [hk]
  next => rfl

theorem fillGood_streams_command : (fillGood l f s).command = s.command := by
  rw [fillGood_streams h]
  rfl

/-- R94: the stream changes no version held. -/
theorem fillGood_versionHeld {e : Fill} (hf : (s.ln l).fill = some e) (hr : e.recipe = f.recipe) (hver : e.version = f.version)
    (r : RecipeNo) (v : Byte) : (fillGood l f s).versionHeld r v = s.versionHeld r v := by
  refine versionHeld_congr r v (fun i => ?_) (fun i => ?_) (fun n => ?_)
  · rw [ent_fillGood_streams h]
    split <;> rfl
  · rw [ent_fillGood_streams h]
    split <;> rfl
  · by_cases hn : n = l
    · rw [hn, ln_fillGood_streams h, hf]
      simp [hr, hver]
    · rw [ln_fillGood_ne h hn]

end

end Sys2Proof.Machine

open Sys2Proof.Machine in
/-- Settles O47: the commit refused and made, the reader count, the last reader's verdict, and the notice to every oven. -/
theorem commitMadeAndCopiesGoStale : Obligations.CommitMadeAndCopiesGoStale := by
  unfold Obligations.CommitMadeAndCopiesGoStale
  refine ⟨⟨fun r g s hg => ⟨fun q hq => ?other, fun hv => ?refused, fun hv => ?made⟩, fun r s => ⟨fun hr hp => ?commits, fun h => ?stays⟩,
    fun l m rest f data s hm ha hw hf hd hl hab hp hr hc hgate => ?verdict⟩, fun r s => ⟨fun i => usesRecipe_iff .., fun hd => ?copies,
      fun l => ?fills, ?_⟩⟩
  case other =>
    cases hv : s.versionHeld r (nextVersion (s.rslot r).version) with
    | true => rw [commit_refused_rslot hg hv, if_neg hq]
    | false => rw [commit_made_rslot hg hv, if_neg hq]
  case refused =>
    obtain ⟨hroster, hcache⟩ := commit_refused_units hg hv
    exact ⟨(commit_refused_rslot hg hv r).trans (if_pos rfl), commit_refused_command hg hv, hroster, hcache,
      commit_refused_ln hg hv⟩
  case made =>
    refine ⟨?_, commit_made_command hg hv, (commit_made_gate hg hv r).trans (if_pos rfl),
      fun q hq => (commit_made_gate hg hv q).trans (if_neg hq), by rw [commit_made_cache hg hv], commit_made_roster hg hv,
      commit_made_ln hg hv⟩
    have hbank : otherBank (s.rslot r).bank = 1 - (s.rslot r).bank := by
      generalize (s.rslot r).bank = b
      revert b
      decide
    rw [commit_made_rslot hg hv, if_pos rfl, RecipeSlot.committed, hbank]
    rfl
  case commits => exact (readerDone_eq r s).trans (if_pos ⟨hp, hr⟩)
  case stays => exact (readerDone_eq r s).trans (if_neg fun hc => h.elim hc.2.not_gt (absurd hc.1))
  case verdict =>
    let whole : Fill := { f with data := f.data ++ bytesOf data }
    let z := fillGood l whole (s.answered rest)
    have hgood : (((s.answered rest).ent whole.slot).gateRefusal (bufferGate whole.data)) = none := hgate
    have hslot : z.rslot f.recipe = s.rslot f.recipe := rslot_fillGood l whole (s.answered rest) f.recipe
    have hends : fillAnswer l (some data) (s.answered rest) = commit f.recipe (z.readerLeft f.recipe) := by
      rw [fillAnswer_good (s := s.answered rest) hf hab hl hc, readerDone_eq]
      exact if_pos ⟨by rw [hslot]; exact hp, by rw [hslot]; exact hr.le⟩
    refine ⟨_, z.readerLeft f.recipe, exec_fillRead_ok hm ha hw hd, finish_endsAs (congrArg settle hends), ?_,
      fillGood_streams_command hgood, fun v => ?_⟩
    · rw [State.readerLeft, State.rslot_setRslot_self, hslot, hr]
    · exact fillGood_versionHeld hgood hf rfl rfl f.recipe v
  case copies =>
    refine ⟨fun i => ?_, fun l ht => staleRecipe_waitingOn r hd ht⟩
    rw [ent_staleRecipe r hd]
    refine congrArg (fun d => ({ s.ent i with dir := d } : Entry)) (List.map_congr_left fun d _ => ?_)
    by_cases hr : d.recipe = r
    · rw [if_pos hr, if_neg (not_not_intro hr)]
      rfl
    · rw [if_neg hr, if_pos hr]
  case fills =>
    obtain ⟨u, w, h⟩ := ln_staleRecipe r s l
    rw [h]
  rw [staleRecipe_frame]
  exact ⟨rfl, rfl, rfl, rfl, rfl, rfl, rfl, rfl, fun v => versionHeld_iff ..⟩
end

section
/-! PROOF. What the verdict on a fill leaves (R78, R82, R92, R96, R99): the refused start, the quarantine, the recipe streamed. -/

namespace Sys2Proof.Machine

/-! ## The state in which an answer is taken -/

/-- `x` is `s` but for the path unit and the report writer, with the same site clock. -/
def AnswerIn (s x : State) : Prop := x = { s with path := x.path, report := x.report } ∧ x.report.clock = s.report.clock

theorem answerIn_answered (s : State) (rest : List Issued) : AnswerIn s (s.answered rest) := ⟨rfl, rfl⟩

theorem answerIn_fault (s : State) (rest : List Issued) (k : FaultCapture) (a : Word) :
    AnswerIn s (offerFault k a (s.answered rest)) := by
  refine ⟨?_, (offerFault_clock k a _).trans rfl⟩
  rw [offerFault_frame]
  rfl

theorem AnswerIn.disregard {s x : State} (h : AnswerIn s x) (p : IssueOwner → Bool) : AnswerIn s (disregardIssued p x) :=
  ⟨congrArg (disregardIssued p) h.1, h.2⟩

/-! ## The start refused -/

/-- R92, R96: the start of an oven has been refused, the EVICTs queued before the DENY (log 61). -/
def StartRefused (s : State) (i : Slot) (why : Reason) (y : State) : Prop :=
  ∀ p, (s.ent i).start = some p →
    y.ent i = (s.ent i).refused ∧
    (p.origin = .controller → y.command = (endLong (.oven i) .denied (why.code.setWidth 32) 0 0 s).command) ∧
    (s.OffersWaitInTurn (s.ent i).line →
      (p.origin = .controller → y.waitingOn (s.ent i).line = s.waitingOn (s.ent i).line ++ s.endEvicts i) ∧
      (p.origin ≠ .controller → y.command = s.command ∧
        y.waitingOn (s.ent i).line =
          s.waitingOn (s.ent i).line ++ s.endEvicts i ++ [s.telegramTo i .cache (.deny why)]))

theorem startRefused_refuseStart {i : Slot} {why : Reason} (s : State) (hw : why ≠ .line) :
    StartRefused s i why (refuseStart i why s) := fun _ hp =>
  ⟨ent_refuseStart hp, fun ho => refuseStart_denied hp ho hw, fun ht =>
    ⟨fun ho => refuseStart_denied_waitingOn hp ht ho hw, fun ho => ⟨refuseStart_command hp ho, refuseStart_deny_waitingOn hp ht ho⟩⟩⟩

/-- A refusal is one of the roster, the command unit and the telegrams: the rest of the state before it does not matter. -/
theorem StartRefused.of_alike {s x y : State} {i : Slot} {why : Reason} (h : StartRefused x i why y) (hr : x.roster = s.roster)
    (hc : x.command = s.command) (hl : ∀ n, ∃ f, x.ln n = { s.ln n with fill := f }) : StartRefused s i why y := by
  have hent : x.ent i = s.ent i := State.ent_congr hr i
  have hlines (n : LineNo) : (x.ln n).urgent = (s.ln n).urgent ∧ (x.ln n).waiting = (s.ln n).waiting := by
    obtain ⟨f, hf⟩ := hl n
    rw [hf]
    exact ⟨rfl, rfl⟩
  have hwait (n : LineNo) : x.waitingOn n = s.waitingOn n := waitingOn_congr (hlines n).1 (hlines n).2
  have hturn (n : LineNo) : x.OffersWaitInTurn n ↔ s.OffersWaitInTurn n := OffersWaitInTurn_congr (hlines n).1 (hlines n).2
  have htel (t : Telegram) : x.telegramTo i .cache t = s.telegramTo i .cache t := by
    unfold State.telegramTo
    rw [hent]
  have hend (c : ResultCode) (d : Word) : (endLong (.oven i) c d 0 0 x).command = (endLong (.oven i) c d 0 0 s).command :=
    endLong_command_congr hc
  unfold StartRefused State.endEvicts at h ⊢
  simpa only [hent, hwait, hturn, htel, hend, hc] using h

theorem setFill_alike (l : LineNo) (g : Option Fill) (s : State) (n : LineNo) : ∃ f, (setFill l g s).ln n = { s.ln n with fill := f } := by
  unfold setFill
  rw [State.ln_modLn]
  split
  next h => exact ⟨_, by rw [h]⟩
  next => exact ⟨_, rfl⟩

theorem fill_refuseStart (i : Slot) (why : Reason) (l : LineNo) (s : State) :
    ((refuseStart i why (setFill l none s)).ln l).fill = none ∧
      ((refuseStart i why (setFill l none s)).ln l).streams = (s.ln l).streams := by
  obtain ⟨u, w, h⟩ := ln_refuseStart i why (setFill l none s) l
  rw [h, setFill, State.ln_modLn_self]
  exact ⟨rfl, rfl⟩

theorem gateRefusal_ne_line {e : Entry} {g : Gate} {why : Reason} (h : e.gateRefusal g = some why) : why ≠ .line := by
  rintro rfl
  unfold Entry.gateRefusal at h
  split at h
  · exact absurd h (by decide)
  · split at h
    · exact absurd h (by decide)
    · split at h
      · exact absurd h (by decide)
      · exact absurd h (by decide)

/-! ## The quarantine -/

/-- R82: the slot of a corrupt recipe, with one reader fewer, and the call raised for it. -/
def RecipeCorrupt (s : State) (l : LineNo) (f : Fill) (code : Word) (y : State) : Prop :=
  y.rslot f.recipe = { s.rslot f.recipe with
    readers := (s.rslot f.recipe).readers - 1,
    state := if (s.rslot f.recipe).state = .published then .quarantined else (s.rslot f.recipe).state } ∧
  y.service = (raiseCall (.recipe f.recipe) .recipeCorrupt .urgent
    [f.version.setWidth 32, code, BitVec.ofNat 32 l.val] s).service

/-- The code that RECIPE_CORRUPT gives of a bad verdict (log 38). -/
def Verdict.callCode (v : Verdict) : Word := if v = .readError then Config.readErrorCode else Config.mismatchCode

section
variable (l : LineNo) (f : Fill) (v : Verdict) (s : State)

theorem quarantine_frame : quarantine l f v s = { s with
    recipe := (quarantine l f v s).recipe, service := (quarantine l f v s).service, report := (quarantine l f v s).report } := by
  unfold quarantine
  rw [raiseCall_eq]
  rfl

theorem rslot_quarantine : (quarantine l f v s).rslot f.recipe = { s.rslot f.recipe with
    state := if (s.rslot f.recipe).state = .published then .quarantined else (s.rslot f.recipe).state } := by
  unfold quarantine
  rw [rslot_raiseCall, State.rslot_modRslot_self]

theorem quarantine_service : (quarantine l f v s).service = (raiseCall (.recipe f.recipe) .recipeCorrupt .urgent
    [f.version.setWidth 32, v.callCode, BitVec.ofNat 32 l.val] s).service := raiseCall_service_congr rfl rfl rfl

end

section
variable {s x : State} (h : AnswerIn s x)
include h

theorem AnswerIn.mode : x.mode = s.mode := by rw [h.1]
theorem AnswerIn.freeCount : x.freeCount = s.freeCount := by rw [h.1]
theorem AnswerIn.roster : x.roster = s.roster := by rw [h.1]
theorem AnswerIn.lines : x.lines = s.lines := by rw [h.1]
theorem AnswerIn.recipe : x.recipe = s.recipe := by rw [h.1]
theorem AnswerIn.service : x.service = s.service := by rw [h.1]
theorem AnswerIn.command : x.command = s.command := by rw [h.1]

theorem AnswerIn.rslot (r : RecipeNo) : x.rslot r = s.rslot r := State.rslot_congr h.recipe r

theorem AnswerIn.ent (i : Slot) : x.ent i = s.ent i := State.ent_congr h.roster i

theorem AnswerIn.ln (l : LineNo) : x.ln l = s.ln l := State.ln_congr h.lines l

theorem AnswerIn.raiseCall_service (src : Source) (cause : Cause) (sev : Severity) (details : List Word) :
    (raiseCall src cause sev details x).service = (raiseCall src cause sev details s).service :=
  raiseCall_service_congr h.mode h.service h.2

/-- The slot and the calls after a quarantine, once the reader has left. -/
theorem AnswerIn.recipeCorrupt (l : LineNo) (f : Fill) (v : Verdict) {z : State} (hr : z.recipe = (quarantine l f v x).recipe)
    (hs : z.service = (quarantine l f v x).service) : RecipeCorrupt s l f v.callCode (z.readerLeft f.recipe) := by
  refine ⟨?_, ?_⟩
  · rw [State.readerLeft, State.rslot_setRslot_self, State.rslot_congr hr, rslot_quarantine, h.rslot]
  · exact hs.trans ((quarantine_service l f v x).trans (h.raiseCall_service ..))

end

/-! ## A bad verdict -/

/-- The state after a bad verdict on a fill that its oven waits for. -/
def State.afterBad (s : State) (l : LineNo) (f : Fill) (v : Verdict) : State :=
  (fillBad l f (quarantine l f v s)).readerLeft f.recipe

/-- Where the last reader of a slot in COMMIT_WAIT has left, the commit follows (R79). -/
def State.committing (s y : State) (r : RecipeNo) : State :=
  if (s.rslot r).publish = .commitWait ∧ (s.rslot r).readers ≤ 1 then commit r y else y

theorem readerDone_committing {s z : State} {r : RecipeNo} (hp : (z.rslot r).publish = (s.rslot r).publish)
    (hr : (z.rslot r).readers = (s.rslot r).readers) : readerDone r z = s.committing (z.readerLeft r) r := by
  rw [readerDone_eq, hp, hr]
  rfl

section
variable {s x : State} (h : AnswerIn s x) (l : LineNo) (f : Fill) (v : Verdict)
include h

theorem AnswerIn.readerDone_bad :
    readerDone f.recipe (fillBad l f (quarantine l f v x)) = s.committing (x.afterBad l f v) f.recipe := by
  have hslot : (fillBad l f (quarantine l f v x)).rslot f.recipe = { s.rslot f.recipe with
      state := if (s.rslot f.recipe).state = .published then .quarantined else (s.rslot f.recipe).state } := by
    rw [← h.rslot, ← rslot_quarantine l f v x]
    exact State.rslot_congr (by rw [fillBad_frame]) _
  exact readerDone_committing (by rw [hslot]) (by rw [hslot])

theorem AnswerIn.afterBad_taken : ((x.afterBad l f v).ln l).fill = none ∧ RecipeCorrupt s l f v.callCode (x.afterBad l f v) ∧
    StartRefused s f.slot .recipeQuarantined (x.afterBad l f v) ∧ (x.afterBad l f v).path = x.path := by
  refine ⟨(fill_refuseStart ..).1, h.recipeCorrupt l f v (by rw [fillBad_frame]) (by rw [fillBad_frame]), ?_, ?_⟩
  · have hrefused : StartRefused (setFill l none (quarantine l f v x)) f.slot .recipeQuarantined (x.afterBad l f v) :=
      startRefused_refuseStart (setFill l none (quarantine l f v x)) (by decide)
    refine hrefused.of_alike ?_ ?_ fun n => ?_
    · rw [setFill, State.modLn_roster, quarantine_frame, h.roster]
    · rw [setFill, State.modLn_command, quarantine_frame, h.command]
    · obtain ⟨g, hg⟩ := setFill_alike l none (quarantine l f v x) n
      have hln : (quarantine l f v x).ln n = s.ln n := (ln_raiseCall ..).trans (h.ln n)
      exact ⟨g, by rw [hg, hln]⟩
  · have hleft : (x.afterBad l f v).path = (fillBad l f (quarantine l f v x)).path := rfl
    rw [hleft, fillBad_path, quarantine_path]

end

/-! ## A good verdict -/

section
variable {l : LineNo} {f : Fill} (s : State) (rest : List Issued)

theorem readerDone_good : readerDone f.recipe (fillGood l f (s.answered rest)) =
    s.committing ((fillGood l f (s.answered rest)).readerLeft f.recipe) f.recipe := by
  have hslot : (fillGood l f (s.answered rest)).rslot f.recipe = s.rslot f.recipe := rslot_fillGood ..
  exact readerDone_committing (by rw [hslot]) (by rw [hslot])

theorem goodLeft_units : ((fillGood l f (s.answered rest)).readerLeft f.recipe).rslot f.recipe =
      { s.rslot f.recipe with readers := (s.rslot f.recipe).readers - 1 } ∧
    ((fillGood l f (s.answered rest)).readerLeft f.recipe).service = s.service := by
  have hslot : (fillGood l f (s.answered rest)).rslot f.recipe = s.rslot f.recipe := rslot_fillGood ..
  refine ⟨by rw [State.readerLeft, State.rslot_setRslot_self, hslot], ?_⟩
  have hleft (y : State) (r : RecipeNo) : (y.readerLeft r).service = y.service := rfl
  rw [hleft, fillGood_frame]
  rfl

/-- R99: the recipe is streamed, and the victim is chosen (R100, log 41). -/
theorem goodLeft_streams (h : (s.ent f.slot).gateRefusal (bufferGate f.data) = none) :
    (((fillGood l f (s.answered rest)).readerLeft f.recipe).ln l).fill =
        some { f with streaming := true, victim := (s.ent f.slot).victim f.recipe } ∧
      { kind := StreamKind.fill, slot := f.slot, next := 0, ready := true, data := [], drop := false } ∈
        (((fillGood l f (s.answered rest)).readerLeft f.recipe).ln l).streams ∧
      ((fillGood l f (s.answered rest)).readerLeft f.recipe).ent f.slot =
        { s.ent f.slot with start := (s.ent f.slot).start.map (fun p => { p with stage := .streaming }) } := by
  have hgate : ((s.answered rest).ent f.slot).gateRefusal (bufferGate f.data) = none := h
  have hln : ((fillGood l f (s.answered rest)).readerLeft f.recipe).ln l = (fillGood l f (s.answered rest)).ln l := rfl
  have hent : ((fillGood l f (s.answered rest)).readerLeft f.recipe).ent f.slot = (fillGood l f (s.answered rest)).ent f.slot :=
    rfl
  rw [hln, hent, ln_fillGood_streams hgate, ent_fillGood_streams hgate, if_pos rfl]
  exact ⟨rfl, List.mem_append_right _ List.mem_cons_self, rfl⟩

/-- R95, R99: the oven may not have the recipe. -/
theorem goodLeft_refused {why : Reason} (h : (s.ent f.slot).gateRefusal (bufferGate f.data) = some why) :
    (((fillGood l f (s.answered rest)).readerLeft f.recipe).ln l).fill = none ∧
      (((fillGood l f (s.answered rest)).readerLeft f.recipe).ln l).streams = (s.ln l).streams ∧
      StartRefused s f.slot why ((fillGood l f (s.answered rest)).readerLeft f.recipe) := by
  have hgate : ((s.answered rest).ent f.slot).gateRefusal (bufferGate f.data) = some why := h
  have hln : ((fillGood l f (s.answered rest)).readerLeft f.recipe).ln l = (fillGood l f (s.answered rest)).ln l := rfl
  rw [hln, fillGood_refused hgate]
  obtain ⟨hfill, hstreams⟩ := fill_refuseStart f.slot why l (s.answered rest)
  refine ⟨hfill, hstreams, ?_⟩
  have hrefused : StartRefused (setFill l none (s.answered rest)) f.slot why
      ((refuseStart f.slot why (setFill l none (s.answered rest))).readerLeft f.recipe) :=
    startRefused_refuseStart (setFill l none (s.answered rest)) (gateRefusal_ne_line h)
  exact hrefused.of_alike rfl rfl (setFill_alike l none (s.answered rest))

end

end Sys2Proof.Machine
end

section
/-! PROOF. The report of an abandoned fill at an answer (R78), and the obligation on the answers to a fill's reads. -/

namespace Sys2Proof.Machine

/-! ## The verdict that an abandoned fill reports -/

/-- R78: what the report of an abandoned fill leaves; `y` is the state in which the answer was taken. -/
structure FillReported (s : State) (l : LineNo) (kept : Fill) (y x : State) : Prop where
  fill     : (x.ln l).fill = none
  readers  : (x.rslot kept.recipe).readers = (s.rslot kept.recipe).readers - 1
  roster   : x.roster = s.roster
  command  : x.command = s.command
  good     : kept.failed = false → kept.used ≤ kept.data.length → crc32 kept.data = kept.check →
    x = (y.setLn l { s.ln l with fill := none }).setRslot kept.recipe
      { s.rslot kept.recipe with readers := (s.rslot kept.recipe).readers - 1 }
  failed   : kept.failed = true → RecipeCorrupt s l kept Config.readErrorCode x
  mismatch : kept.failed = false → kept.used ≤ kept.data.length → crc32 kept.data ≠ kept.check →
    RecipeCorrupt s l kept Config.mismatchCode x
  part     : kept.failed = false → kept.data.length < kept.used → x.freeCount = s.freeCount + 1

/-- The state after an abandoned fill has reported a verdict. -/
def State.reported (s : State) (l : LineNo) (f : Fill) (v : Verdict) : State := (s.verdictTaken l f v).readerLeft f.recipe

section
variable {s w : State} {l : LineNo} {kept : Fill} (v : Verdict)

theorem fillVerdict_reportedAs (ha : kept.abandoned = true) (hs : w.rslot kept.recipe = s.rslot kept.recipe) :
    fillVerdict l kept v w = s.committing (w.reported l kept v) kept.recipe := by
  have hslot := rslot_verdictTaken l kept v w
  rw [hs, RecipeSlot.afterVerdict] at hslot
  rw [fillVerdict_abandoned v w ha]
  refine readerDone_committing ?_ ?_
  · rw [hslot]
    split <;> rfl
  · rw [hslot]
    split <;> rfl

theorem reported_fill : ((w.reported l kept v).ln l).fill = none := by
  have hln : (w.reported l kept v).ln l = (w.verdictTaken l kept v).ln l := rfl
  rw [hln, ln_verdictTaken]
  exact if_pos rfl

theorem reported_readers : ((w.reported l kept v).rslot kept.recipe).readers = (w.rslot kept.recipe).readers - 1 := by
  rw [State.reported, State.readerLeft, State.rslot_setRslot_self, rslot_verdictTaken, RecipeSlot.afterVerdict]
  split <;> rfl

theorem reported_freeCount : (w.reported l kept v).freeCount = w.freeCount := by
  have hleft : (w.reported l kept v).freeCount = (if v = .good then w else quarantine l kept v w).freeCount := rfl
  rw [hleft]
  split
  · rfl
  · exact raiseCall_freeCount ..

end

section
variable {s y : State} {l : LineNo} {kept : Fill} (h : AnswerIn s y)
include h

theorem AnswerIn.reported_corrupt {v : Verdict} (hv : v ≠ .good) (g : Option Fill) :
    RecipeCorrupt s l kept v.callCode ((y.setLn l { s.ln l with fill := g }).reported l kept v) := by
  unfold State.reported State.verdictTaken
  rw [if_neg hv]
  refine ⟨?_, ?_⟩
  · rw [State.readerLeft, State.rslot_setRslot_self, setFill, State.rslot_modLn, rslot_quarantine, State.rslot_setLn, h.rslot]
  · exact (quarantine_service l kept v _).trans
      (raiseCall_service_congr h.mode h.service h.2)

theorem AnswerIn.reported_good (g : Option Fill) : (y.setLn l { s.ln l with fill := g }).reported l kept .good =
    (y.setLn l { s.ln l with fill := none }).setRslot kept.recipe
      { s.rslot kept.recipe with readers := (s.rslot kept.recipe).readers - 1 } := by
  have hgood : (y.setLn l { s.ln l with fill := g }).verdictTaken l kept .good = y.setLn l { s.ln l with fill := none } := by
    rw [State.verdictTaken, if_pos rfl, setFill, State.modLn, State.ln_setLn_self, State.setLn_setLn]
  rw [State.reported, hgood, State.readerLeft, State.rslot_setLn, h.rslot]

/-- What any verdict reported from the taken answer keeps. -/
theorem AnswerIn.reported_units (v : Verdict) {w : State} (hr : w.rslot kept.recipe = y.rslot kept.recipe)
    (ho : w.roster = y.roster) (hc : w.command = y.command) :
    ((w.reported l kept v).rslot kept.recipe).readers = (s.rslot kept.recipe).readers - 1 ∧
      (w.reported l kept v).roster = s.roster ∧ (w.reported l kept v).command = s.command := by
  refine ⟨by rw [reported_readers, hr, h.rslot], ?_, ?_⟩
  · exact (verdictTaken_roster l kept v w).trans (ho.trans h.roster)
  · exact (verdictTaken_command l kept v w).trans (hc.trans h.command)

variable (ha : kept.abandoned = true) (hs : kept.streaming = false)
include ha hs

/-- R78: no answer to come: the fill reports, and the commit that waited for it follows. -/
theorem AnswerIn.reportAbandoned_reports (hout : y.fillReadOut l = false) :
    ∃ x, reportAbandoned l (y.setLn l { s.ln l with fill := some kept }) = s.committing x kept.recipe ∧
      FillReported s l kept y x := by
  let z := y.setLn l { s.ln l with fill := some kept }
  have hfill : (z.ln l).fill = some kept := congrArg Line.fill (State.ln_setLn_self ..)
  have hslot : z.rslot kept.recipe = s.rslot kept.recipe := h.rslot _
  have hreports := Machine.reportAbandoned_reports hfill ha hs hout
  by_cases hfailed : kept.failed = true
  · obtain ⟨hreaders, hroster, hcommand⟩ := h.reported_units (l := l) (kept := kept) .readError (w := z) rfl rfl rfl
    refine ⟨z.reported l kept .readError, hreports.trans ((if_pos hfailed).trans (fillVerdict_reportedAs _ ha hslot)),
      reported_fill _, hreaders, hroster, hcommand, fun hn => ?_, fun _ => ?_, fun hn => ?_, fun hn => ?_⟩
    · exact absurd hfailed (by rw [hn]; decide)
    · exact h.reported_corrupt (v := .readError) (by decide) _
    · exact absurd hfailed (by rw [hn]; decide)
    · exact absurd hfailed (by rw [hn]; decide)
  · rw [if_neg hfailed] at hreports
    by_cases hwhole : kept.used ≤ kept.data.length
    · obtain ⟨hreaders, hroster, hcommand⟩ := h.reported_units (l := l) (kept := kept) kept.verdict (w := z) rfl rfl rfl
      refine ⟨z.reported l kept kept.verdict, hreports.trans ((if_pos hwhole).trans (fillVerdict_reportedAs _ ha hslot)),
        reported_fill _, hreaders, hroster, hcommand, fun _ _ hc => ?_, fun hf => absurd hf hfailed, fun _ _ hc => ?_,
        fun _ hp => absurd hwhole hp.not_ge⟩
      · have hv : kept.verdict = .good := if_pos hc
        rw [hv]
        exact h.reported_good _
      · have hv : kept.verdict = .mismatch := if_neg hc
        rw [hv]
        exact h.reported_corrupt (v := .mismatch) (by decide) _
    · rw [if_neg hwhole] at hreports
      let v : Verdict := if Config.partialFillGood z.freeCount then .good else .mismatch
      let w : State := { z with freeCount := z.freeCount + 1 }
      obtain ⟨hreaders, hroster, hcommand⟩ := h.reported_units (l := l) (kept := kept) v (w := w) rfl rfl rfl
      refine ⟨w.reported l kept v, hreports.trans (fillVerdict_reportedAs (w := w) v ha hslot),
        reported_fill _, hreaders, hroster, hcommand, fun _ hw => absurd hw hwhole, fun hf => absurd hf hfailed,
        fun _ hw => absurd hw hwhole, fun _ _ => ?_⟩
      rw [reported_freeCount]
      exact congrArg (· + 1) h.freeCount

end

/-! ## The row of an abandoned fill -/

section
variable {s y : State} {l : LineNo} {r : MemRequest} {rest : List Issued} {f kept : Fill} {a : MemAnswer}

/-- What is taken of an answer by a fill that its oven has left. -/
theorem abandonedRead (hm : s.mode = .running) (ha : s.AnswerFor (.fill l) r rest) (hw : r.write = false)
    (hf : (s.ln l).fill = some f) (hab : f.abandoned = true)
    (hy : (a = .error ∧ kept = { f with failed := true } ∧ y = offerFault .recipe r.addr (s.answered rest)) ∨
      (∃ data : List Word, a = .ok data ∧ data.length = r.len ∧ kept = { f with data := f.data ++ bytesOf data } ∧
        y = s.answered rest)) :
    exec (.fillReadAnswer l a) s =
        .next (finish s (settle (reportAbandoned l (y.setLn l { s.ln l with fill := some kept })))) ∧
      AnswerIn s y ∧ y.path.issued = rest := by
  have htaken {d : Option (List Word)} (h : AnswerIn s y) :
      fillAnswer l d y = reportAbandoned l (y.setLn l { s.ln l with fill := some (f.keepAnswer d) }) := by
    rw [fillAnswer_abandoned (f := f) (by rw [h.ln]; exact hf) hab, h.ln]
  rcases hy with ⟨rfl, rfl, rfl⟩ | ⟨data, rfl, hd, rfl, rfl⟩
  · have hin := answerIn_fault s rest .recipe r.addr
    exact ⟨(exec_fillRead_error hm ha).trans (by rw [htaken hin]; rfl), hin, by rw [offerFault_frame]; rfl⟩
  · have hin := answerIn_answered s rest
    exact ⟨(exec_fillRead_ok hm ha hw hd).trans (by rw [htaken hin]; rfl), hin, rfl⟩

end

end Sys2Proof.Machine

open Sys2Proof.Machine in
/-- Settles O48: the gate, the victim, and the answer by what it brings and by whether the fill's oven still waits for it. -/
theorem fillReadsAnswered : Obligations.FillReadsAnswered := by
  unfold Obligations.FillReadsAnswered
  refine ⟨fun _ => rfl, fun e g => ⟨e.gateRefusal_absent g, fun d hd => Entry.gateRefusal_of g hd⟩,
    fun e q => ⟨Entry.victim_none, fun before after d => Entry.victim_last⟩, fun l r rest f s hm ha hw hf =>
    ⟨fun data hd hab => ⟨fun hl => ?part, fun hl hc => ?good, fun hl hc => ?mismatch⟩, fun hab => ?error,
      fun a kept y hab hs hy => ?abandoned⟩⟩
  case part =>
    exact ⟨_, exec_fillRead_ok hm ha hw hd, finish_endsAs (congrArg settle (fillAnswer_partial (s := s.answered rest) hf hab hl))⟩
  case good =>
    have hends := (fillAnswer_good (s := s.answered rest) hf hab hl hc).trans (readerDone_good s rest)
    obtain ⟨hslot, hservice⟩ := goodLeft_units (l := l) (f := { f with data := f.data ++ bytesOf data }) s rest
    exact ⟨_, _, exec_fillRead_ok hm ha hw hd, finish_endsAs (congrArg settle hends), hslot, hservice,
      goodLeft_streams (f := { f with data := f.data ++ bytesOf data }) s rest,
      fun why hwhy => goodLeft_refused (f := { f with data := f.data ++ bytesOf data }) s rest hwhy⟩
  case mismatch =>
    have hin := answerIn_answered s rest
    have hends := (fillAnswer_mismatch (s := s.answered rest) hf hab hl hc).trans
      (hin.readerDone_bad l { f with data := f.data ++ bytesOf data } .mismatch)
    obtain ⟨hfill, hcorrupt, hrefused, -⟩ := hin.afterBad_taken l { f with data := f.data ++ bytesOf data } .mismatch
    exact ⟨_, _, exec_fillRead_ok hm ha hw hd, finish_endsAs (congrArg settle hends), hfill, hcorrupt, hrefused⟩
  case error =>
    have hin := answerIn_fault s rest .recipe r.addr
    have hin' := hin.disregard (fun o => o == .fill l)
    have hends := (fillAnswer_readError (s := offerFault .recipe r.addr (s.answered rest)) (by rw [hin.ln]; exact hf) hab).trans
      (hin'.readerDone_bad l f .readError)
    obtain ⟨hfill, hcorrupt, hrefused, hpath⟩ := hin'.afterBad_taken l f .readError
    refine ⟨_, _, exec_fillRead_error hm ha, finish_endsAs (congrArg settle hends), hfill, hcorrupt, hrefused, ?_, ?_⟩
    · rw [hpath, offerFault_frame]
      rfl
    · rw [hpath, offerFault_frame]
      rfl
  case abandoned =>
    obtain ⟨hexec, hin, hissued⟩ := abandonedRead hm ha hw hf hab hy
    refine ⟨fun hout => ⟨_, hexec, finish_endsAs (congrArg settle (reportAbandoned_waits fun _ _ _ _ => ?_))⟩, fun hnone => ?_⟩
    · rw [fillReadOut_iff]
      exact hissued ▸ hout
    · have hquiet : y.fillReadOut l = false := by
        rw [Bool.eq_false_iff, Ne, fillReadOut_iff, hissued]
        rintro ⟨q, hq, ho, hwanted⟩
        exact Bool.false_ne_true (hwanted.symm.trans (hnone q hq ho))
      have hkept : kept.abandoned = true ∧ kept.streaming = false ∧ kept.recipe = f.recipe ∧ kept.version = f.version ∧
          kept.used = f.used ∧ kept.check = f.check := by
        rcases hy with ⟨-, rfl, -⟩ | ⟨_, -, -, rfl, -⟩ <;> exact ⟨hab, hs, rfl, rfl, rfl, rfl⟩
      obtain ⟨hka, hks, hrecipe, hversion, hused, hcheck⟩ := hkept
      obtain ⟨x, hends, hreported⟩ := hin.reportAbandoned_reports hka hks hquiet
      have hcorrupt {code : BitVec 32} (h : RecipeCorrupt s l kept code x) : RecipeCorrupt s l f code x := by
        unfold RecipeCorrupt at h ⊢
        rwa [hrecipe, hversion] at h
      obtain ⟨hfill, hreaders, hroster, hcommand, hgood, hfailed, hmismatch, hpart⟩ := hreported
      rw [hrecipe] at hends hreaders hgood
      rw [hused, hcheck] at hgood hmismatch
      rw [hused] at hpart
      exact ⟨_, x, hexec, finish_endsAs (congrArg settle hends), hfill, hreaders, hroster, hcommand, hgood,
        fun h => hcorrupt (hfailed h), fun h hl hc => hcorrupt (hmismatch h hl hc), hpart⟩
end

section
/-! PROOF. Tables that hold nothing twice (R87, R117, R131, R172, R178). Owners' work is covered by `Work`; what is proved here is that the
rows that begin a long command, and those of the path unit, of the report writer, of start-up and of HRST, keep the same. -/

namespace Sys2Proof.Machine

/-- What `t` keeps of `s` inside an event. A raise that is still to be placed is one of RUNNING, where the end of the event places it
(`oweRewrites`). -/
structure Tidies (s t : State) : Prop where
  keys   : s.CallKeysDistinct → t.CallKeysDistinct
  queue  : s.QueuedOnce → t.QueuedOnce
  dirs   : s.DirsDistinct → t.DirsDistinct
  longs  : s.LongsDistinct → t.LongsDistinct
  list   : s.report.rewriteList.Nodup → t.report.rewriteList.Nodup
  raised : (s.report.summaryRaised = true → s.running = true) → t.report.summaryRaised = true → t.running = true
  runs   : s.running = true → t.running = true

theorem Tidies.refl (s : State) : Tidies s s := ⟨id, id, id, id, id, id, id⟩

theorem Tidies.trans {s t u : State} (h : Tidies s t) (k : Tidies t u) : Tidies s u :=
  ⟨k.keys ∘ h.keys, k.queue ∘ h.queue, k.dirs ∘ h.dirs, k.longs ∘ h.longs, k.list ∘ h.list, k.raised ∘ h.raised,
    k.runs ∘ h.runs⟩

theorem Tidies.foldl {α : Type} {f : State → α → State} (hf : ∀ s a, Tidies s (f s a)) (l : List α) :
    ∀ s, Tidies s (l.foldl f s) := by
  induction l with
  | nil => exact Tidies.refl
  | cons a t ih => exact fun s => (hf s a).trans (ih (f s a))

theorem withSite_nodup {l : List RewriteItem} (h : l.Nodup) : (withSite l).Nodup := by
  unfold withSite
  split
  · exact h
  · next hc => exact nodup_append_newlyOwed h ⟨by simp, by simpa using hc⟩

theorem Owes.nodup {s t : State} (h : Owes s t) (hs : s.report.rewriteList.Nodup) : t.report.rewriteList.Nodup := by
  rcases h.list with e | e <;> rw [e]
  exacts [hs, withSite_nodup hs]

/-- A raise is taken in RUNNING alone (R183, R190). -/
theorem Owes.raisedRunning {s t : State} (h : Owes s t) (hm : t.mode = s.mode)
    (hs : s.report.summaryRaised = true → s.running = true) (ht : t.report.summaryRaised = true) : t.running = true := by
  have hr : t.running = s.running := by simp [State.running, hm]
  rcases h.raises with ⟨_, _, e⟩ | ⟨hh, _⟩
  · rw [hr]; exact hs (e ▸ ht)
  · rw [hr]
    simp only [State.hears, Bool.and_eq_true] at hh
    exact hh.1

theorem Keeps.tidies {s t : State} (h : Keeps s t) : Tidies s t :=
  ⟨h.keys, h.queue, h.dirs, fun hl => hl.sublist h.longs, h.owes.nodup, h.owes.raisedRunning h.mode,
    by simp [State.running, h.mode]⟩

theorem Work.tidies {s t : State} (h : Work s t) : Tidies s t := h.keeps.tidies

/-- What `Tidies` reads of a state. -/
def State.tables (s : State) :
    List Call × List CleanWait × Vector Entry 16 × List Long × Mode × List RewriteItem × Bool :=
  (s.service.calls, s.hygiene.queue, s.roster, s.command.longs, s.mode, s.report.rewriteList, s.report.summaryRaised)

theorem State.tables_eq_iff {s t : State} : t.tables = s.tables ↔
    t.service.calls = s.service.calls ∧ t.hygiene.queue = s.hygiene.queue ∧ t.roster = s.roster ∧
      t.command.longs = s.command.longs ∧ t.mode = s.mode ∧ t.report.rewriteList = s.report.rewriteList ∧
      t.report.summaryRaised = s.report.summaryRaised := by
  simp [State.tables]

theorem Tidies.apart {s0 s t : State} (h : Tidies s0 s) (e : t.tables = s.tables) : Tidies s0 t := by
  obtain ⟨calls, queue, roster, longs, mode, list, raised⟩ := State.tables_eq_iff.mp e
  exact h.trans ⟨by simp [State.CallKeysDistinct, calls], by simp [State.QueuedOnce, queue],
    by simp [State.DirsDistinct, State.ent, roster], by simp [State.LongsDistinct, longs], by simp [list],
    by simp [raised, State.running, mode],
    by simp [State.running, mode]⟩

/-! ## The end of an event -/

/-- What a row keeps: between events no raise is still to be placed. -/
structure RowTidies (s t : State) : Prop where
  keys  : s.CallKeysDistinct → t.CallKeysDistinct
  queue : s.QueuedOnce → t.QueuedOnce
  dirs  : s.DirsDistinct → t.DirsDistinct
  longs : s.LongsDistinct → t.LongsDistinct
  once  : s.RewritesOnce → t.RewritesOnce

theorem RowTidies.refl (s : State) : RowTidies s s := ⟨id, id, id, id, id⟩

theorem RowTidies.apart {s t : State} (e : t.tables = s.tables) : RowTidies s t := by
  obtain ⟨calls, queue, roster, longs, mode, list, raised⟩ := State.tables_eq_iff.mp e
  exact ⟨by simp [State.CallKeysDistinct, calls], by simp [State.QueuedOnce, queue],
    by simp [State.DirsDistinct, State.ent, roster], by simp [State.LongsDistinct, longs],
    by simp [State.RewritesOnce, list, raised]⟩

theorem finish_once (s : State) {x : State} (hl : x.report.rewriteList.Nodup)
    (hr : x.report.summaryRaised = true → x.running = true) : (finish s x).RewritesOnce := by
  rcases finish_cases s x with ⟨hx, _⟩ | ⟨hx, e⟩
  · exact finish_rewritesOnce s hl (.same rfl rfl rfl rfl rfl) hx
  · have hn : x.report.summaryRaised = false := by
      by_contra h
      rw [hr (by simpa using h)] at hx
      cases hx
    rw [e]
    exact ⟨hl, hn⟩

theorem finish_tables (s x : State) : (finish s x).service = x.service ∧ (finish s x).hygiene = x.hygiene ∧
    (finish s x).roster = x.roster ∧ (finish s x).command = x.command := by
  rcases finish_cases s x with ⟨_, h⟩ | ⟨_, h⟩ <;> rw [h] <;> exact ⟨rfl, rfl, rfl, rfl⟩

theorem Tidies.finish {s x : State} (h : Tidies s x) (s0 : State) : RowTidies s (finish s0 x) := by
  obtain ⟨service, hygiene, roster, command⟩ := finish_tables s0 x
  refine ⟨fun k => ?_, fun k => ?_, fun k => ?_, fun k => ?_, fun k => ?_⟩
  · simpa [State.CallKeysDistinct, service] using h.keys k
  · simpa [State.QueuedOnce, hygiene] using h.queue k
  · simpa [State.DirsDistinct, State.ent, roster] using h.dirs k
  · simpa [State.LongsDistinct, command] using h.longs k
  · exact finish_once s0 (h.list k.1) (h.raised (fun hr => by rw [k.2] at hr; cases hr))

theorem Tidies.settle {s x : State} (h : Tidies s x) : Tidies s (settle x) := h.trans (settle_keeps x).tidies

theorem Tidies.settled {s : State} {f : State → State} (h : Tidies s (f s)) : Tidies s (settled f s) := by
  unfold Machine.settled
  split
  · exact h.settle
  · exact h

theorem Tidies.plainEvent {s : State} {f : State → State} (h : Tidies s (f s)) : RowTidies s (plainEvent f s) := by
  unfold Machine.plainEvent
  split
  · exact h.finish s
  · exact .refl s

theorem Tidies.workEvent {s : State} {f : State → State} (h : Tidies s (f s)) : RowTidies s (workEvent f s) := by
  unfold Machine.workEvent
  split
  · exact h.settle.finish s
  · exact .refl s

theorem Tidies.whenRunning {s : State} {f : State → State} (h : Tidies s (f s)) (t : Timer) : Tidies s (whenRunning t f s) := by
  unfold Machine.whenRunning
  split
  · exact h
  · exact .refl s

theorem Tidies.commandRow {f : State → State} (hf : ∀ x, Tidies x (f x)) (s : State) : RowTidies s (commandRow f s) := by
  unfold Machine.commandRow
  split
  · exact (((Tidies.refl s).apart (t := oweCompletion s) rfl).trans (hf _)).finish s
  · exact .refl s

/-- The row of a watched word, which acts in RUNNING alone. -/
theorem Tidies.watchRow {s : State} {f : State → State} (hf : s.running = true → Tidies s (f s)) :
    RowTidies s (watchRow f s) := by
  unfold Machine.watchRow
  split
  · next h => exact (hf (by simp only [Bool.and_eq_true] at h; exact h.1)).finish s
  · exact .refl s

/-! ## The commands of software -/

theorem complete_tidies (tag : Half) (kind : Byte) (r : ResultCode) (d1 d2 d3 : Word) (s : State) :
    Tidies s (complete tag kind r d1 d2 d3 s) := ((Work.refl s).complete ..).tidies

/-- R172: an object that no long command holds is given one. -/
theorem startLong_tidies {kind : Byte} {tag : Half} {o : LongObj} {s : State} (h : s.held o = false) :
    Tidies s (startLong kind tag o s) := by
  refine ⟨id, id, id, fun hl => ?_, id, id, id⟩
  have hn : ∀ x ∈ s.command.longs, x.obj ≠ o := by simpa [State.held, State.longOf] using h
  refine List.pairwise_append.mpr ⟨hl, by simp, fun a ha b hb => ?_⟩
  rw [List.mem_singleton.mp hb]
  exact hn a ha

/-- Owners' work that a long command begins with. -/
theorem Work.afterLong {s t : State} {kind : Byte} {tag : Half} {o : LongObj} (h : Work (startLong kind tag o s) t)
    (hh : s.held o = false) : Tidies s t := (startLong_tidies hh).trans h.tidies

theorem not_held_of_commissionRefusal {s : State} {i : Slot} {l : LineNo} {drop : Byte} {serial : Word} {span : Int}
    (h : s.commissionRefusal i l drop serial span = none) : s.held (.oven i) = false := by
  unfold State.commissionRefusal at h
  by_contra hh
  rw [if_pos (by simpa using hh)] at h
  cases h

theorem commission_tidies (tag : Half) (slot line drop : Byte) (serial : Word) (refLow refHigh : Half) (s : State) :
    Tidies s (commission tag slot line drop serial refLow refHigh s) := by
  unfold commission
  dsimp only
  split
  · exact complete_tidies ..
  · split
    · exact complete_tidies ..
    · next hr => exact (Work.beginCommission ..).afterLong (not_held_of_commissionRefusal hr)

theorem restore_tidies (tag : Half) (slot line drop : Byte) (serial : Word) (cal : Cal) (minutes : Word) (s : State) :
    Tidies s (restore tag slot line drop serial cal minutes s) := by
  unfold restore
  dsimp only
  split
  · exact complete_tidies ..
  · split
    · exact complete_tidies ..
    · next hr =>
      repeat' split
      case isFalse.isFalse.isFalse => exact (Work.beginCommission ..).afterLong (not_held_of_commissionRefusal hr)
      all_goals exact complete_tidies ..

theorem recalibrate_tidies (tag : Half) (slot : Byte) (refLow refHigh : Half) (s : State) :
    Tidies s (recalibrate tag slot refLow refHigh s) := by
  unfold recalibrate
  dsimp only
  split
  · exact complete_tidies ..
  · split
    · exact complete_tidies ..
    · split
      · exact complete_tidies ..
      · next hh =>
        repeat' split
        case isFalse.isFalse.isFalse =>
          refine Work.afterLong (kind := kindRecalibrate) (tag := tag) ?_ (by simpa using hh)
          refine Work.enterCalibrating (Work.skipQueued ?_ _) _
          exact (Work.refl _).modEnt _ _ (fun _ => .same rfl rfl rfl)
        all_goals exact complete_tidies ..

theorem lineTest_tidies (tag : Half) (line : Byte) (s : State) : Tidies s (lineTest tag line s) := by
  unfold lineTest
  dsimp only
  split
  · exact complete_tidies ..
  · split
    · exact complete_tidies ..
    · next hh =>
      split
      · exact complete_tidies ..
      · refine Work.afterLong (kind := kindLineTest) (tag := tag) ?_ (by simpa using hh)
        exact (Work.refl _).modLn _ _ (fun _ => .same rfl rfl rfl)

theorem publish_tidies (tag : Half) (recipe : Byte) (s : State) : Tidies s (publish tag recipe s) := by
  unfold publish
  dsimp only
  split
  · exact complete_tidies ..
  · next r _ =>
    split
    · exact complete_tidies ..
    · split
      · exact complete_tidies ..
      · next hh =>
        have free : s.held (.recipe r) = false := by simpa using fun h => hh (.inl h)
        have listed := ((Work.refl (startLong kindPublish tag (.recipe r) s)).modRslot r
          (fun x => { x with publish := .reading })).recipe
        repeat' split
        case isFalse.isFalse.isTrue => exact (listed _).startEngine.afterLong free
        case isFalse.isFalse.isFalse => exact (listed _).afterLong free
        all_goals exact complete_tidies ..

theorem cook_tidies (tag : Half) (oven recipe : Byte) (s : State) : Tidies s (cook tag oven recipe s) := by
  unfold cook
  dsimp only
  split
  · split
    · exact complete_tidies ..
    · next hh =>
      split
      · exact complete_tidies ..
      · split
        · exact complete_tidies ..
        · exact ((Work.refl _).beginStart _ _ _ _).afterLong (by simpa using hh)
  · exact complete_tidies ..

theorem stageClose_tidies (tag : Half) (length check : Word) (s : State) : Tidies s (stageClose tag length check s) := by
  unfold stageClose
  dsimp only
  split
  · exact complete_tidies ..
  · split
    · exact complete_tidies ..
    · split
      · exact complete_tidies ..
      · next hh =>
        split
        · exact complete_tidies ..
        · exact (((Work.refl _).modImage _).update _).afterLong (by simpa using hh)

theorem rollout_tidies (tag mask : Half) (downgrade : Byte) (s : State) : Tidies s (rollout tag mask downgrade s) := by
  unfold rollout
  generalize slots = targets
  dsimp only
  split
  · exact complete_tidies ..
  · split
    · exact complete_tidies ..
    · split
      · exact complete_tidies ..
      · next hh =>
        have free : s.held .image = false := by simpa using hh
        split
        · split
          · exact (Work.trans (((Work.refl _).modImage _).modRollout _)
              (Work.foldl _ (fun s i => (Work.refl s).modUpd i _) _ _)).raiseEvent _ |>.afterLong free
          · exact (Work.trans (((Work.refl _).modImage _).modRollout _)
              (Work.foldl _ (fun s i => (Work.refl s).modUpd i _) _ _)).afterLong free
        · exact complete_tidies ..

theorem route_tidies (b : List Byte) (s : State) : Tidies s (route b s) := by
  have w := Work.refl s
  unfold route
  dsimp only
  split
  · exact commission_tidies ..
  · exact restore_tidies ..
  · exact (recalibrate_tidies ..).settle
  · exact (w.retire _ _).tidies.settle
  · exact (w.release _ _).tidies
  · exact lineTest_tidies ..
  · exact publish_tidies ..
  · exact (w.withdraw _ _).tidies
  · exact (cook_tidies ..).settle
  · exact (w.abortCommand _ _).tidies
  · exact (w.clean _ _ _).tidies.settle
  · exact (w.cancelClean _ _).tidies
  · exact (w.ackCall _ _ _).tidies
  · exact (w.closeCall _ _ _).tidies
  · exact stageClose_tidies ..
  · exact (rollout_tidies ..).settle
  · exact (w.rolloutHalt _).tidies.settle
  · exact (w.openProfile _).tidies
  · exact complete_tidies ..

/-! ## The watched words -/

theorem Tidies.fetchBegin {s0 s : State} (h : Tidies s0 s) : Tidies s0 (fetchBegin s) := by
  unfold Machine.fetchBegin
  split
  · exact h.apart rfl
  · exact h

theorem Tidies.raiseEvent {s0 s : State} (h : Tidies s0 s) (e : Event) : Tidies s0 (raiseEvent e s) :=
  h.trans ((Work.refl s).raiseEvent e).tidies

theorem Tidies.setCaptures {s0 s : State} (h : Tidies s0 s) (p : PathUnit) : Tidies s0 (setCaptures p s) := by
  have owes := setCaptures_owes p s
  refine h.trans ?_
  rw [setCaptures_eq] at owes ⊢
  exact ⟨id, id, id, id, owes.nodup, owes.raisedRunning rfl, id⟩

/-- R180: the summary word is due where an acknowledgement changes a set; it is taken in RUNNING. -/
theorem eventAcknowledge_tidies (v : Word) {s : State} (h : s.running = true) : Tidies s (eventAcknowledge v s) := by
  have captured := (Tidies.refl s).setCaptures (clearCaptures (ackedKinds v) s.path)
  have running := captured.runs h
  unfold eventAcknowledge
  dsimp only
  generalize Machine.setCaptures (clearCaptures (ackedKinds v) s.path) s = x at captured running ⊢
  exact ⟨id, captured.queue, captured.dirs, captured.longs, captured.list, fun _ _ => running, fun _ => running⟩

theorem commandProducerWrite_tidies (v : Word) (s : State) : Tidies s (commandProducerWrite v s) := by
  unfold commandProducerWrite
  split
  · exact .refl s
  · split
    · refine Tidies.fetchBegin ?_
      exact (Tidies.refl s).apart rfl
    · refine Tidies.raiseEvent ?_ _
      exact (Tidies.refl s).apart rfl

theorem completionConsumerWrite_tidies (v : Word) (s : State) : Tidies s (completionConsumerWrite v s) := by
  unfold completionConsumerWrite
  split
  · refine Tidies.fetchBegin ?_
    exact (Tidies.refl s).apart rfl
  · exact (Tidies.refl s).raiseEvent _

theorem serviceConsumerWrite_tidies (v : Word) (s : State) : Tidies s (serviceConsumerWrite v s) := by
  unfold serviceConsumerWrite
  split
  · exact (Tidies.refl s).apart rfl
  · exact (Tidies.refl s).raiseEvent _

theorem journalConsumerWrite_tidies (v : Word) (s : State) : Tidies s (journalConsumerWrite v s) := by
  unfold journalConsumerWrite
  split
  · exact (Tidies.refl s).apart rfl
  · exact (Tidies.refl s).raiseEvent _

theorem clockMinute_tidies (s : State) : Tidies s (clockMinute s) := by
  unfold clockMinute
  split
  · exact (Tidies.refl s).apart rfl
  · exact .refl s

theorem watchedWrite_tidies (k : Nat) (v : Word) {s : State} (h : s.running = true) : Tidies s (watchedWrite k v s) := by
  unfold watchedWrite
  split
  · exact commandProducerWrite_tidies v s
  · exact completionConsumerWrite_tidies v s
  · exact serviceConsumerWrite_tidies v s
  · exact journalConsumerWrite_tidies v s
  · exact eventAcknowledge_tidies v h
  · exact (Tidies.refl s).apart rfl
  · exact .refl s

theorem fetchAnswer_tidies (data : Option (List Word)) (s : State) : Tidies s (fetchAnswer data s) := by
  cases data with
  | none => exact (Tidies.refl s).apart rfl
  | some ws =>
    refine Tidies.fetchBegin (Tidies.trans ?_ (route_tidies _ _))
    exact (Tidies.refl s).apart rfl

/-! ## The processor side (R49, R50, R53) -/

theorem Tidies.raiseGuard {s0 s : State} (h : Tidies s0 s) (a : Word) : Tidies s0 (raiseGuard a s) :=
  (h.setCaptures _).raiseEvent _

theorem decideHeads_tidies (l : List InFlight) : ∀ s : State, Tidies s (decideHeads s l).1 := by
  induction l with
  | nil => exact .refl
  | cons e t ih =>
    intro s
    unfold decideHeads
    split
    · split
      · exact ((Tidies.refl s).raiseGuard _).trans (ih _)
      · exact .refl s
      · exact .refl s
    · exact .refl s
    · exact .refl s
    · exact ih s
    · exact ih s

theorem Tidies.settlePort {s0 s : State} (h : Tidies s0 s) : Tidies s0 (settlePort s) :=
  (h.trans (decideHeads_tidies s.path.inflight s)).apart rfl

theorem processorRequest_tidies (r : ProcRequest) (s : State) : Tidies s (processorRequest r s) := by
  unfold processorRequest
  split
  · refine Tidies.settlePort ?_
    exact (Tidies.refl s).apart rfl
  · exact .refl s

theorem processorAnswer_tidies (data : Option (List Word)) (s : State) : Tidies s (processorAnswer data s) :=
  Tidies.settlePort ((Tidies.refl s).apart rfl)

/-! ## The arbiter (R63-R66) -/

theorem watchOne_tidies (p : Nat × Word × BitVec 4) {s : State} (h : s.running = true) : Tidies s (watchOne s p) := by
  unfold watchOne
  split
  · split
    · exact watchedWrite_tidies _ _ h
    · exact .refl s
  · exact .refl s

theorem watchAll_tidies (l : List (Nat × Word × BitVec 4)) :
    ∀ s : State, s.running = true → Tidies s (l.foldl watchOne s) := by
  induction l with
  | nil => exact fun s _ => .refl s
  | cons p t ih =>
    intro s h
    have one := watchOne_tidies p h
    exact one.trans (ih _ (one.runs h))

/-- R190: in PASS_ONLY no request lies in a window. -/
theorem running_of_inside {s : State} {r : MemRequest} {w : Window} (hs : s.serving = true) (h : s.classify r = .inside w) :
    s.running = true := by
  have hm : s.mode ≠ .passOnly := by
    intro hm
    unfold State.classify at h
    rw [if_pos hm] at h
    split at h <;> cases h
  simpa [State.serving, State.running, hm] using hs

theorem watchIssue_tidies (r : MemRequest) {s : State} (hs : s.serving = true) : Tidies s (watchIssue r s) := by
  unfold watchIssue
  split
  · next w hw =>
    split
    · exact .refl s
    · split
      · exact watchAll_tidies _ s (running_of_inside hs hw)
      · split
        · exact ((Work.refl s).draftWritten _).tidies
        · exact .refl s
      · exact ((Work.refl s).modImage _).tidies
      · exact .refl s
  · exact .refl s

theorem Tidies.grantPosted {s0 s : State} (h : Tidies s0 s) (counted : Bool) : Tidies s0 (grantPosted counted s) := by
  refine h.trans ?_
  unfold Machine.grantPosted
  split
  · exact .refl s
  · next w rest _ =>
    refine Tidies.settlePort (Tidies.apart ?_ (s := openPort w _) rfl)
    unfold openPort signalSummary
    repeat' split
    all_goals exact (Tidies.refl s).apart rfl

theorem clientIssued_tables (o : IssueOwner) (s : State) : (clientIssued o s).tables = s.tables := by cases o <;> rfl

theorem Tidies.grantBulk {s0 s : State} (h : Tidies s0 s) (counted : Bool) : Tidies s0 (grantBulk counted s) := by
  unfold Machine.grantBulk
  split
  · exact h
  · split
    · exact h
    · exact h.apart (clientIssued_tables _ _)

theorem Tidies.grantOther {s0 s : State} (h : Tidies s0 s) : Tidies s0 (grantOther s) := by
  have rested : Tidies s0 (restCounters s) := h.apart rfl
  unfold Machine.grantOther
  dsimp only
  split
  · exact rested.grantBulk false
  · exact rested.grantPosted false

theorem grantProc_tidies {s : State} (h : s.serving = true) : Tidies s (grantProc s) := by
  have apart (f : List InFlight → List InFlight) : Tidies s (s.modInflight f) := (Tidies.refl s).apart rfl
  unfold grantProc
  split
  · exact .refl s
  · dsimp only
    split
    · refine Tidies.settlePort (Tidies.trans ?_ (watchIssue_tidies _ ?_))
      · exact (Tidies.refl s).apart rfl
      · exact h
    · exact (apart _).grantOther
    · exact ((apart _).raiseGuard _).settlePort.grantOther
    · exact ((apart _).raiseEvent _).settlePort.grantOther

theorem arbiterGrant_tidies {s : State} (h : s.serving = true) : Tidies s (arbiterGrant s) := by
  unfold arbiterGrant
  split
  · exact .refl s
  · split
    · exact .refl s
    · exact grantProc_tidies h
    · exact (Tidies.refl s).grantPosted _
    · exact (Tidies.refl s).grantBulk _

/-! ## Memory's answers (R51, R67) -/

theorem Tidies.offerOf {s0 s : State} (h : Tidies s0 s) (q : Issued) : Tidies s0 (offerOf q s) := by
  unfold Machine.offerOf
  split
  · unfold offerFault
    dsimp only
    split
    · exact h.setCaptures _
    · exact (h.setCaptures _).raiseEvent _
  · exact h

theorem takeAnswer_tidies {own : IssueOwner → Bool} {a : MemAnswer} {f : Issued → Option (List Word) → State → State}
    {s t : State} (hf : ∀ q d x, Tidies x (f q d x)) (h : takeAnswer own a f s = .next t) : RowTidies s t := by
  unfold takeAnswer at h
  split at h
  · cases h
    split
    · exact .apart rfl
    · exact .refl s
  · cases h; exact .refl s
  · next q rest _ _ =>
    have answered : Tidies s { s with path := { s.path with issued := rest } } := (Tidies.refl s).apart rfl
    split at h
    · cases h; exact .refl s
    · dsimp only at h
      split at h
      · cases h
        split
        · exact (answered.offerOf q).finish s
        · exact ((answered.offerOf q).trans (hf ..)).finish s
      · split at h
        · cases h; exact answered.finish s
        · split at h
          · cases h; exact (answered.trans (hf ..)).finish s
          · cases h

theorem fillAnswer_tidies (l : LineNo) (data : Option (List Word)) (s : State) : Tidies s (fillAnswer l data s) :=
  (Mends.fillAnswer ((Work.refl s).near l) data).work.tidies

theorem blockTaken_tidies (q : Issued) (data : Option (List Word)) (s : State) : Tidies s (blockTaken q data s) := by
  unfold blockTaken
  split
  · exact Tidies.settled ((Work.refl s).blockAnswer _ _).tidies
  · exact .refl s

/-! ## The posted-write queue (R62, R178) -/

theorem postAll_tables (l : List PostedWrite) : ∀ s : State, (postAll l s).tables = s.tables := by
  induction l with
  | nil => exact fun _ => rfl
  | cons w t ih => exact fun s => ih (postWrite w s)

theorem postCompletion_tidies (c : Completion) (s : State) : Tidies s (postCompletion c s) := by
  refine Tidies.fetchBegin (Tidies.raiseEvent ?_ _)
  exact (Tidies.refl s).apart rfl

theorem postCall_tidies (c : Call) (s : State) : Tidies s (postCall c s) := by
  refine Tidies.raiseEvent ?_ _
  have marked := (Work.refl s).mapCalls
    (fun x => if x.hasKey c.source c.cause then { x with state := .posted, postedBefore := true } else x)
    (fun x => by split <;> exact ⟨rfl, rfl⟩)
  exact marked.tidies.apart rfl

theorem postJournal_tidies (j : JournalRec) (s : State) : Tidies s (postJournal j s) := by
  refine Tidies.raiseEvent ?_ _
  exact (Tidies.refl s).apart rfl

/-- A rewrite that has been served leaves the list. -/
theorem Tidies.listFilter {s0 s t : State} (h : Tidies s0 s) (p : RewriteItem → Bool)
    (e : t.tables = { s with report := { s.report with rewriteList := s.report.rewriteList.filter p } }.tables) :
    Tidies s0 t := by
  refine h.trans (Tidies.apart ?_ e)
  exact ⟨id, id, id, id, fun hl => hl.filter _, id, id⟩

theorem postOven_tidies (i : Slot) (s : State) : Tidies s (postOven i s) := by
  have posted := (Tidies.refl s).apart (postAll_tables (recordWrites (s.ovenAddr i) s.report.ovenCounts[i] (s.ovenBytes i)) s)
  unfold postOven
  dsimp only
  generalize postAll _ s = x at posted ⊢
  exact posted.listFilter (fun x => x != .oven i) rfl

theorem postSite_tidies (s : State) : Tidies s (postSite s) := by
  have posted := (Tidies.refl s).apart (postAll_tables (recordWrites s.siteAddr s.report.siteCount s.siteBytes) s)
  unfold postSite
  dsimp only
  generalize postAll _ s = x at posted ⊢
  exact posted.listFilter (fun x => x != .site) rfl

theorem postSummary_tidies (s : State) : Tidies s (postSummary s) :=
  (Tidies.refl s).listFilter (fun x => x != .summary) rfl

/-! ## Start-up (R187-R190) -/

theorem Tidies.issueProfileRead {s0 s : State} (h : Tidies s0 s) : Tidies s0 (issueProfileRead s) := by
  unfold Machine.issueProfileRead
  split
  · exact h.apart rfl
  · exact h

/-- R178, R184, R189: every mirror record and the summary word, each once. -/
theorem allRewrites_nodup : allRewrites.Nodup := by decide

theorem enterRunning_tidies (b : List Byte) (s : State) : Tidies s (enterRunning b s) :=
  ⟨id, id, id, id, fun _ => allRewrites_nodup, fun _ _ => rfl, fun _ => rfl⟩

/-- Outside RUNNING no raise has been taken that is still to be placed, so that the mode may change. -/
theorem Tidies.ofMode {s t : State} (hs : s.running = false) (e : ({ t with mode := s.mode } : State).tables = s.tables) :
    Tidies s t := by
  have h := (Tidies.refl s).apart e
  refine ⟨h.keys, h.queue, h.dirs, h.longs, h.list, fun hr ht => ?_, fun hr => ?_⟩
  · have := h.raised hr ht
    rw [show ({ t with mode := s.mode } : State).running = s.running from rfl, hs] at this
    cases this
  · rw [hs] at hr
    cases hr

theorem postDiagnostic_tables (b : List Byte) (s : State) : (postDiagnostic b s).tables = s.tables := by
  unfold postDiagnostic
  dsimp only
  generalize recordWrites _ _ _ = l
  exact postAll_tables l { s with
    report := { s.report with pendingSet := eventBit .profileBad, siteCount := 2 }, startWrites := true }

theorem enterPassOnly_tidies (b : List Byte) (code : Byte) (off : Half) {s : State} (hs : s.running = false) :
    Tidies s (enterPassOnly b code off s) := by
  have passed : Tidies s (passOnlyState code off s) := .ofMode hs rfl
  unfold enterPassOnly
  dsimp only
  split
  · exact passed.apart (postDiagnostic_tables b _)
  · exact passed.apart rfl

theorem startUpAnswer_tidies (data : Option (List Word)) (s : State) : Tidies s (startUpAnswer data s) := by
  unfold startUpAnswer
  split
  · next hm =>
    have hs : s.running = false := by simp [State.running, hm]
    cases data with
    | none =>
      have dropped : Tidies s (disregardIssued (fun o => o == .profile) s) := (Tidies.refl s).apart rfl
      have quiet : (disregardIssued (fun o => o == .profile) s).running = false := hs
      exact dropped.trans (enterPassOnly_tidies [] 16 (natHalf s.startBytes.length) quiet)
    | some ws =>
      have kept : Tidies s { s with startBytes := s.startBytes ++ bytesOf ws } := (Tidies.refl s).apart rfl
      have quiet (x : State) (hx : x.running = false) : (issueProfileRead x).running = false := by
        unfold issueProfileRead
        split <;> exact hx
      unfold profileAnswer judgeProfile
      dsimp only
      split
      · exact kept.issueProfileRead
      · split
        · exact kept.issueProfileRead.trans (enterRunning_tidies _ _)
        · exact kept.issueProfileRead.trans (enterPassOnly_tidies _ _ _ (quiet _ hs))
  · exact .refl s

theorem issueProfileReads_tables (n : Nat) : ∀ s : State, (issueProfileReads n s).tables = s.tables := by
  induction n with
  | zero => exact fun _ => rfl
  | succ n ih =>
    intro s
    refine (ih (issueProfileRead s)).trans ?_
    unfold issueProfileRead
    split <;> rfl

/-! ## RESET and HRST (R185, R183, R184) -/

theorem reset_tables : State.reset.CallKeysDistinct ∧ State.reset.QueuedOnce ∧ State.reset.DirsDistinct ∧
    State.reset.LongsDistinct ∧ State.reset.RewritesOnce :=
  ⟨.nil, .nil, fun i => by simp [State.reset, State.ent, Entry.reset], .nil, .nil, rfl⟩

theorem execPartReset_tidies {s t : State} (h : execPartReset s = .next t) : RowTidies s t := by
  obtain ⟨keys, queue, dirs, longs, once⟩ := reset_tables
  cases h
  exact ⟨fun _ => keys, fun _ => queue, fun _ => dirs, fun _ => longs, fun _ => once⟩

theorem execResetRelease_tidies {p q : Bool} {s t : State} (h : execResetRelease p q s = .next t) : RowTidies s t := by
  unfold execResetRelease at h
  cases h
  split
  · have e := issueProfileReads_tables Config.issuedMax { s with mode := .startUp, profileAddr := strapAddress p q }
    exact ⟨(RowTidies.apart e).keys, (RowTidies.apart e).queue, (RowTidies.apart e).dirs, (RowTidies.apart e).longs,
      (RowTidies.apart e).once⟩
  · exact .refl s

theorem hostRestart_tidies (s : State) : Tidies s (hostRestart s) := by
  refine ⟨id, id, id, fun hl => ?_, id, id, id⟩
  exact List.pairwise_map.mpr hl

theorem execHrstAssert_tidies {s t : State} (h : execHrstAssert s = .next t) : RowTidies s t := by
  have asserted : Tidies s { s with hrst := true } := (Tidies.refl s).apart rfl
  unfold execHrstAssert at h
  cases h
  split
  · exact .refl s
  · dsimp only
    split
    · exact (asserted.trans (hostRestart_tidies _)).finish s
    · exact (asserted.apart (t := dropInflight { s with hrst := true }) rfl).finish s
    · exact .apart rfl

/-- R145: the calls that are to be posted anew keep their keys. -/
theorem hostResume_tidies (s : State) : Tidies s (hostResume s) :=
  ⟨((Work.refl s).mapCalls (fun c => { c with state := .unposted }) (fun _ => ⟨rfl, rfl⟩)).keys, id, id, id, fun _ => allRewrites_nodup, id, id⟩

theorem execHrstRelease_tidies {s t : State} (h : execHrstRelease s = .next t) : RowTidies s t := by
  have released : Tidies s { s with hrst := false, startUnderHrst := false } := (Tidies.refl s).apart rfl
  unfold execHrstRelease at h
  cases h
  split
  · dsimp only
    split
    · exact (released.trans (hostResume_tidies _)).finish s
    · exact .apart rfl
  · exact .refl s

/-! ## Every row -/

theorem hygieneMinute_tidies (s : State) : Tidies s (hygieneMinute s) := by
  have restarted : Tidies s { s with hygiene := { s.hygiene with minute := some s.now } } := (Tidies.refl s).apart rfl
  exact restarted.trans (Work.refl _).accrueAll.tidies

theorem execProcessorRequest_tidies {r : ProcRequest} {s t : State} (h : execProcessorRequest r s = .next t) :
    RowTidies s t := by
  unfold execProcessorRequest at h
  split at h
  · cases h
  · cases h; exact (processorRequest_tidies r s).finish s

theorem exec_tidies {c : Instr} {s t : State} (h : exec c s = .next t) : RowTidies s t := by
  have w := Work.refl s
  cases c
  case partReset => exact execPartReset_tidies h
  case resetRelease => exact execResetRelease_tidies h
  case hrstAssert => exact execHrstAssert_tidies h
  case hrstRelease => exact execHrstRelease_tidies h
  case profileReadAnswer a =>
    rw [exec_profileReadAnswer] at h
    exact takeAnswer_tidies (fun _ d x => startUpAnswer_tidies d x) h
  case processorRequest => exact execProcessorRequest_tidies h
  case arbiterGrant => cases h; split; exacts [(arbiterGrant_tidies ‹_›).finish s, .refl s]
  case commandProducerIndexWrite v => cases h; exact Tidies.watchRow fun _ => commandProducerWrite_tidies v s
  case completionConsumerIndexWrite v => cases h; exact Tidies.watchRow fun _ => completionConsumerWrite_tidies v s
  case serviceConsumerIndexWrite v => cases h; exact Tidies.watchRow fun _ => serviceConsumerWrite_tidies v s
  case journalConsumerIndexWrite v => cases h; exact Tidies.watchRow fun _ => journalConsumerWrite_tidies v s
  case eventAcknowledgeWrite v => cases h; exact Tidies.watchRow fun hr => eventAcknowledge_tidies v hr
  case siteClockLoadWrite v => cases h; exact Tidies.watchRow fun _ => (Tidies.refl s).apart rfl
  case processorAnswer a =>
    rw [exec_processorAnswer] at h
    exact takeAnswer_tidies (fun _ d x => processorAnswer_tidies d x) h
  case postedWriteAnswer a =>
    rw [exec_postedWriteAnswer] at h
    exact takeAnswer_tidies (fun q d x => ((Work.refl x).postedAnswer q d).tidies) h
  case commandFetchAnswer a =>
    rw [exec_commandFetchAnswer] at h
    exact takeAnswer_tidies (fun _ d x => fetchAnswer_tidies d x) h
  case publishReadAnswer a =>
    rw [exec_publishReadAnswer] at h
    exact takeAnswer_tidies (fun _ d x => ((Work.refl x).publishAnswer d).tidies.settled) h
  case fillReadAnswer l a =>
    rw [exec_fillReadAnswer] at h
    exact takeAnswer_tidies (fun _ d x => (fillAnswer_tidies l d x).settled) h
  case verifyReadAnswer a =>
    rw [exec_verifyReadAnswer] at h
    exact takeAnswer_tidies (fun _ d x => ((Work.refl x).verifyAnswer d).tidies.settled) h
  case imageBlockReadAnswer a =>
    rw [exec_imageBlockReadAnswer] at h
    exact takeAnswer_tidies blockTaken_tidies h
  case commission => cases h; exact Tidies.commandRow (fun x => commission_tidies _ _ _ _ _ _ _ x) s
  case restore => cases h; exact Tidies.commandRow (fun x => restore_tidies _ _ _ _ _ _ _ x) s
  case recalibrate => cases h; exact Tidies.commandRow (fun x => (recalibrate_tidies _ _ _ _ x).settle) s
  case retire => cases h; exact Tidies.commandRow (fun x => ((Work.refl x).retire _ _).tidies.settle) s
  case release => cases h; exact Tidies.commandRow (fun x => ((Work.refl x).release _ _).tidies) s
  case lineTest => cases h; exact Tidies.commandRow (fun x => lineTest_tidies _ _ x) s
  case publish => cases h; exact Tidies.commandRow (fun x => publish_tidies _ _ x) s
  case withdraw => cases h; exact Tidies.commandRow (fun x => ((Work.refl x).withdraw _ _).tidies) s
  case cook => cases h; exact Tidies.commandRow (fun x => (cook_tidies _ _ _ x).settle) s
  case abort => cases h; exact Tidies.commandRow (fun x => ((Work.refl x).abortCommand _ _).tidies) s
  case clean => cases h; exact Tidies.commandRow (fun x => ((Work.refl x).clean _ _ _).tidies.settle) s
  case cancelClean => cases h; exact Tidies.commandRow (fun x => ((Work.refl x).cancelClean _ _).tidies) s
  case ackCall => cases h; exact Tidies.commandRow (fun x => ((Work.refl x).ackCall _ _ _).tidies) s
  case closeCall => cases h; exact Tidies.commandRow (fun x => ((Work.refl x).closeCall _ _ _).tidies) s
  case stageClose => cases h; exact Tidies.commandRow (fun x => stageClose_tidies _ _ _ x) s
  case rollout => cases h; exact Tidies.commandRow (fun x => (rollout_tidies _ _ _ x).settle) s
  case rolloutHalt => cases h; exact Tidies.commandRow (fun x => ((Work.refl x).rolloutHalt _).tidies.settle) s
  case openProfile => cases h; exact Tidies.commandRow (fun x => ((Work.refl x).openProfile _).tidies) s
  case completionPost => cases h; split; exacts [(postCompletion_tidies _ s).finish s, .refl s]
  case servicePosting => cases h; split; exacts [(postCall_tidies _ s).finish s, .refl s]
  case journalRecordWrite => cases h; split; exacts [(postJournal_tidies _ s).finish s, .refl s]
  case mirrorRewrite =>
    cases h; split; exacts [(postOven_tidies _ s).finish s, (postSite_tidies s).finish s, .refl s]
  case eventSummaryWrite => cases h; split; exacts [(postSummary_tidies s).finish s, .refl s]
  case siteClockMinuteExpiry => cases h; split; exacts [(clockMinute_tidies s).finish s, .refl s]
  case schedulerChoice l => cases h; exact (w.schedulerChoice l).tidies.plainEvent
  case transmitEnd l => cases h; exact (w.transmitEnd l).tidies.plainEvent
  case replyReceived l chars => cases h; exact (w.replyReceived l chars).tidies.workEvent
  case replyWindowExpiry l => cases h; exact (w.windowExpired l).tidies.workEvent
  case quietEnd l => cases h; exact (w.quietEnd l).tidies.workEvent
  case turnaroundEnd l => cases h; exact (w.turnaroundEnd l).tidies.plainEvent
  case pollDue i => cases h; exact (w.setDue false i).tidies.plainEvent
  case pollOverdue i => cases h; exact (w.setDue true i).tidies.plainEvent
  case silenceTimerExpiry i => cases h; exact ((w.silenceExpired i).tidies.whenRunning _).workEvent
  case lineTestStart l => cases h; exact (w.testStart l).tidies.plainEvent
  case lineTestLoopbackEnd l chars => cases h; exact (w.testHeard l chars).tidies.plainEvent
  case lineTestWindowExpiry l chars => cases h; exact (w.testWindow l chars).tidies.plainEvent
  case identResendExpiry i => cases h; exact ((w.identResendExpired i).tidies.whenRunning _).workEvent
  case calibrationLimitExpiry i => cases h; exact ((w.calLimitExpired i).tidies.whenRunning _).workEvent
  case hygieneMinuteExpiry =>
    cases h; exact ((hygieneMinute_tidies s).whenRunning _).workEvent
  case requeueTimerExpiry i => cases h; exact ((w.requeueExpired i).tidies.whenRunning _).workEvent
  case switchLimitExpiry i => cases h; exact ((w.switchLimitExpired i).tidies.whenRunning _).workEvent
  case replyStartBitAccepted l => cases h; exact (w.replyStarts l).tidies.plainEvent
  case quietStartBitAccepted l => cases h; exact (w.quietStart l).tidies.plainEvent
  case characterGapLimitExpiry l => cases h; exact (w.gapExpired l).tidies.plainEvent

theorem step_tidies {s t : State} (h : step s = .next t) : RowTidies s t := by
  unfold step at h
  split at h
  · cases h; exact .apart rfl
  · next c rest _ =>
    have kept := exec_tidies h
    exact ⟨kept.keys, kept.queue, kept.dirs, kept.longs, kept.once⟩

end Sys2Proof.Machine

open Sys2Proof.Machine in
/-- Settles O51: every row keeps the tables and the rewrite list free of doubles (`exec_tidies`), and a tick of the clock changes
none of them. -/
theorem stepKeepsTablesDistinct : Obligations.StepKeepsTablesDistinct := by
  unfold Obligations.StepKeepsTablesDistinct
  refine ⟨fun s t keys queue dirs longs h => ?_, fun s t once h => (step_tidies h).once once⟩
  have kept := step_tidies h
  exact ⟨kept.keys keys, kept.queue queue, kept.dirs dirs, kept.longs longs⟩
end

section
/-! PROOF. COOK and ABORT (R95, R97, R104, R111): the checks in turn, the claim on a hit and on a miss, and the ABORT of a cook. -/

namespace Sys2Proof.Machine

theorem exec_cook (tag : Half) (oven recipe : Byte) {s : State} (h : s.hears = true) :
    exec (.cook tag oven recipe) s = .next (finish s (settle (cook tag oven recipe s.taken))) :=
  congrArg Host.Outcome.next (commandRow_of_hears (fun s => settle (cook tag oven recipe s)) h)

theorem exec_abort (tag : Half) (b : Byte) {s : State} (h : s.hears = true) :
    exec (.abort tag b) s = .next (finish s (abortCommand tag b s.taken)) := congrArg Host.Outcome.next (commandRow_of_hears _ h)

/-! ## The claim (R95, R97) -/

/-- The telegram of a grant (R97): START to the controller's start, GRANT to a panel's. -/
def grantTelegram (o : Origin) (t : Byte) (r : RecipeNo) (v : Byte) : Telegram :=
  if o = .controller then .start t r v else .grant t r v

/-- The entry of an oven whose start `p` is granted the copy `d` (R97). -/
def Entry.granted (e : Entry) (p : PendingStart) (d : DirEntry) : Entry :=
  { e with token := e.token + 1, dir := d :: e.dir.filter (fun y => y.recipe != p.recipe),
           grant := some { token := e.token + 1, recipe := p.recipe, version := d.version, origin := p.origin, tag := p.tag,
                           confirmed := false },
           start := some { p with stage := .granting } }

theorem composeGrant_some {i : Slot} {s : State} {p : PendingStart} {d : DirEntry} (hp : (s.ent i).start = some p)
    (hd : (s.ent i).dirEntry p.recipe = some d) : composeGrant i s =
      sendTo i .cache (grantTelegram p.origin ((s.ent i).token + 1) p.recipe d.version)
        (s.setEnt i ((s.ent i).granted p d)) := by
  unfold composeGrant
  rw [hp]
  dsimp only
  rw [hd]
  rfl

/-- The entry of an oven that a start has claimed. -/
def Entry.claimed (e : Entry) (p : PendingStart) : Entry := { e with activity := .filling, start := some p }

theorem beginStart_hit {i : Slot} {r : RecipeNo} {d : DirEntry} {s : State} (o : Origin) (tag : Option Half)
    (h : s.hit i r = true) (hd : (s.ent i).dirEntry r = some d) : beginStart i r o tag s =
      sendTo i .cache (grantTelegram o ((s.ent i).token + 1) r d.version)
        (s.setEnt i { s.ent i with
          activity := .filling, token := (s.ent i).token + 1, dir := d :: (s.ent i).dir.filter (fun x => x.recipe != r),
          grant := some { token := (s.ent i).token + 1, recipe := r, version := d.version, origin := o, tag := tag,
                          confirmed := false },
          start := some { recipe := r, origin := o, tag := tag, fillNeeded := false, stage := .granting } }) := by
  have hent := s.ent_setEnt_self i ((s.ent i).claimed ⟨r, o, tag, false, .granting⟩)
  have hgrant := composeGrant_some (s := s.setEnt i ((s.ent i).claimed ⟨r, o, tag, false, .granting⟩))
    (p := ⟨r, o, tag, false, .granting⟩) (d := d) (by rw [hent]; rfl) (by rw [hent]; exact hd)
  rw [hent, State.setEnt_setEnt] at hgrant
  unfold beginStart
  rw [h]
  exact hgrant

theorem beginStart_miss {i : Slot} {r : RecipeNo} {s : State} (o : Origin) (tag : Option Half) (h : s.hit i r = false) :
    beginStart i r o tag s =
      (s.setEnt i { s.ent i with
        activity := .filling,
        start := some { recipe := r, origin := o, tag := tag, fillNeeded := true, stage := .queued } }).setLn (s.ent i).line
        { s.ln (s.ent i).line with
          fillQueue := (s.ln (s.ent i).line).fillQueue ++ [{ slot := i, waiting := false }] } := by
  unfold beginStart joinFillQueue
  rw [h]
  dsimp only
  rw [if_neg Bool.false_ne_true, State.modLn, State.ent_modEnt_self]
  rfl

/-! ## COOK -/

section
variable (tag : Half) {i : Slot} {r : RecipeNo} {s : State}

theorem cook_range {oven recipe : Byte} (h : 16 ≤ oven.toNat ∨ 64 ≤ recipe.toNat) :
    cook tag oven recipe s = complete tag 0x30 .range 0 0 0 s := by
  unfold cook
  rcases h with h | h
  · rw [slotOf_none h]
    rfl
  · rw [recipeOf_none h]
    cases slotOf oven <;> rfl

/-- The checks of a COOK whose oven and recipe slot exist. -/
theorem cook_eq : cook tag (slotByte i) (recipeByte r) s =
    if s.held (.oven i) then complete tag 0x30 .busy 0 0 0 s
    else if (s.ent i).state ≠ .inService then complete tag 0x30 .state 0 0 0 s
    else match s.startRefusal i r with
      | some why => complete tag 0x30 .denied (why.code.setWidth 32) 0 0 s
      | none => beginStart i r .controller (some tag) (startLong 0x30 tag (.oven i) s) := by
  unfold cook
  rw [slotOf_slotByte, recipeOf_recipeByte]
  rfl

theorem cook_busy (h : s.held (.oven i) = true) :
    cook tag (slotByte i) (recipeByte r) s = complete tag 0x30 .busy 0 0 0 s := by
  rw [cook_eq, if_pos h]

variable (hf : s.held (.oven i) = false)
include hf

theorem cook_state (h : (s.ent i).state ≠ .inService) :
    cook tag (slotByte i) (recipeByte r) s = complete tag 0x30 .state 0 0 0 s := by
  rw [cook_eq, if_neg (by simp [hf]), if_pos h]

variable (hs : (s.ent i).state = .inService)
include hs

theorem cook_denied {why : Reason} (h : s.startRefusal i r = some why) :
    cook tag (slotByte i) (recipeByte r) s = complete tag 0x30 .denied (why.code.setWidth 32) 0 0 s := by
  rw [cook_eq, if_neg (by simp [hf]), if_neg (by simp [hs]), h]

theorem cook_accepted (h : s.startRefusal i r = none) : cook tag (slotByte i) (recipeByte r) s =
    beginStart i r .controller (some tag) (startLong 0x30 tag (.oven i) s) := by
  rw [cook_eq, if_neg (by simp [hf]), if_neg (by simp [hs]), h]

end

/-! ## The start checks (R95) and the hit (R97) -/

theorem hit_iff {i : Slot} {r : RecipeNo} {s : State} : s.hit i r = true ↔
    ∃ d ∈ (s.ent i).dir, d.recipe = r ∧ d.stale = false ∧ d.version = (s.rslot r).version := by
  simp [State.hit, and_assoc]

section
variable {i : Slot} {r : RecipeNo} {s : State}

theorem startRefusal_suspended (h : (s.ent i).state ≠ .inService) : s.startRefusal i r = some .suspended := if_pos h

variable (hs : (s.ent i).state = .inService)
include hs

theorem startRefusal_busy (h : (s.ent i).activity ≠ .idle ∨ (s.ent i).offerOut = true) :
    s.startRefusal i r = some .busy := (if_neg (not_not_intro hs)).trans (if_pos h)

variable (hi : (s.ent i).activity = .idle) (ho : (s.ent i).offerOut = false)
include hi ho

/-- The checks of an idle oven in service. -/
theorem startRefusal_idle : s.startRefusal i r =
    if (s.ent i).level = .overdue then some .hygiene
    else match (s.rslot r).state with
      | .empty => some .recipeAbsent
      | .quarantined => some .recipeQuarantined
      | .published => match s.gate r with
        | none => some .model
        | some g => (s.ent i).gateRefusal g :=
  (if_neg (not_not_intro hs)).trans (if_neg (by simp [hi, ho]))

theorem startRefusal_hygiene (h : (s.ent i).level = .overdue) : s.startRefusal i r = some .hygiene := by
  rw [startRefusal_idle hs hi ho, if_pos h]

variable (hl : (s.ent i).level ≠ .overdue)
include hl

theorem startRefusal_recipeAbsent (h : (s.rslot r).state = .empty) : s.startRefusal i r = some .recipeAbsent := by
  rw [startRefusal_idle hs hi ho, if_neg hl, h]

theorem startRefusal_recipeQuarantined (h : (s.rslot r).state = .quarantined) :
    s.startRefusal i r = some .recipeQuarantined := by
  rw [startRefusal_idle hs hi ho, if_neg hl, h]

variable (hp : (s.rslot r).state = .published)
include hp

theorem startRefusal_gateless (h : s.gate r = none ∨ (s.ent i).identity = none) : s.startRefusal i r = some .model := by
  rw [startRefusal_idle hs hi ho, if_neg hl, hp]
  cases hg : s.gate r with
  | none => rfl
  | some g => exact Entry.gateRefusal_absent g (h.resolve_left (by simp [hg]))

theorem startRefusal_gate {g : Gate} (h : s.gate r = some g) : s.startRefusal i r = (s.ent i).gateRefusal g := by
  rw [startRefusal_idle hs hi ho, if_neg hl, hp, h]

end

/-! ## ABORT -/

section
variable (tag : Half) {i : Slot} {s : State}

theorem abortCommand_range {b : Byte} (h : 16 ≤ b.toNat) : abortCommand tag b s = complete tag 0x31 .range 0 0 0 s := by
  unfold abortCommand
  rw [slotOf_none h]
  rfl

theorem abortCommand_state (h : (s.ent i).activity ≠ .cooking) :
    abortCommand tag (slotByte i) s = complete tag 0x31 .state 0 0 0 s := by
  unfold abortCommand
  rw [slotOf_slotByte]
  dsimp only
  split
  next hc _ => exact absurd hc h
  next => rfl

theorem abortCommand_cooking {k : CookRec} (h : (s.ent i).activity = .cooking) (hk : (s.ent i).cook = some k) :
    abortCommand tag (slotByte i) s = sendTo i .cache .abort { s with cache := { s.cache with
      aborts := s.cache.aborts ++ [{ tag := tag, slot := i, token := k.token, orphaned := false }] } } := by
  unfold abortCommand
  rw [slotOf_slotByte]
  dsimp only
  rw [h, hk]

end

end Sys2Proof.Machine

open Sys2Proof.Machine in
/-- Settles O24: each check of COOK and the claim of an accepted one, each start check in turn, then ABORT. -/
theorem cookAndAbortTaken : Obligations.CookAndAbortTaken := by
  unfold Obligations.CookAndAbortTaken
  refine ⟨⟨fun tag s hs => ⟨fun oven recipe hr => ?range, fun i r => ⟨fun hh => ?busy, fun hf hn => ?state,
      fun why hf hn hw => ?denied, fun d hf hn hw hh hd => ?hit, fun hf hn hw hh => ?miss⟩⟩,
    fun s i r => ⟨hit_iff, startRefusal_suspended, fun hs => ⟨startRefusal_busy hs, fun hi ho =>
      ⟨startRefusal_hygiene hs hi ho, fun hl => ⟨startRefusal_recipeAbsent hs hi ho hl,
        startRefusal_recipeQuarantined hs hi ho hl, startRefusal_gateless hs hi ho hl, fun g d hp hg hd => ?gate⟩⟩⟩⟩⟩,
    fun tag s hs => ⟨fun b hb => ?arange, fun i ha => ?astate, fun i k ha hk => ?acooking⟩⟩
  case range => exact row_endsAs (exec_cook tag _ _ hs) (congrArg settle (cook_range tag hr))
  case busy => exact row_endsAs (exec_cook tag _ _ hs) (congrArg settle (cook_busy (s := s.taken) tag hh))
  case state => exact row_endsAs (exec_cook tag _ _ hs) (congrArg settle (cook_state (s := s.taken) tag hf hn))
  case denied => exact row_endsAs (exec_cook tag _ _ hs) (congrArg settle (cook_denied (s := s.taken) tag hf hn hw))
  case hit =>
    refine row_endsAs (exec_cook tag _ _ hs) (congrArg settle ?_)
    rw [cook_accepted (s := s.taken) tag hf hn hw,
      beginStart_hit (s := startLong 0x30 tag (.oven i) s.taken) (d := d) _ _ hh hd, sendTo_setEnt]
    rfl
  case miss =>
    refine row_endsAs (exec_cook tag _ _ hs) (congrArg settle ?_)
    rw [cook_accepted (s := s.taken) tag hf hn hw, beginStart_miss (s := startLong 0x30 tag (.oven i) s.taken) _ _ hh]
    rfl
  case gate =>
    obtain ⟨hclass, hgate⟩ := Entry.gateRefusal_of g hd
    rw [startRefusal_gate hs hi ho hl hp hg]
    exact ⟨hclass, fun hc => (hgate hc).1, fun hc => (hgate hc).2⟩
  case arange => exact row_endsAs (exec_abort tag _ hs) (abortCommand_range tag hb)
  case astate => exact row_endsAs (exec_abort tag _ hs) (abortCommand_state (s := s.taken) tag ha)
  case acooking => exact row_endsAs (exec_abort tag _ hs) (abortCommand_cooking (s := s.taken) tag ha hk)
end

section
/-! PROOF. Evictions and fills (R88, R91-R93, R96, R101, R102): the outcomes of EVICT, FLUSH and FILL_BLOCK, what a STATUS sends again and
what a refused start comes to. -/

namespace Sys2Proof.Machine

/-! ## The outcome of an EVICT (R91) -/

section
variable {l : LineNo} {i : Slot} {q : Queued} (s : State)

theorem deliverTo_evict {r : RecipeNo} (hq : q.tel = .evict r) (o : Outcome) : deliverTo l q i o s = evictOutcome i r o s := by
  unfold deliverTo
  rw [hq]

theorem deliverTo_flush (hq : q.tel = .flush) (o : Outcome) : deliverTo l q i o s = flushOutcome i o s := by
  unfold deliverTo
  rw [hq]

theorem deliverTo_fillBlock {r : RecipeNo} {v : Byte} {n : Nat} {last : Bool} {victim : Option RecipeNo} {data : List Byte}
    (hq : q.tel = .fillBlock r v n last victim data) (o : Outcome) :
    deliverTo l q i o s = fillBlockOutcome l i last o s := by
  unfold deliverTo
  rw [hq]

end

/-- The start that a fill holds back for an EVICT of its recipe slot, put back into the queue (R101). -/
def PendingStart.requeued (p : PendingStart) (r : RecipeNo) : PendingStart :=
  if p.stage = .evictWait ∧ p.recipe = r then { p with stage := .queued } else p

/-- The entry at the end of an EVICT that leaves this directory. -/
def Entry.evictEnded (e : Entry) (r : RecipeNo) (d : List DirEntry) : Entry :=
  { e with dir := d, start := e.start.map (fun p => p.requeued r) }

section
variable {i : Slot} {r : RecipeNo} {s : State}

theorem evictEnded_modDir (f : List DirEntry → List DirEntry) :
    evictEnded i r (s.modDir i f) = s.setEnt i ((s.ent i).evictEnded r (f (s.ent i).dir)) := by
  have hent : (s.modDir i f).ent i = { s.ent i with dir := f (s.ent i).dir } := s.ent_modEnt_self i _
  unfold evictEnded Entry.evictEnded setStage
  rw [hent]
  cases hp : (s.ent i).start with
  | none => exact congrArg (fun x => s.setEnt i { s.ent i with dir := f (s.ent i).dir, start := x }) hp
  | some p =>
    rw [Option.map_some, PendingStart.requeued]
    dsimp only
    split
    · rw [State.modEnt, hent, State.modDir, State.modEnt, State.setEnt_setEnt, hp]
      rfl
    · exact congrArg (fun x => s.setEnt i { s.ent i with dir := f (s.ent i).dir, start := x }) hp

theorem evictOutcome_left (h : (s.ent i).usesRecipe r = false) : evictOutcome i r (.valid .ack) s =
    s.setEnt i ((s.ent i).evictEnded r ((s.ent i).dir.filter (fun x => x.recipe != r))) := by
  rw [← evictEnded_modDir (fun d => d.filter (fun x => x.recipe != r))]
  exact congrArg _ (if_neg (by rw [h]; decide))

theorem evictOutcome_used (h : (s.ent i).usesRecipe r = true) : evictOutcome i r (.valid .ack) s =
    s.setEnt i ((s.ent i).evictEnded r
      (mapDir r (fun x => { x with eviction := .unset, evictAtEnd := true }) (s.ent i).dir)) := by
  rw [← evictEnded_modDir]
  exact congrArg _ (if_pos h)

theorem evictOutcome_busy : evictOutcome i r (.valid (.nak .busy)) s =
    s.setEnt i ((s.ent i).evictEnded r
      (mapDir r (fun x => { x with eviction := .unset, evictAtEnd := true }) (s.ent i).dir)) :=
  evictEnded_modDir _

theorem evictOutcome_nak {n : NakReason} (h : n ≠ .busy) : evictOutcome i r (.valid (.nak n)) s =
    s.setEnt i ((s.ent i).evictEnded r (mapDir r (fun x => { x with eviction := .due }) (s.ent i).dir)) := by
  rw [← evictEnded_modDir]
  cases n with
  | busy => exact absurd rfl h
  | _ => rfl

theorem evictOutcome_failed (b : Bool) : evictOutcome i r (.failed b) s =
    s.setEnt i ((s.ent i).evictEnded r (mapDir r (fun x => { x with eviction := .due }) (s.ent i).dir)) :=
  evictEnded_modDir _

/-! ## FLUSH again (R93) -/

theorem resendFlush_owed (h : (s.ent i).flushDue = true) :
    resendFlush i s = sendTo i .cache .flush (s.setEnt i { s.ent i with flushDue := false }) := if_pos h

end

/-- A telegram depends on the oven's drop alone. -/
theorem telegramTo_congr {i : Slot} {s t : State} (h : (t.ent i).drop = (s.ent i).drop) {o : Owner} {m : Telegram} :
    t.telegramTo i o m = s.telegramTo i o m := by
  unfold State.telegramTo
  rw [h]

/-- An entry with another directory. -/
def Entry.withDir (e : Entry) (d : List DirEntry) : Entry := { e with dir := d }

/-! ## EVICT again (R91) -/

/-- A DUE eviction sent again. -/
def resendEvict (i : Slot) (x : DirEntry) (s : State) : State :=
  sendEvict i x.recipe (s.modDir i (mapDir x.recipe fun y => { y with eviction := .outstanding }))

/-- A directory entry once the DUE evictions of a list have been sent again. -/
def DirEntry.resent (l : List DirEntry) (d : DirEntry) : DirEntry :=
  if l.any (fun x => x.recipe == d.recipe) then { d with eviction := .outstanding } else d

/-- The EVICTs that a STATUS sends again, from the tail. -/
def Entry.dueEvictions (e : Entry) : List DirEntry :=
  e.dir.reverse.filter (fun x => x.eviction == .due && !e.usesRecipe x.recipe && !e.fills x.recipe)

theorem DirEntry.resent_cons (x : DirEntry) (l : List DirEntry) (d : DirEntry) :
    (if d.recipe = x.recipe then { d with eviction := .outstanding } else d : DirEntry).resent l = d.resent (x :: l) := by
  unfold DirEntry.resent
  by_cases h : d.recipe = x.recipe
  · simp [h]
  · simp [h, Ne.symm h]

section
variable {i : Slot}

theorem ent_resendEvict (x : DirEntry) (s : State) :
    (resendEvict i x s).ent i = 
      (s.ent i).withDir (mapDir x.recipe (fun y => { y with eviction := .outstanding }) (s.ent i).dir) :=
  (ent_sendTo ..).trans (s.ent_modEnt_self i _)

theorem telegramTo_resendEvict (x : DirEntry) (s : State) (o : Owner) (t : Telegram) :
    (resendEvict i x s).telegramTo i o t = s.telegramTo i o t :=
  telegramTo_congr (by rw [ent_resendEvict]; rfl)

theorem resendEvict_waitingOn (x : DirEntry) {s : State} (h : s.OffersWaitInTurn (s.ent i).line) :
    (resendEvict i x s).OffersWaitInTurn (s.ent i).line ∧
      (resendEvict i x s).waitingOn (s.ent i).line = s.waitingOn (s.ent i).line ++ [s.telegramTo i .cache (.evict x.recipe)] := by
  let y := s.modDir i (mapDir x.recipe fun y => { y with eviction := .outstanding })
  have hent : y.ent i = (s.ent i).withDir (mapDir x.recipe (fun y => { y with eviction := .outstanding }) (s.ent i).dir) :=
    s.ent_modEnt_self i _
  have hline : (y.ent i).line = (s.ent i).line := by rw [hent]; rfl
  have htel : y.telegramTo i .cache (.evict x.recipe) = s.telegramTo i .cache (.evict x.recipe) :=
    telegramTo_congr (by rw [hent]; rfl)
  have hwait : y.OffersWaitInTurn (y.ent i).line := by rwa [hline]
  have hturn : (resendEvict i x s).OffersWaitInTurn (y.ent i).line := queueUrgent_offersWaitInTurn _ _ y hwait
  have hsent : (resendEvict i x s).waitingOn (y.ent i).line =
      y.waitingOn (y.ent i).line ++ [y.telegramTo i .cache (.evict x.recipe)] := waitingOn_queueUrgent _ _ y hwait
  rw [hline] at hturn hsent
  exact ⟨hturn, hsent.trans (by rw [htel]; rfl)⟩

theorem foldl_resendEvict (l : List DirEntry) {s : State} (h : s.OffersWaitInTurn (s.ent i).line) :
    (l.foldl (fun s x => resendEvict i x s) s).ent i = (s.ent i).withDir ((s.ent i).dir.map (DirEntry.resent l)) ∧
      (l.foldl (fun s x => resendEvict i x s) s).waitingOn (s.ent i).line =
        s.waitingOn (s.ent i).line ++ l.map (fun d => s.telegramTo i .cache (.evict d.recipe)) := by
  induction l generalizing s with
  | nil =>
    have hmap : (s.ent i).dir.map (DirEntry.resent []) = (s.ent i).dir := List.map_id _
    exact ⟨by rw [hmap]; rfl, (List.append_nil _).symm⟩
  | cons x t ih =>
    have hent := ent_resendEvict (i := i) x s
    have hline : ((resendEvict i x s).ent i).line = (s.ent i).line := by rw [hent]; rfl
    obtain ⟨hturn, hwait⟩ := resendEvict_waitingOn x h
    obtain ⟨hdir, hsent⟩ := ih (s := resendEvict i x s) (by rwa [hline])
    refine ⟨hdir.trans ?_, ?_⟩
    · rw [hent]
      exact congrArg (s.ent i).withDir (List.map_map.trans (List.map_congr_left fun d _ => DirEntry.resent_cons x t d))
    · rw [hline, hwait] at hsent
      simp only [telegramTo_resendEvict] at hsent
      exact hsent.trans (List.append_assoc ..)

theorem resendEvictions_eq (i : Slot) (s : State) : resendEvictions i s =
    (s.ent i).dueEvictions.foldl (fun s x => resendEvict i x s)
      (s.setEnt i ((s.ent i).withDir ((s.ent i).dir.map (DirEntry.heldByUse (s.ent i))))) := by
  have hdue : (s.ent i).dir.reverse.filter (fun x => x.eviction == .due && !(s.ent i).fills x.recipe &&
      !(s.ent i).usesRecipe x.recipe) = (s.ent i).dueEvictions :=
    List.filter_congr fun x _ => Bool.and_right_comm ..
  unfold resendEvictions
  dsimp only
  rw [hdue]
  rfl

/-- A directory entry once a STATUS has had the DUE evictions sent again. -/
def DirEntry.atStatus (e : Entry) (d : DirEntry) : DirEntry :=
  if d.eviction ≠ .due then d
  else if e.usesRecipe d.recipe then { d with evictAtEnd := true }
  else if e.fills d.recipe then d else { d with eviction := .outstanding }

theorem Entry.dueEvictions_any {e : Entry} (hd : e.dir.Pairwise (fun a b => a.recipe ≠ b.recipe)) {d : DirEntry}
    (h : d ∈ e.dir) : e.dueEvictions.any (fun x => x.recipe == d.recipe) =
      (d.eviction == .due && !e.usesRecipe d.recipe && !e.fills d.recipe) := by
  have hself (x : DirEntry) (hx : x ∈ e.dir) (hr : x.recipe = d.recipe) : x = d :=
    List.inj_on_of_nodup_map (List.pairwise_map.mpr hd) hx h hr
  rw [Bool.eq_iff_iff, List.any_eq_true]
  constructor
  · rintro ⟨x, hx, hr⟩
    obtain ⟨hmem, hdue⟩ := List.mem_filter.mp hx
    rwa [hself x (List.mem_reverse.mp hmem) (eq_of_beq hr)] at hdue
  · exact fun hdue => ⟨d, List.mem_filter.mpr ⟨List.mem_reverse.mpr h, hdue⟩, beq_self_eq_true _⟩

theorem DirEntry.resent_heldByUse {e : Entry} (hd : e.dir.Pairwise (fun a b => a.recipe ≠ b.recipe)) {d : DirEntry}
    (h : d ∈ e.dir) : (d.heldByUse e).resent e.dueEvictions = d.atStatus e := by
  have hrecipe : (d.heldByUse e).recipe = d.recipe := by unfold DirEntry.heldByUse; split <;> rfl
  rw [DirEntry.resent, hrecipe, Entry.dueEvictions_any hd h, DirEntry.atStatus]
  by_cases hdue : d.eviction = .due
  · by_cases hu : e.usesRecipe d.recipe = true
    · simp [DirEntry.heldByUse, hdue, hu]
    · by_cases hf : e.fills d.recipe = true <;> simp [DirEntry.heldByUse, hdue, hu, hf]
  · simp [DirEntry.heldByUse, hdue]

theorem resendEvictions_all {s : State} (h : s.OffersWaitInTurn (s.ent i).line)
    (hd : (s.ent i).dir.Pairwise (fun a b => a.recipe ≠ b.recipe)) :
    (resendEvictions i s).ent i = (s.ent i).withDir ((s.ent i).dir.map (DirEntry.atStatus (s.ent i))) ∧
      (resendEvictions i s).waitingOn (s.ent i).line =
        s.waitingOn (s.ent i).line ++ (s.ent i).dueEvictions.map (fun d => s.telegramTo i .cache (.evict d.recipe)) := by
  let e := (s.ent i).withDir ((s.ent i).dir.map (DirEntry.heldByUse (s.ent i)))
  have hent : (s.setEnt i e).ent i = e := State.ent_setEnt_self ..
  have hline : ((s.setEnt i e).ent i).line = (s.ent i).line := by rw [hent]; rfl
  have htel (t : Telegram) : (s.setEnt i e).telegramTo i .cache t = s.telegramTo i .cache t :=
    telegramTo_congr (by rw [hent]; rfl)
  obtain ⟨hdir, hwait⟩ := foldl_resendEvict (i := i) (s.ent i).dueEvictions (s := s.setEnt i e) (by rw [hline]; exact h)
  rw [resendEvictions_eq]
  refine ⟨hdir.trans ?_, ?_⟩
  · rw [hent]
    exact congrArg (s.ent i).withDir
      (List.map_map.trans (List.map_congr_left fun d hm => DirEntry.resent_heldByUse hd hm))
  · rw [hline] at hwait
    simp only [htel] at hwait
    exact hwait

/-! ## EVICT at the end of a use (R92) -/

theorem ent_evictAtEnd (i : Slot) (s : State) :
    (evictAtEnd i s).ent i = (s.ent i).withDir (evictedDir (s.ent i).dir) := by
  rw [evictAtEnd_eq, State.ent_congr (sendEvicts_roster ..), State.ent_setEnt_self]
  rfl

theorem evictAtEnd_waitingOn {s : State} (h : s.OffersWaitInTurn (s.ent i).line) :
    (evictAtEnd i s).waitingOn (s.ent i).line = s.waitingOn (s.ent i).line ++ s.endEvicts i := by
  let e := (s.ent i).withDir (evictedDir (s.ent i).dir)
  have hent : (s.setEnt i e).ent i = e := State.ent_setEnt_self ..
  have hline : ((s.setEnt i e).ent i).line = (s.ent i).line := by rw [hent]; rfl
  have htel (t : Telegram) : (s.setEnt i e).telegramTo i .cache t = s.telegramTo i .cache t :=
    telegramTo_congr (by rw [hent]; rfl)
  have hwait := (sendEvicts_waitingOn i ((s.ent i).dir.filter (fun d => d.evictAtEnd)) (s.setEnt i e) (by rw [hline]; exact h)).2
  rw [hline] at hwait
  simp only [htel] at hwait
  exact hwait

end

/-! ## The blocks of a fill (R100-R102) -/

theorem Outcome.isAck_iff (o : Outcome) : o.isAck = true ↔ o = .valid .ack := by
  rcases o with ⟨r⟩ | b
  · cases r <;> simp [Outcome.isAck]
  · simp [Outcome.isAck]

/-- The line at the end of a fill's stream to an oven: the buffer is free (R102). -/
def Line.fillEnded (x : Line) (i : Slot) : Line :=
  { x with fill := none, streams := x.streams.filter (fun z => !(z.kind == .fill && z.slot == i)) }

theorem endFillStream_eq (l : LineNo) (i : Slot) (s : State) :
    endFillStream l i s = s.setLn l ((s.ln l).fillEnded i) := by
  unfold endFillStream setFill removeStream State.modLn
  rw [State.ln_setLn_self, State.setLn_setLn]
  rfl

theorem ln_joinFillQueue (i : Slot) (s : State) (n : LineNo) : (joinFillQueue i s).ln n =
    { s.ln n with fillQueue :=
        if n = (s.ent i).line then (s.ln n).fillQueue ++ [{ slot := i, waiting := false }] else (s.ln n).fillQueue } := by
  rw [joinFillQueue, State.ln_modLn]
  split
  next h => rw [h]
  next => rfl

section
variable {l : LineNo} {i : Slot} {s : State} {f : Fill} {x : Stream} (hf : (s.ln l).fill = some f)
  (hx : s.streamOf l .fill i = some x)
include hf hx

theorem fillBlockOutcome_dropped (last : Bool) (o : Outcome) (h : x.drop = true) :
    fillBlockOutcome l i last o s = endFillStream l i s := by
  unfold fillBlockOutcome
  rw [hf, hx]
  exact if_pos h

theorem fillBlockOutcome_stored (h : x.drop = false) : fillBlockOutcome l i false (.valid .ack) s =
    modStream l .fill i (fun x => { x with next := x.next + 1, ready := true }) s := by
  unfold fillBlockOutcome
  rw [hf, hx]
  exact if_neg (by rw [h]; decide)

theorem fillBlockOutcome_last (h : x.drop = false) : fillBlockOutcome l i true (.valid .ack) s = fillComplete l f s := by
  unfold fillBlockOutcome
  rw [hf, hx]
  exact if_neg (by rw [h]; decide)

theorem fillBlockOutcome_refused (last : Bool) {o : Outcome} (h : x.drop = false) (ho : o ≠ .valid .ack) :
    fillBlockOutcome l i last o s = refuseStart i .line (endFillStream l i s) := by
  unfold fillBlockOutcome
  rw [hf, hx]
  exact (if_neg (by rw [h]; decide)).trans (if_neg fun ha => ho (o.isAck_iff.mp ha))

end

/-! ## The end of a fill (R101) -/

/-- The directory entry that the last block of a fill makes. -/
def Fill.entry (f : Fill) : DirEntry :=
  { recipe := f.recipe, version := f.version, stale := f.stale, evictAtEnd := false,
    eviction := if f.stale then .outstanding else .unset }

/-- The copies that a fill leaves in the directory beside its own. -/
def Entry.keptBy (e : Entry) (f : Fill) : List DirEntry :=
  e.dir.filter (fun x => x.recipe != f.recipe && some x.recipe != f.victim)

theorem Entry.keptBy_others (e : Entry) (f : Fill) : (e.keptBy f).filter (fun x => x.recipe != f.recipe) = e.keptBy f :=
  List.filter_eq_self.mpr fun d hd => by
    obtain ⟨hne, _⟩ := Bool.and_eq_true_iff.mp (List.mem_filter.mp hd).2
    exact hne

/-- The entry of an oven that is granted the copy a fill has just brought. -/
def Entry.filledGranted (e : Entry) (p : PendingStart) (f : Fill) : Entry :=
  { e with token := e.token + 1, dir := f.entry :: e.keptBy f,
           grant := some { token := e.token + 1, recipe := f.recipe, version := f.version, origin := p.origin, tag := p.tag,
                           confirmed := false },
           start := some { p with stage := .granting } }

theorem Entry.granted_filled (e : Entry) {p : PendingStart} {f : Fill} (h : p.recipe = f.recipe) :
    (e.withDir (f.entry :: e.keptBy f)).granted p f.entry = e.filledGranted p f := by
  have hdir : (f.entry :: e.keptBy f).filter (fun d => d.recipe != p.recipe) = e.keptBy f := by
    rw [h, List.filter_cons_of_neg (by simp [Fill.entry]), Entry.keptBy_others]
  unfold Entry.granted Entry.withDir Entry.filledGranted
  dsimp only
  rw [hdir, h]
  rfl

/-- R101: the last block of a fill that became stale: the new copy is evicted, and the start waits for that. -/
def State.refilling (s : State) (l : LineNo) (f : Fill) : State :=
  (endFillStream l f.slot s).setEnt f.slot { s.ent f.slot with
    dir := f.entry :: (s.ent f.slot).keptBy f, start := (s.ent f.slot).start.map (fun p => { p with stage := .evictWait }) }

/-- A change of the oven's entry that leaves its place alone may as well come before a telegram to it. -/
theorem setEnt_sendTo {i : Slot} {o : Owner} {t : Telegram} {a b : Entry} {s : State} (hl : a.line = b.line)
    (hd : a.drop = b.drop) : (sendTo i o t (s.setEnt i a)).setEnt i b = sendTo i o t (s.setEnt i b) := by
  rw [sendTo_setEnt, sendTo_setEnt, hl, hd, ← s.setEnt_setEnt i a b]
  rfl

section
variable {l : LineNo} {f : Fill} {s : State}

theorem fillComplete_live {p : PendingStart} (hs : f.stale = false) (hp : (s.ent f.slot).start = some p)
    (hr : p.recipe = f.recipe) : fillComplete l f s =
      sendTo f.slot .cache (grantTelegram p.origin ((s.ent f.slot).token + 1) f.recipe f.version)
        ((endFillStream l f.slot s).setEnt f.slot ((s.ent f.slot).filledGranted p f)) := by
  have hended : (endFillStream l f.slot s).ent f.slot = s.ent f.slot := by rw [endFillStream_eq, State.ent_setLn]
  let y := (endFillStream l f.slot s).setEnt f.slot ((s.ent f.slot).withDir (f.entry :: (s.ent f.slot).keptBy f))
  have hent : y.ent f.slot = (s.ent f.slot).withDir (f.entry :: (s.ent f.slot).keptBy f) := State.ent_setEnt_self ..
  have hfill : fillComplete l f s = composeGrant f.slot y := by
    refine (if_neg (by rw [hs]; decide)).trans (congrArg (composeGrant f.slot) ?_)
    rw [State.modEnt, hended]
    rfl
  have hentry : (y.ent f.slot).dirEntry p.recipe = some f.entry := by
    rw [hent, hr]
    exact List.find?_cons_of_pos (beq_self_eq_true _)
  rw [hfill, composeGrant_some (by rw [hent]; exact hp) hentry, hent, State.setEnt_setEnt, Entry.granted_filled _ hr, hr]
  rfl

theorem fillComplete_stale (hs : f.stale = true) : fillComplete l f s =
    joinFillQueue f.slot (sendTo f.slot .cache (.evict f.recipe) (s.refilling l f)) := by
  have hended : (endFillStream l f.slot s).ent f.slot = s.ent f.slot := by rw [endFillStream_eq, State.ent_setLn]
  refine (if_pos hs).trans (congrArg (joinFillQueue f.slot) ?_)
  rw [State.modEnt, hended, setStage, State.modEnt, sendEvict, ent_sendTo, State.ent_setEnt_self]
  exact setEnt_sendTo rfl rfl

theorem ent_refilling (l : LineNo) (f : Fill) (s : State) : (s.refilling l f).ent f.slot = { s.ent f.slot with
    dir := f.entry :: (s.ent f.slot).keptBy f,
    start := (s.ent f.slot).start.map (fun p => { p with stage := .evictWait }) } := State.ent_setEnt_self ..

theorem telegramTo_refilling (l : LineNo) (f : Fill) (s : State) (o : Owner) (t : Telegram) :
    (s.refilling l f).telegramTo f.slot o t = s.telegramTo f.slot o t := telegramTo_congr (by rw [ent_refilling]; rfl)

theorem line_refilling (l : LineNo) (f : Fill) (s : State) : ((s.refilling l f).ent f.slot).line = (s.ent f.slot).line := by
  rw [ent_refilling]
  rfl

/-- R101: the buffer is free, the EVICT waits on the line and the oven has joined the fill queue again. -/
theorem refilled_lines (l : LineNo) (f : Fill) (s : State) :
    let t := joinFillQueue f.slot (sendTo f.slot .cache (.evict f.recipe) (s.refilling l f))
    (t.ln l).fill = none ∧ s.telegramTo f.slot .cache (.evict f.recipe) ∈ t.waitingOn (s.ent f.slot).line ∧
      (t.ln (s.ent f.slot).line).fillQueue = (s.ln (s.ent f.slot).line).fillQueue ++ [{ slot := f.slot, waiting := false }] := by
  intro t
  let u := sendTo f.slot .cache (.evict f.recipe) (s.refilling l f)
  have hjoined (n : LineNo) := ln_joinFillQueue f.slot u n
  have hline : (u.ent f.slot).line = (s.ent f.slot).line := line_refilling l f s
  have hln (n : LineNo) : ∃ a w, u.ln n = { (s.refilling l f).ln n with urgent := a, waiting := w } := ln_queueUrgent ..
  have hended (n : LineNo) : (s.refilling l f).ln n = if n = l then (s.ln l).fillEnded f.slot else s.ln n := by
    rw [State.refilling, State.ln_setEnt, endFillStream_eq, State.ln_setLn]
  refine ⟨?_, ?_, ?_⟩
  · obtain ⟨a, w, hu⟩ := hln l
    rw [hjoined, hu, hended, if_pos rfl]
    rfl
  · have hwaits := mem_waitingOn_sendTo f.slot .cache (.evict f.recipe) (s.refilling l f)
    rw [telegramTo_refilling, line_refilling] at hwaits
    have hsame : t.waitingOn (s.ent f.slot).line = u.waitingOn (s.ent f.slot).line :=
      waitingOn_congr (by rw [hjoined]) (by rw [hjoined])
    rwa [hsame]
  · obtain ⟨a, w, hu⟩ := hln (s.ent f.slot).line
    rw [hjoined, hline, if_pos rfl, hu, hended]
    split
    next hl => rw [hl]; rfl
    next => rfl

end

/-! ## The refusal of a start (R96) -/

section
variable {i : Slot} {s : State} {p : PendingStart}

theorem refuseStart_answer (why : Reason) (h : (s.ent i).start = some p) : refuseStart i why s =
    answerRefusal i p why (evictAtEnd i (s.setEnt i (s.ent i).unstarted)) := by
  rw [refuseStart_some why h, evictAtEnd_eq, State.ent_setEnt_self, State.setEnt_setEnt]
  rfl

theorem answerRefusal_line (s : State) (h : p.origin = .controller) :
    answerRefusal i p .line s = endLong (.oven i) .line (p.stage.code.setWidth 32) 0 0 s := by
  unfold answerRefusal
  rw [h]
  rfl

end

end Sys2Proof.Machine

open Sys2Proof.Machine in
/-- Settles O39: the outcomes of EVICT and FLUSH, the evictions sent again, the end of a use, the blocks of a fill, a refused start. -/
theorem evictionsAndFillsEnd : Obligations.EvictionsAndFillsEnd := by
  unfold Obligations.EvictionsAndFillsEnd
  intro l i q s
  refine ⟨fun r hq => ?evict, fun hq => ?flush, resendFlush_notOwed, resendFlush_owed,
    fun h hd => ⟨resendEvictions_all h hd, ent_evictAtEnd i s, evictAtEnd_waitingOn h⟩,
    fun r v n last victim data f x hq hf hi hx => ⟨endFillStream_eq l i s, fun hd o => ?dropped, fun hd =>
      ⟨fun hn => ?stored, fun p hlast hp hr => ?last, fun o ho => ?refused⟩⟩,
    fun p why hp => ?start⟩
  case evict =>
    simp only [deliverTo_evict s hq]
    exact ⟨evictOutcome_left, evictOutcome_used, evictOutcome_busy, fun n hn => evictOutcome_nak hn, evictOutcome_failed⟩
  case flush =>
    simp only [deliverTo_flush s hq]
    exact ⟨fun r => rfl, fun b => rfl⟩
  case dropped => exact (deliverTo_fillBlock s hq o).trans (fillBlockOutcome_dropped hf hx last o hd)
  case stored =>
    subst hn
    exact (deliverTo_fillBlock s hq _).trans (fillBlockOutcome_stored hf hx hd)
  case last =>
    subst hlast hi
    have hdone := (deliverTo_fillBlock s hq (.valid .ack)).trans (fillBlockOutcome_last hf hx hd)
    refine ⟨fun hs => ?live, fun hs => ?stale⟩
    case live =>
      rw [hdone, fillComplete_live hs hp hr]
      unfold Entry.filledGranted Fill.entry
      rw [hs]
      rfl
    case stale =>
      obtain ⟨hfill, hevict, hqueue⟩ := refilled_lines l f s
      rw [hdone, fillComplete_stale hs]
      refine ⟨hfill, hevict, hqueue, (ent_refilling l f s).trans ?_⟩
      unfold Fill.entry
      rw [hs, hp]
      rfl
  case refused => exact (deliverTo_fillBlock s hq o).trans (fillBlockOutcome_refused hf hx last hd ho)
  case start =>
    rw [refuseStart_answer why hp]
    exact ⟨fun ho => answerRefusal_deny _ ho, fun ho hw => hw ▸ answerRefusal_line _ ho,
      fun ho hw => answerRefusal_denied _ ho hw⟩
end

section
/-! PROOF. Cooks (R95-R97, R103, R105-R111): what a GRANT's outcome, an adoption, a cook's notices, its silence, a request and an ABORT's
outcome come to. -/

namespace Sys2Proof.Machine

/-! ## The outcome of a grant (R103) -/

theorem deliverTo_grant {l : LineNo} {i : Slot} {q : Queued} {t : Byte} {r : RecipeNo} {v : Byte} (s : State)
    (hq : q.tel = .grant t r v ∨ q.tel = .start t r v) (o : Outcome) : deliverTo l q i o s = grantOutcome i t r v o s := by
  unfold deliverTo
  rcases hq with hq | hq <;> rw [hq]

/-- The completion of a start that the controller asked for; a panel's start has none. -/
def completeStart (i : Slot) (p : PendingStart) (c : ResultCode) (d1 d2 d3 : Word) (s : State) : State :=
  if p.origin = .controller then endLong (.oven i) c d1 d2 d3 s else s

/-- R103: the acknowledged grant is the cook record, and a pin. -/
def State.grantTaken (s : State) (i : Slot) (g : GrantRec) : State :=
  (s.setEnt i { s.ent i with
    grant := some { g with confirmed := true }, start := none, activity := .cooking, cook := some (s.grantCook g) }).setRslot
      g.recipe { s.rslot g.recipe with pins := (s.rslot g.recipe).pins + 1 }

section
variable {i : Slot} {s : State}

theorem grantAcked_eq (p : PendingStart) (g : GrantRec) : grantAcked i p g s =
    completeStart i p .done (g.token.setWidth 32) (g.version.setWidth 32) (if p.fillNeeded then 1 else 0) (s.grantTaken i g) := by
  have hbit : (bit p.fillNeeded).setWidth 32 = if p.fillNeeded then (1 : Word) else 0 := by cases p.fillNeeded <;> rfl
  have hmade : makeCook i (s.grantCook g) (s.modEnt i fun e => { e with grant := some { g with confirmed := true }, start := none }) =
      s.grantTaken i g := by
    unfold makeCook
    rw [State.modEnt, State.modEnt, State.ent_setEnt_self, State.setEnt_setEnt]
    rfl
  unfold grantAcked
  rw [hmade, hbit]
  rfl

theorem grantEnds_eq (p : PendingStart) (c : ResultCode) (d : Word) : grantEnds i p c d s =
    completeStart i p c d 0 0 (evictAtEnd i (s.setEnt i (s.ent i).unstarted)) := by
  have hidle : toIdle i (s.modEnt i fun e => { e with start := none }) = s.setEnt i (s.ent i).unstarted := by
    rw [toIdle_eq, State.modEnt, State.ent_setEnt_self, State.setEnt_setEnt]
    rfl
  unfold grantEnds returnIdle
  rw [hidle]
  rfl

theorem Entry.awaitsGrant_some {e : Entry} {p : PendingStart} (hp : e.start = some p) (hst : p.stage = .granting) :
    e.awaitsGrant = some p := by
  rw [Entry.awaitsGrant, hp]
  simp [hst]

theorem GrantRec.names_of {g : GrantRec} {t : Byte} {r : RecipeNo} {v : Byte} (hc : g.confirmed = false) (ht : g.token = t)
    (hr : g.recipe = r) (hv : g.version = v) : g.names t r v = true := by
  simp [GrantRec.names, hc, ht, hr, hv]

section
variable {p : PendingStart} {g : GrantRec} {t : Byte} {r : RecipeNo} {v : Byte} (hp : (s.ent i).start = some p)
  (hst : p.stage = .granting) (hg : (s.ent i).grant = some g) (hn : g.names t r v = true)
include hp hst hg hn

theorem grantOutcome_ack : grantOutcome i t r v (.valid .ack) s = grantAcked i p g s := by
  unfold grantOutcome
  rw [Entry.awaitsGrant_some hp hst, hg]
  exact if_pos hn

theorem grantOutcome_nak (n : NakReason) : grantOutcome i t r v (.valid (.nak n)) s =
    grantEnds i p .denied 2 (s.setEnt i { s.ent i with grant := none }) := by
  unfold grantOutcome
  rw [Entry.awaitsGrant_some hp hst, hg]
  exact if_pos hn

theorem grantOutcome_failed (b : Bool) : grantOutcome i t r v (.failed b) s = grantEnds i p .line 5 s := by
  unfold grantOutcome
  rw [Entry.awaitsGrant_some hp hst, hg]
  exact if_pos hn

end

/-- R92 finds nothing to evict where no entry is marked. -/
theorem evictAtEnd_unmarked (h : ∀ d ∈ (s.ent i).dir, d.evictAtEnd = false) : evictAtEnd i s = s := by
  have hnone : (s.ent i).dir.filter (fun d => d.evictAtEnd) = [] := List.filter_eq_nil_iff.mpr fun d hd => by simp [h d hd]
  have hdir : evictedDir (s.ent i).dir = (s.ent i).dir :=
    (List.map_congr_left fun d hd => if_neg (by simp [h d hd])).trans (List.map_id _)
  rw [evictAtEnd_eq, hnone, hdir]
  exact s.setEnt_ent i

section
variable {t : Byte} {r : RecipeNo} {v : Byte}

theorem grantOutcome_abandoned (hp : (s.ent i).start = none) (o : Outcome) :
    grantOutcome i t r v o s = abandonedGrant i t r v o s := by
  have hawaits : (s.ent i).awaitsGrant = none := by rw [Entry.awaitsGrant, hp]; rfl
  unfold grantOutcome
  rw [hawaits]

theorem abandonedGrant_ack (hi : (s.ent i).activity = .idle) (hs : (s.ent i).state = .suspended ∨ (s.ent i).state = .inService) :
    abandonedGrant i t r v (.valid .ack) s = adopt i t r v s := if_pos ⟨hs, hi⟩

variable (hi : (s.ent i).activity = .idle) (hd : ∀ d ∈ (s.ent i).dir, d.evictAtEnd = false)
include hi hd

theorem abandonedGrant_nak (n : NakReason) : abandonedGrant i t r v (.valid (.nak n)) s =
    s.setEnt i { s.ent i with grant := (s.ent i).grant.filter (fun g => !(g.names t r v)) } := by
  have hent := s.ent_modEnt_self i fun e => { e with grant := e.grant.filter (fun g => !g.names t r v) }
  exact (if_pos (by rw [hent]; exact hi)).trans (evictAtEnd_unmarked (by rw [hent]; exact hd))

theorem abandonedGrant_failed (b : Bool) : abandonedGrant i t r v (.failed b) s = s :=
  (if_pos hi).trans (evictAtEnd_unmarked hd)

end
end

/-! ## Adoption (R108) -/

section
variable (d : List DirEntry) (r : RecipeNo) (v : Byte) (stale : Bool)

/-- The entry that an adoption makes where the directory holds none of this version. -/
def adoptedEntry : DirEntry := { recipe := r, version := v, stale := stale, evictAtEnd := stale, eviction := .unset }

variable {d r v}

theorem adoptDir_kept {x : DirEntry} (h : d.find? (fun x => x.recipe == r) = some x) (hv : x.version = v) :
    adoptDir d r v stale =
      ({ x with stale := stale, evictAtEnd := x.evictAtEnd || stale } :: d.filter (fun y => y.recipe != r), none) := by
  unfold adoptDir
  rw [h]
  exact if_pos hv

theorem adoptDir_replaced {x : DirEntry} (h : d.find? (fun x => x.recipe == r) = some x) (hv : x.version ≠ v) :
    adoptDir d r v stale = (adoptedEntry r v stale :: d.filter (fun y => y.recipe != r), none) := by
  unfold adoptDir
  rw [h]
  exact if_neg hv

theorem adoptDir_joined (h : d.find? (fun x => x.recipe == r) = none) (hl : d.length < 8) :
    adoptDir d r v stale = (adoptedEntry r v stale :: d, none) := by
  unfold adoptDir
  rw [h]
  exact if_pos hl

theorem adoptDir_full {front : List DirEntry} {last : DirEntry} (h : d.find? (fun x => x.recipe == r) = none)
    (hd : d = front ++ [last]) (hl : 8 ≤ d.length) :
    adoptDir d r v stale = (adoptedEntry r v stale :: front, some last.recipe) := by
  have hpushed : adoptDir d r v stale = (adoptedEntry r v stale :: d.dropLast, d.getLast?.map (fun x => x.recipe)) := by
    unfold adoptDir
    rw [h]
    exact if_neg (Nat.not_lt.mpr hl)
  rw [hpushed, hd, List.dropLast_concat, List.getLast?_concat]
  rfl

end

/-- The state once the cook is adopted, before a FAULT has it aborted. -/
def State.cookAdopted (s : State) (i : Slot) (t : Byte) (r : RecipeNo) (v : Byte) : State :=
  makeCook i (s.adoptedCook i t r v) (evictOut i (adoptDir (s.ent i).dir r v (s.staleFor r v)).2 (s.adopting i t r v))

theorem mem_waitingOn_mono {q x : Queued} {n : LineNo} {s : State} (h : x ∈ s.waitingOn n) (l : LineNo) :
    x ∈ (queueUrgent l q s).waitingOn n := by
  have hmem : x ∈ (s.ln n).urgent ∨ x ∈ (s.ln n).waiting := List.mem_append.mp h
  refine List.mem_append.mpr ?_
  by_cases hn : n = l
  · subst hn
    rw [queueUrgent, State.ln_modLn, if_pos rfl]
    split
    · exact hmem.imp_left (List.mem_append_left _)
    · exact hmem.imp_right (List.mem_append_left _)
  · rwa [ln_queueUrgent_ne q s hn]

section
variable {i : Slot} {s : State}

theorem mem_waitingOn_queueRosterAbort {x : Queued} {n : LineNo} (h : x ∈ s.waitingOn n) :
    x ∈ (queueRosterAbort i s).waitingOn n := by
  by_cases hm : (s.ent i).abortMark = .unset
  · rw [queueRosterAbort_unset hm]
    exact mem_waitingOn_mono h _
  · rwa [queueRosterAbort_set hm]

theorem rslot_queueRosterAbort (r : RecipeNo) : (queueRosterAbort i s).rslot r = s.rslot r := by
  by_cases hm : (s.ent i).abortMark = .unset
  · rw [queueRosterAbort_unset hm]
    rfl
  · rw [queueRosterAbort_set hm]

variable (t : Byte) (r : RecipeNo) (v : Byte)

theorem adopt_cases : adopt i t r v s =
    if (s.ent i).state = .suspended ∧ (s.ent i).causes.getLsbD 1 then queueRosterAbort i (s.cookAdopted i t r v)
    else s.cookAdopted i t r v := by
  have horigin (m : Option GrantRec) : (match m with | some g => g.origin | none => .adopted) =
      (m.map fun g => g.origin).getD .adopted := by cases m <;> rfl
  have htag (m : Option GrantRec) : (match m with | some g => g.tag | none => none) = m.bind fun g => g.tag := by cases m <;> rfl
  have hout (out : Option RecipeNo) (y : State) :
      (match out with | some k => sendEvict i k y | none => y) = evictOut i out y := by cases out <;> rfl
  unfold State.cookAdopted State.adoptedCook
  rw [← horigin, ← htag, ← hout]
  rfl

theorem ent_cookAdopted : (s.cookAdopted i t r v).ent i = s.adopted i t r v := by
  rw [State.cookAdopted, makeCook, State.ent_modRslot, State.ent_modEnt_self, ent_evictOut, State.adopting,
    State.ent_modEnt_self]
  rfl

theorem rslot_cookAdopted : (s.cookAdopted i t r v).rslot r = { s.rslot r with pins := (s.rslot r).pins + 1 } := by
  rw [State.cookAdopted, makeCook, State.rslot_modRslot, if_pos (by rfl), State.rslot_modEnt, rslot_evictOut,
    State.adopting, State.rslot_modEnt]
  rfl

/-- Whatever the state of the oven, an adoption makes this entry, but for the roster's abort mark. -/
theorem ent_adopt_any : ∃ m, (adopt i t r v s).ent i = { s.adopted i t r v with abortMark := m } := by
  rw [adopt_cases]
  split
  · exact ⟨_, (ent_queueRosterAbort ..).trans (by rw [ent_cookAdopted])⟩
  · exact ⟨_, ent_cookAdopted ..⟩

theorem rslot_adopt : (adopt i t r v s).rslot r = { s.rslot r with pins := (s.rslot r).pins + 1 } := by
  rw [adopt_cases]
  split
  · rw [rslot_queueRosterAbort, rslot_cookAdopted]
  · exact rslot_cookAdopted ..

/-- R108: the tail entry that an adoption pushes out is sent EVICT. -/
theorem adopt_evicts {k : RecipeNo} (h : (adoptDir (s.ent i).dir r v (s.staleFor r v)).2 = some k) :
    s.telegramTo i .cache (.evict k) ∈ (adopt i t r v s).waitingOn (s.ent i).line := by
  have hent : (s.adopting i t r v).ent i = { s.ent i with
      dir := (adoptDir (s.ent i).dir r v (s.staleFor r v)).1,
      grant := if (s.grantOf i t r v).isSome then (s.ent i).grant.map (fun g => { g with confirmed := true })
        else (s.ent i).grant } := State.ent_modEnt_self ..
  have hsent := mem_waitingOn_sendTo i .cache (.evict k) (s.adopting i t r v)
  have htel : (s.adopting i t r v).telegramTo i .cache (.evict k) = s.telegramTo i .cache (.evict k) :=
    telegramTo_congr (by rw [hent]; rfl)
  have hline : ((s.adopting i t r v).ent i).line = (s.ent i).line := by rw [hent]; rfl
  rw [htel, hline] at hsent
  have hadopted : s.telegramTo i .cache (.evict k) ∈ (s.cookAdopted i t r v).waitingOn (s.ent i).line := by
    rw [State.cookAdopted, h]
    exact hsent
  rw [adopt_cases]
  split
  · exact mem_waitingOn_queueRosterAbort hadopted
  · exact hadopted

/-- R20, R109: a cook adopted in an oven SUSPENDED with FAULT is aborted. -/
theorem adopt_aborts (hs : (s.ent i).state = .suspended) (hf : (s.ent i).causes.getLsbD 1 = true)
    (hm : (s.ent i).abortMark = .unset) : ((adopt i t r v s).ent i).abortMark = .outstanding ∧
      s.telegramTo i .roster .abort ∈ (adopt i t r v s).waitingOn (s.ent i).line := by
  have hent := ent_cookAdopted (i := i) (s := s) t r v
  have hmark : ((s.cookAdopted i t r v).ent i).abortMark = .unset := by rw [hent]; exact hm
  rw [adopt_cases, if_pos ⟨hs, hf⟩]
  refine ⟨by rw [ent_queueRosterAbort, if_pos hmark], ?_⟩
  rw [queueRosterAbort_unset hmark, sendTo_setEnt, hent]
  exact mem_waitingOn_queueUrgent ..

end

/-! ## The notices of a cook (R105, R106, R108, R110) -/

theorem takeNotice_cook {t : Byte} {r : RecipeNo} {v k : Byte} {o : CookOutcome} {n : Notice}
    (h : n = .step t r v k ∨ n = .cookEnd t r v o k) (i : Slot) :
    ∃ news, ∀ s, takeNotice i n s = cookNotice i n t r v news s := by
  rcases h with h | h <;> subst h
  · exact ⟨.step k, fun _ => rfl⟩
  · exact ⟨.ended o k, fun _ => rfl⟩

theorem CookRec.names_iff (c : CookRec) (t : Byte) (r : RecipeNo) (v : Byte) :
    c.names t r v = true ↔ c.token = t ∧ c.recipe = r ∧ c.version = v := by
  simp [CookRec.names, and_assoc]

section
variable {i : Slot} {s : State} {nt : Notice} {t : Byte} {r : RecipeNo} {v : Byte} {n : CookNews}

theorem cookNotice_stateless (h : (s.ent i).state ≠ .inService) (h' : (s.ent i).state ≠ .suspended) :
    cookNotice i nt t r v n s = s := if_neg (not_or.mpr ⟨h, h'⟩)

variable (hs : (s.ent i).state = .inService ∨ (s.ent i).state = .suspended)
include hs

theorem cookNotice_idle (ha : (s.ent i).activity = .idle) :
    cookNotice i nt t r v n s = takeCookNews i n (adopt i t r v s) := by
  refine (if_pos hs).trans ?_
  rw [ha]

theorem cookNotice_own {c : CookRec} (ha : (s.ent i).activity = .cooking) (hc : (s.ent i).cook = some c)
    (hn : c.names t r v = true) : cookNotice i nt t r v n s = takeCookNews i n s := by
  refine (if_pos hs).trans ?_
  rw [ha, hc]
  exact if_pos hn

theorem cookNotice_other {c : CookRec} (ha : (s.ent i).activity = .cooking) (hc : (s.ent i).cook = some c)
    (hn : ¬c.names t r v = true) : cookNotice i nt t r v n s = raiseProtocol i nt s := by
  refine (if_pos hs).trans ?_
  rw [ha, hc]
  exact if_neg hn

theorem cookNotice_uncooking (ha : (s.ent i).activity ≠ .idle) (ha' : (s.ent i).activity ≠ .cooking) :
    cookNotice i nt t r v n s = raiseProtocol i nt s := by
  refine (if_pos hs).trans ?_
  split
  next h => exact absurd h ha
  next h => exact absurd h ha'
  next => rfl

/-- R108: a notice from an idle oven is taken as the adopted cook's own. -/
theorem cookNotice_adopted (ha : (s.ent i).activity = .idle) :
    cookNotice i nt t r v n s = cookNotice i nt t r v n (adopt i t r v s) := by
  obtain ⟨m, hent⟩ := ent_adopt_any (i := i) (s := s) t r v
  have hnames : (s.adoptedCook i t r v).names t r v = true := (CookRec.names_iff ..).mpr ⟨rfl, rfl, rfl⟩
  exact (cookNotice_idle hs ha).trans
    (cookNotice_own (by rw [hent]; exact hs) (by rw [hent]; rfl) (by rw [hent]; rfl) hnames).symm

end

/-- The entry of an oven whose cook has ended, its directory as it stood. -/
def Entry.uncooked (e : Entry) : Entry := { e with cook := none, activity := .idle, abortMark := .unset }

/-- R106: the cook is journalled and its pin released, before the EVICTs of the return to IDLE. -/
def State.cookClosed (s : State) (i : Slot) (c : CookRec) (o : CookOutcome) (steps : Byte) : State :=
  (passJournal (s.cookJournal i c o steps) (s.setRslot c.recipe
    { s.rslot c.recipe with pins := (s.rslot c.recipe).pins - 1 })).setEnt i (s.ent i).uncooked

section
variable {i : Slot} {s : State} {c : CookRec} (hc : (s.ent i).cook = some c)
include hc

theorem takeCookNews_step (k : Byte) :
    takeCookNews i (.step k) s = s.setEnt i { s.ent i with cook := some { c with step := k } } := by
  unfold takeCookNews
  rw [hc]
  rfl

theorem takeCookNews_ended (o : CookOutcome) (steps : Byte) :
    takeCookNews i (.ended o steps) s = evictAtEnd i (s.cookClosed i c o steps) := by
  unfold takeCookNews endCook returnIdle
  rw [hc]
  dsimp only
  rw [closeCook_eq, setRslot_setEnt, passJournal_setEnt, toIdle_eq, State.ent_setEnt_self, State.setEnt_setEnt]
  rfl

end

section
variable (i : Slot) (s : State) (c : CookRec) (o : CookOutcome) (steps : Byte)

theorem ent_cookClosed : (s.cookClosed i c o steps).ent i = (s.ent i).uncooked := State.ent_setEnt_self ..

theorem ln_cookClosed (n : LineNo) : (s.cookClosed i c o steps).ln n = s.ln n :=
  (State.ln_setEnt ..).trans (ln_passJournal ..)

theorem rslot_cookClosed :
    (s.cookClosed i c o steps).rslot c.recipe = { s.rslot c.recipe with pins := (s.rslot c.recipe).pins - 1 } := by
  rw [State.cookClosed, State.rslot_setEnt, rslot_passJournal, State.rslot_setRslot_self]

theorem cookClosed_passed :
    ((s.cookClosed i c o steps).report.journal, (s.cookClosed i c o steps).report.gapPending) =
      s.report.passed (s.cookJournal i c o steps) := passJournal_passed _ _

theorem evictAtEnd_keeps (y : State) :
    (evictAtEnd i y).report = y.report ∧ (evictAtEnd i y).recipe = y.recipe := by
  rw [evictAtEnd_eq, sendEvicts_eq]
  exact ⟨rfl, rfl⟩

theorem cookEnded_waitingOn (h : s.OffersWaitInTurn (s.ent i).line) :
    (evictAtEnd i (s.cookClosed i c o steps)).waitingOn (s.ent i).line = s.waitingOn (s.ent i).line ++ s.endEvicts i := by
  have hent := ent_cookClosed i s c o steps
  have hline : ((s.cookClosed i c o steps).ent i).line = (s.ent i).line := by rw [hent]; rfl
  have hln := ln_cookClosed i s c o steps (s.ent i).line
  have hturn : (s.cookClosed i c o steps).OffersWaitInTurn ((s.cookClosed i c o steps).ent i).line := by
    rw [hline]
    exact (OffersWaitInTurn_congr (by rw [hln]) (by rw [hln])).mpr h
  have hevicts : (s.cookClosed i c o steps).endEvicts i = s.endEvicts i := by
    unfold State.endEvicts
    rw [hent]
    exact List.map_congr_left fun d _ => telegramTo_congr (by rw [hent]; rfl)
  have hwait := evictAtEnd_waitingOn hturn
  rw [hline, hevicts] at hwait
  exact hwait.trans (congrArg (· ++ _) (waitingOn_congr (by rw [hln]) (by rw [hln])))

end

/-- R107: a cook closed by silence, its oven empty and idle. -/
theorem silenced_cook {i : Slot} {s : State} {c : CookRec} (hc : (s.ent i).cook = some c) :
    let x := closeCookUnknown i (s.silenced i)
    (x.rslot c.recipe).pins = (s.rslot c.recipe).pins - 1 ∧
      x.ent i = { s.ent i with silence := none, activity := .idle, abortMark := .unset, cook := none, dir := [] } ∧
      (x.report.journal, x.report.gapPending) = s.report.passed (s.cookJournal i c .unknown c.step) := by
  have hent : (s.silenced i).ent i = { s.ent i with silence := none } := State.ent_setEnt_self ..
  intro x
  have hx : x = _ := closeCookUnknown_some (k := c) (by rw [hent]; exact hc)
  rw [hx]
  refine ⟨?_, ?_, passJournal_passed _ _⟩
  · rw [State.rslot_setEnt, rslot_passJournal, State.rslot_setRslot_self]
    rfl
  · rw [State.ent_setEnt_self, hent]

/-! ## A start request (R95-R97) -/

section
variable {i : Slot} {r : RecipeNo} {s : State}

theorem takeNotice_startRefused {why : Reason} (h : s.startRefusal i r = some why) :
    takeNotice i (.startRequest r) s = sendTo i .cache (.deny why) s := by
  unfold takeNotice startRequest
  dsimp only
  rw [h]

theorem takeNotice_startAccepted (h : s.startRefusal i r = none) :
    takeNotice i (.startRequest r) s = beginStart i r .panel none s := by
  unfold takeNotice startRequest
  dsimp only
  rw [h]

end

/-! ## ABORT (R111) -/

section
variable {i : Slot} {a : PendingAbort} {before after : List PendingAbort} (hb : ∀ b ∈ before, b.slot ≠ i) (ha : a.slot = i)
include hb ha

theorem find_firstAbort : (before ++ a :: after).find? (fun b => b.slot == i) = some a := by
  have hnone : before.find? (fun b => b.slot == i) = none := List.find?_eq_none.mpr fun b h => by simp [hb b h]
  rw [List.find?_append, hnone, Option.none_or]
  exact List.find?_cons_of_pos (beq_iff_eq.mpr ha)

theorem dropFirstAbort_eq : dropFirstAbort i (before ++ a :: after) = before ++ after := by
  induction before with
  | nil => exact if_pos ha
  | cons b t ih =>
    have ht := ih fun x hx => hb x (List.mem_cons_of_mem b hx)
    exact (if_neg (hb b List.mem_cons_self)).trans (congrArg (b :: ·) ht)

end

theorem Entry.cooks_iff (e : Entry) (t : Byte) : e.cooks t = true ↔ e.activity = .cooking ∧ ∃ k, e.cook = some k ∧ k.token = t := by
  unfold Entry.cooks
  cases e.cook <;> simp

section
variable {i : Slot} {s : State}

theorem abortOutcome_none (h : ∀ b ∈ s.cache.aborts, b.slot ≠ i) (gone : Bool) (o : Outcome) : abortOutcome i gone o s = s := by
  have hnone : s.cache.aborts.find? (fun a => a.slot == i) = none := List.find?_eq_none.mpr fun b hb => by simp [h b hb]
  unfold abortOutcome
  rw [hnone]

/-- The ABORT records with one of them gone. -/
def State.withAborts (s : State) (l : List PendingAbort) : State := { s with cache := { s.cache with aborts := l } }

variable {a : PendingAbort} {before after : List PendingAbort} (hl : s.cache.aborts = before ++ a :: after)
  (hb : ∀ b ∈ before, b.slot ≠ i) (ha : a.slot = i)
include hl hb ha

theorem abortOutcome_ended {gone : Bool} (h : gone = true ∨ ¬(s.ent i).cooks a.token = true) (o : Outcome) :
    abortOutcome i gone o s = completeAbort a .done 1 (s.withAborts (before ++ after)) := by
  unfold abortOutcome
  rw [hl, find_firstAbort hb ha, dropFirstAbort_eq hb ha]
  exact if_pos (by simpa using h)

section
variable (h : (s.ent i).cooks a.token = true)
include h

theorem abortOutcome_ack :
    abortOutcome i false (.valid .ack) s = completeAbort a .done 0 (s.withAborts (before ++ after)) := by
  unfold abortOutcome
  rw [hl, find_firstAbort hb ha, dropFirstAbort_eq hb ha]
  exact if_neg (by simp [h])

theorem abortOutcome_denied {r : Reply} (hr : r ≠ .ack) :
    abortOutcome i false (.valid r) s = completeAbort a .denied 2 (s.withAborts (before ++ after)) := by
  unfold abortOutcome
  rw [hl, find_firstAbort hb ha, dropFirstAbort_eq hb ha]
  refine (if_neg (by simp [h])).trans ?_
  cases r with
  | ack => exact absurd rfl hr
  | _ => rfl

theorem abortOutcome_failed (b : Bool) :
    abortOutcome i false (.failed b) s = completeAbort a .line 0 (s.withAborts (before ++ after)) := by
  unfold abortOutcome
  rw [hl, find_firstAbort hb ha, dropFirstAbort_eq hb ha]
  exact if_neg (by simp [h])

end
end

end Sys2Proof.Machine

open Sys2Proof.Machine in
/-- Settles O40: a GRANT's outcome, adoption, the notices of a cook, its silence, a start request and an ABORT's outcome. -/
theorem cooksFollowed : Obligations.CooksFollowed := by
  unfold Obligations.CooksFollowed
  intro l i q s
  refine ⟨fun t r v hq => ⟨fun p g hp hst hg hc ht hr hv => ?grant, fun hp hi hd => ?abandoned⟩, fun t r v => ?adopt,
    fun t r v k o n hn => ⟨fun hs => ⟨fun c ha hc => ⟨fun ht hr hv => ⟨fun hstep => ?step, fun hend => ?ended⟩, fun hne => ?other⟩,
      fun hi ha => ?uncooking, fun ha => ?idle⟩, fun hs hs' => ?stateless⟩,
    fun c hm hrun hs ha hc => ?silence,
    fun r => ⟨fun why hw => ?deny, fun d hw hh hd => ?hit, fun hw hh => ?miss⟩, fun hq ho o => ?abort, abortOutcome_none,
    fun a before after o gone hl hb ha => ?outcome⟩
  case grant =>
    have hname := GrantRec.names_of hc ht hr hv
    simp only [deliverTo_grant s hq]
    subst ht hr hv
    refine ⟨?_, fun n => ?_, fun b => ?_⟩
    · exact (grantOutcome_ack hp hst hg hname).trans (grantAcked_eq p g)
    · rw [grantOutcome_nak hp hst hg hname, grantEnds_eq, State.ent_setEnt_self, State.setEnt_setEnt]
      rfl
    · exact (grantOutcome_failed hp hst hg hname b).trans (grantEnds_eq ..)
  case abandoned =>
    simp only [deliverTo_grant s hq, grantOutcome_abandoned hp]
    exact ⟨abandonedGrant_ack hi, abandonedGrant_nak hi hd, abandonedGrant_failed hi hd⟩
  case adopt =>
    obtain ⟨m, hent⟩ := ent_adopt_any (i := i) (s := s) t r v
    have hdir : ((adopt i t r v s).ent i).dir = (adoptDir (s.ent i).dir r v (s.staleFor r v)).1 := by rw [hent]; rfl
    refine ⟨by rw [hent]; rfl, by rw [rslot_adopt], by rw [hent]; rfl, by rw [hent]; rfl, fun d hd hv => ?_, fun d hd hv => ?_,
      fun hd hlen => ?_, fun front last hd hlast hlen => ?_, adopt_aborts t r v⟩
    · rw [hdir, adoptDir_kept _ hd hv]
      rfl
    · rw [hdir, adoptDir_replaced _ hd hv]
      rfl
    · rw [hdir, adoptDir_joined _ hd hlen]
      rfl
    · have hfull := adoptDir_full (v := v) (s.staleFor r v) hd hlast hlen
      exact ⟨by rw [hdir, hfull]; rfl, adopt_evicts t r v (by rw [hfull])⟩
  case step =>
    subst hstep
    exact (cookNotice_own hs ha hc ((c.names_iff ..).mpr ⟨ht, hr, hv⟩)).trans (takeCookNews_step hc k)
  case ended =>
    subst hend ht hr hv
    have hx : takeNotice i (.cookEnd c.token c.recipe c.version o k) s = evictAtEnd i (s.cookClosed i c o k) :=
      (cookNotice_own hs ha hc ((c.names_iff ..).mpr ⟨rfl, rfl, rfl⟩)).trans (takeCookNews_ended hc o k)
    obtain ⟨hreport, hrecipe⟩ := evictAtEnd_keeps i (s.cookClosed i c o k)
    rw [hx]
    refine ⟨?_, ?_, cookEnded_waitingOn i s c o k, ?_⟩
    · rw [State.rslot_congr hrecipe, rslot_cookClosed]
    · rw [ent_evictAtEnd, ent_cookClosed]
      rfl
    · rw [hreport]
      exact cookClosed_passed ..
  case other =>
    obtain ⟨news, htake⟩ := takeNotice_cook hn i
    refine (htake s).trans (cookNotice_other hs ha hc fun hname => ?_)
    obtain ⟨ht, hr, hv⟩ := (c.names_iff ..).mp hname
    simp [ht, hr, hv] at hne
  case uncooking =>
    obtain ⟨news, htake⟩ := takeNotice_cook hn i
    exact (htake s).trans (cookNotice_uncooking hs hi ha)
  case idle =>
    obtain ⟨news, htake⟩ := takeNotice_cook hn i
    exact ((htake s).trans (cookNotice_adopted hs ha)).trans (htake _).symm
  case stateless =>
    obtain ⟨news, htake⟩ := takeNotice_cook hn i
    exact (htake s).trans (cookNotice_stateless hs hs')
  case silence =>
    have hclosed : whenRunning (s.ent i).silence (silenceExpired i) s = closeCookUnknown i (s.silenced i) :=
      (whenRunning_some _ _ hrun).trans (silenceExpired_cooking hs ha)
    obtain ⟨y, hy, hends⟩ := row_endsAs (exec_silenceTimerExpiry i hm) (congrArg settle hclosed)
    obtain ⟨hpins, hout, hpassed⟩ := silenced_cook hc
    exact ⟨y, _, hy, hends, hpins, hout, hpassed⟩
  case deny => exact takeNotice_startRefused hw
  case hit => exact (takeNotice_startAccepted hw).trans (beginStart_hit .panel none hh hd)
  case miss => exact (takeNotice_startAccepted hw).trans (beginStart_miss .panel none hh)
  case abort =>
    unfold deliverTo
    rw [hq]
    exact if_pos ho
  case outcome =>
    intro y ends runs
    have hruns : (s.ent i).cooks a.token = true ↔ runs := Entry.cooks_iff ..
    refine ⟨fun h => abortOutcome_ended hl hb ha (h.imp_right fun hn hc => hn (hruns.mp hc)) o, fun hg hr => ?_⟩
    have hcooks := hruns.mpr hr
    rw [hg]
    exact ⟨abortOutcome_ack hl hb ha hcooks, fun r hne => abortOutcome_denied hl hb ha hcooks hne,
      abortOutcome_failed hl hb ha hcooks⟩
end
